-- ==== Sys2Proof/Word.lean ====
section
/-! DEFINITION. Word.lean: the word types of the VX9's registers and memories. -/

namespace Sys2Proof

/-- One byte of a memory or of a message. -/
abbrev Byte := BitVec 8

/-- A 32-bit register or register word. -/
abbrev Word32 := BitVec 32

/-- A 64-bit register or register part. -/
abbrev Word64 := BitVec 64

end Sys2Proof
end

