-- ==== Sys2Proof/Syntax.lean ====
section
/-! DEFINITION. Syntax.lean: the commands of the VX9, one constructor of `Instr` for each row of
spec/opcode_table.json, with the operands that the outside world (host, board controller, cables,
fabric peers, the hardware's own timers and completion signals) gives with each of them. The table
itself gives the rows no operand bits; each operand below is what the row's rule speaks of
(assumption log 2). -/

namespace Sys2Proof

/-- The three paths of R104 that reach the mailbox slots. -/
inductive Path where
  | host
  | management
  | fabric
  deriving DecidableEq, Repr

/-- The bus-matrix masters of R78, with the codes 0 to 5 in this order. -/
inductive Master where
  | cpuInstr
  | cpuData
  | pcie
  | debug
  | dma
  | mirror
  deriving DecidableEq, Repr

/-- One TLV of a message (R115): its 16-bit tag as sent, the value length in bytes, and the value
read as one little-endian number. -/
structure Tlv where
  tag : Nat
  len : Nat
  val : Nat
  deriving DecidableEq, Repr

/-- What the checks of R472 on the peer compare with its own channel: the active's D, its outputs (kind, and of every leg
the destination, ports, SSRC and payload type) and its input's frame rate. -/
structure HandoverCfg where
  delayNs : Nat
  outputs : List (List Nat)
  rateNum : Nat
  rateDen : Nat
  deriving DecidableEq, Repr

/-- A request as firmware carries it out (R113): the path it came on, the header fields and the
TLVs. `slot` is the mailbox slot that holds it, `node` the fabric peer of a fabric-path request, `sender` what a peer's
PROT.HANDOVER tells of the active's channel (R472). -/
structure Req where
  path : Path
  rev : Nat
  flags : BitVec 16
  seq : Word32
  channel : Nat
  slot : Option (Fin 32)
  node : Nat
  tlvs : List Tlv
  sender : Option HandoverCfg
  deriving DecidableEq, Repr

/-- A unit that can be counted, tested and retired, by the type codes 1 to 10 of R515. -/
inductive UnitRef where
  | cell (n : Fin 1024)
  | block (n : Fin 64)
  | region (n : Fin 8)
  | controller (n : Fin 8)
  | lane (p : Fin 8) (l : Fin 5)
  | fabPort (n : Fin 8)
  | sdiPort (n : Fin 8)
  | mediaPort (n : Fin 2)
  | audioPort (n : Fin 8)
  | control
  deriving DecidableEq, Repr

/-- A port that port-off applies to (R52). -/
inductive PortRef where
  | fab (n : Fin 8)
  | media (n : Fin 2)
  | sdi (n : Fin 8)
  deriving DecidableEq, Repr

/-- The RC fields of the register map (R546). -/
inductive RcField where
  | errCount
  | mbxRespLost
  | mbxDbIgnored
  | mbxDropped
  | evtLost
  | tskStale (r : Fin 8)
  | tskAllocFail (r : Fin 8)
  | eccCorrected (n : Fin 8)
  | eccUncorr (n : Fin 8)
  | laneCodeErr (p : Fin 8) (l : Fin 4)
  | portReplays (p : Fin 8)
  | portMrkDrop (p : Fin 8)
  | rtUnroutable
  | rtHopDrop
  | rtBadHdr
  | rtDupDrop
  | audUnderrun (n : Fin 8)
  | monUnderCount
  | drawErrCount
  | healthSupply
  deriving DecidableEq, Repr

/-- A power rail of R530, with the rail codes of SMB_PWR_CAUSE (R552). -/
inductive Rail where
  | aux
  | core
  | sram
  | vpp
  | vddq
  | serdesIo
  deriving DecidableEq, Repr

/-- A QSFP28 module as its identification describes it (R183). -/
inductive QsfpKind where
  | passiveCopper
  | other100G
  | breakout
  | absent
  deriving DecidableEq, Repr

/-- What a DRAM read met in the ECC check (R350, R351). -/
inductive EccOutcome where
  | clean
  | corrected
  | secondReadGood
  | uncorrectable
  deriving DecidableEq, Repr

/-- The service classes of R345, coded 0 to 3 in this order. -/
inductive SvcClass where
  | iso
  | pipe
  | cell
  | bulk
  deriving DecidableEq, Repr

/-- Where a block's DMA has the other end of a transfer (R308): an address of the block memory, or of the local memory of
a cell of the block. -/
inductive DmaPlace where
  | block (addr : Fin 1048576)
  | cell (n : Fin 16) (addr : Fin 65536)
  deriving DecidableEq, Repr

/-- What ends an attempt of a task in a fault (R327, R355, R500): an uncorrectable error in the cell's local memory, an
uncorrectable word of the block memory at an address, or a failed transfer of the block's DMA. -/
inductive AttemptError where
  | localMemory
  | blockWord (addr : Fin 1048576)
  | dma
  deriving DecidableEq, Repr

/-- Who issued a memory request: what class, port and activity it has (R31, R40, R309, R345) and what a poisoned
read does to it (R352). `task` is a cell that runs a task, `blockDma` a block's DMA for a task, `dispatcher` the
descriptor fetch for a cell; a task is named by its home region and slot. `parity` says that the reference cache's copy of
the sector has a parity error (R355). `router` is the fabric router for a packet of a virtual channel and a channel's
traffic. -/
inductive MemReader where
  | task (region : Fin 8) (slot : Nat)
  | blockDma (block : Fin 64) (region : Fin 8) (slot : Nat) (place : DmaPlace)
  | dispatcher (cell : Fin 1024)
  | pipeline (ch : Fin 64) (slice : Nat) (parity : Bool)
  | ingest (ch : Fin 64)
  | pix (ch : Fin 64)
  | egress (ch : Fin 64)
  | mirror (ch : Fin 64)
  | router (vc : Fin 4) (ch : Fin 64)
  | audio
  | monitor (layer : Nat)
  | firmware
  | bar2
  | dma
  | drawing
  | closed
  | other
  deriving DecidableEq, Repr

/-- One request to a memory controller (R346): within one 64-byte sector. `data` is present for a
write; a write of all 64 bytes is a full write (R351). `activity` and `cls` count only for the reader `other`, and of
`port` only what the requester's place leaves open: the device gives each requester its own (`issued`). -/
structure MemReq where
  addr : Nat
  len : Nat
  data : Option (List Byte)
  activity : Nat
  cls : SvcClass
  port : Nat
  reader : MemReader
  deriving DecidableEq, Repr

/-- The target of a join counter (R318). -/
inductive JoinTarget where
  | task (handle : Nat)
  | band (ch : Nat) (band : Nat) (row : Nat)
  | firmware
  deriving DecidableEq, Repr

/-- A task descriptor's fields (R311); `excluded` and `attempt` are the dispatcher's. -/
structure TaskDesc where
  kernel : Nat
  channel : Nat
  cls : Fin 4
  depCount : Nat
  affinity : Nat
  succ : List Nat
  join : Nat
  excluded : Nat
  attempt : Nat
  args : List Nat
  deriving DecidableEq, Repr

/-- The place of a mode-decision task in the wavefront of a band: the band's CTU columns and rows, and its CTU (R317). -/
structure CtuPlace where
  cols : Nat
  rows : Nat
  x : Nat
  y : Nat
  deriving DecidableEq, Repr

/-- Who issues a dispatcher operation (R312): a cell by its flat number, or the control processor
through the submission window of a region. -/
inductive TskIssuer where
  | cell (n : Fin 1024)
  | firmware (r : Fin 8)
  deriving DecidableEq, Repr

/-- A media-port packet's protocol, as the receive side sorts it (R189). -/
inductive PktProto where
  | ptp
  | arp
  | icmpEcho
  | igmpQuery
  | rtp
  | other
  deriving DecidableEq, Repr

/-- An ST 291 ancillary packet as captured (R203). -/
structure AncPkt where
  did : Nat
  sdid : Nat
  checksumOk : Bool
  payload : Nat
  /-- The cc_data triplets of closed captions (R265). -/
  triplets : Nat
  deriving DecidableEq, Repr

/-- The form of an RTP payload (R186): lines of RFC 4175 in general or block packing, a JPEG XS codestream or its
slices (RFC 9134), NAL units alone, aggregated or in fragments (RFC 7798, RFC 9328), TS packets with, or without, the
first byte of a picture's PES packet (ST 2022-2), forward error correction of ST 2022-1, or ancillary data or audio. -/
inductive PktForm where
  | lines (block : Bool)
  | codestream
  | slices
  | nal (donl : Bool)
  | aggregate (donl : Bool)
  | fragment (donl : Bool)
  | ts (packets : Nat) (pes : Bool)
  | fec
  | data
  deriving DecidableEq, Repr

/-- What a packet carries of one line (R186): the line (for a coded stream the picture, line 0), the packet's place
among the `parts` packets that carry samples of it, whether that first place began in the line before, and what the
samples are. -/
structure PktSeg where
  line : Nat
  part : Nat
  parts : Nat
  carried : Bool
  digest : Nat
  deriving DecidableEq, Repr

/-- A packet received on a media interface (R186 to R193). `segs` are the parts of lines that a video packet carries,
and `rtpTs` names their picture; `coded` is the format that the parameter sets or header in a coded stream's packet
give, laid out as FORMAT (R175); for audio `digest` stands for the samples; `anc` is what an ancillary packet carries.
`stamp` is the arrival stamp in quarter ns of device time (R149). -/
structure MediaPkt where
  iface : Fin 8
  proto : PktProto
  dstIp : Word32
  srcIp : Word32
  dstPort : Nat
  srcPort : Nat
  payloadType : Nat
  ssrc : Word32
  vlan : Nat
  dscp : Nat
  frameBytes : Nat
  seq : Nat
  rtpTs : Nat
  marker : Bool
  form : PktForm
  segs : List PktSeg
  coded : Option Nat
  digest : Nat
  anc : List AncPkt
  stamp : Nat
  deriving DecidableEq, Repr

/-- The signal that an SDI port's receiver has locked to (R178, R179, R181): the link's rate (0 to 3 for 1.485, 2.97,
5.94 and 11.88 Gb/s) and whether it is divided by 1.001; the link format (a LINK code), link number (1 up) and picture
(laid out as FORMAT) that its ST 352 payload ID declares; the active samples a line and lines that its line structure
shows; and its arrival after the first link of its group (ns). -/
structure SdiLock where
  rate : Fin 4
  div1001 : Bool
  link : Nat
  number : Nat
  picture : Nat
  lineSamples : Nat
  lineCount : Nat
  skewNs : Nat
  deriving DecidableEq, Repr

/-- What an SDI port's receiver sees (R181). -/
inductive SdiSignal where
  | unlocked
  | locked (x : SdiLock)
  deriving DecidableEq, Repr

/-- A PTP event's timing on a media port or the fabric: source 0 MP0, 1 MP1, 2 fabric. The origin time is
in ns, the correctionField in 2^-16 ns, and the arrival stamp in quarter ns as it comes (R149); `logInterval` is
logSyncInterval (R150). -/
structure SyncMsg where
  domain : Nat
  source : Fin 3
  identity : Nat
  seq : Nat
  twoStep : Bool
  origin : Nat
  correction : Nat
  stamp : Nat
  logInterval : Int
  deriving DecidableEq, Repr

/-- A HELLO's payload (R384). -/
structure HelloMsg where
  uid : Nat
  candUid : Nat
  candEpoch : Nat
  node : Nat
  ifRevMax : Nat
  priority : Nat
  candPriority : Nat
  candDistance : Nat
  level : Nat
  mode : Nat
  port : Nat
  office : Bool
  deriving DecidableEq, Repr

/-- A port's line in a port report (R388). -/
structure PortLine where
  state : Nat
  lanes : Nat
  peerUid : Nat
  peerPort : Nat
  deriving DecidableEq, Repr

/-- A node as the manager learns it (R388), with the domain numbers that it has locked on a media port (R161). -/
structure NodeReport where
  uid : Nat
  valid : Bool
  node : Nat
  level : Nat
  dormant : Bool
  locked : List Nat
  path : List Nat
  ports : List PortLine
  deriving DecidableEq, Repr

/-- What the model reads of a fabric packet's payload: a Sync or a Follow_Up in a time packet (R160), with the time that
the packet stays in this router (2^-16 ns); the fabric time sources that the manager names, as domain numbers and nodes
(R161); a booking that its module releases, by destination and bytes (R403); a HELLO (R384), a port report (R388) or an
address assignment (R389); bytes laid out in full; or nothing. -/
inductive FabBody where
  | plain
  | sync (m : SyncMsg) (residence : Nat)
  | followUp (domain identity seq origin correction : Nat)
  | sources (named : List (Nat × Nat))
  | unbook (dest bytes : Nat)
  | hello (m : HelloMsg)
  | report (n : NodeReport)
  | assign (node : Nat)
  | bytes (bs : List Nat)
  deriving DecidableEq, Repr

/-- The header of a fabric packet (R392), with what the router sees beside it: the number of payload
bytes received, whether a reserved bit is set, the directed-route bytes, and the payload. -/
structure FabPkt where
  dest : Nat
  src : Nat
  vc : Fin 4
  type : Nat
  length : Nat
  seq : Nat
  hops : Nat
  mcast : Bool
  resent : Bool
  first : Bool
  last : Bool
  cls : Fin 2
  dr : Bool
  group : Nat
  level : Nat
  tag : Nat
  arg : Nat
  received : Nat
  reservedSet : Bool
  route : List Nat
  back : List Nat
  activity : Nat
  body : FabBody
  deriving DecidableEq, Repr

/-- A lease or takeover message's payload (R461). -/
structure LeaseMsg where
  activeNode : Nat
  activeCh : Nat
  shadowCh : Nat
  shadowNode : Nat
  witness : Nat
  epoch : Nat
  slice : Nat
  reason : Nat
  timeA : Nat
  timeB : Nat
  deriving DecidableEq, Repr

/-- One entry of a heartbeat frame (R459). -/
structure CroakEntry where
  activeNode : Nat
  activeCh : Nat
  role : Nat
  state : Nat
  through : Nat
  deriving DecidableEq, Repr

/-- A heartbeat frame (R459). -/
structure CroakMsg where
  sender : Nat
  mode : Nat
  part : Nat
  parts : Nat
  sendTime : Nat
  entries : List CroakEntry
  deriving DecidableEq, Repr

/-- A rate-control bucket's fill and rate (R292). -/
structure Bucket where
  fill : Nat
  rate : Nat
  deriving DecidableEq, Repr

/-- The checkpoint of R455, field by field; `outputs` holds the next RTP sequence number and the
five continuity counters of each output, `plan` the rate-control planning state. -/
structure Checkpoint where
  format : Nat
  activeCh : Nat
  lastSlice : Bool
  keyPicture : Bool
  refreshStart : Bool
  rcFloor : Bool
  slice : Nat
  slices : Nat
  capture : Nat
  codingNo : Nat
  gopPos : Nat
  gopLen : Nat
  sliceBytes : Nat
  pictureBytes : Nat
  bucketT : Bucket
  bucketA : Bucket
  sinceBp : Nat
  lastKey : Nat
  lastHashReset : Nat
  refreshCol : Nat
  refreshLeft : Nat
  reqKey : Nat
  reqKeyCause : Nat
  modIndex : Nat
  modValue : Nat
  modEffective : Nat
  handoverPeer : Nat
  handoverPicture : Nat
  layerEffective : List Nat
  outputs : List (Nat × List Nat)
  plan : Nat
  deriving DecidableEq, Repr

/-- A mirror record as it arrives (R454): its checkpoint, the emission units that its slice completes as bytes
and filler bytes, the mirrored source digest, whether its CRC and packets are complete, and the integrity flag
of the decoded slice (R269). -/
structure MirrorRec where
  node : Nat
  ch : Fin 64
  checkpoint : Checkpoint
  units : List (Nat × Nat)
  digest : Nat
  intact : Bool
  decodeFlag : Fin 3
  deriving DecidableEq, Repr

/-- A motion vector that a pipeline chose for the block at a position, and the candidates around which it searched, in
quarter luma samples; kind 0 is a predictor, 1 a hash candidate, 2 zero (R233, R247). -/
structure Motion where
  x : Nat
  y : Nat
  dx : Int
  dy : Int
  cands : List (Nat × Int × Int)
  deriving DecidableEq, Repr

/-- A coded slice as the pipeline finishes it (R282, R303 to R305): for each CTU its bits at the QP
in force, at the profile maximum QP, and in skip-fill form, the bits around its CTUs (headers, trailing bits
and, in the first slice, what precedes it but the SEI of R264), and whether the lookahead analysis has found that the first picture
not yet issued begins a new scene; and for a decode, what the decoder met (R267 to R270): concealed, derived, a
clean point, and a format difference (0 none, 1 to 5 the reason of EV_DECODE_FORMAT, 6 that no parameter sets have come). `motion` holds the motion vectors of
an encoded slice, `anc` the ancillary data in the SEI of a decoded one (R266). -/
structure SliceRes where
  capture : Nat
  slice : Nat
  ctus : List (Nat × Nat × Nat)
  headBits : Nat
  sceneChange : Bool
  concealed : Bool
  derived : Bool
  cleanPoint : Bool
  formatDiff : Nat
  motion : List Motion
  anc : List AncPkt
  deriving DecidableEq, Repr

/-- Grandmaster data of an Announce (R150); `receiptTimeout` is announceReceiptTimeout where it is not the default. -/
structure AnnounceMsg where
  domain : Nat
  port : Fin 2
  priority1 : Nat
  clockClass : Nat
  accuracy : Nat
  variance : Nat
  priority2 : Nat
  identity : Nat
  stepsRemoved : Nat
  logInterval : Int
  receiptTimeout : Option Nat
  deriving DecidableEq, Repr

/-- Who claims a mailbox slot (R107): a bus master and, of the fabric path, the peer's node. -/
structure Claim where
  master : Master
  node : Fin 512
  deriving DecidableEq, Repr

/-- An end of a management datagram (R122): an IPv4 address and a UDP port. -/
structure Endpoint where
  ip : Word32
  port : Nat
  deriving DecidableEq, Repr

/-- How a peer answered a command over the fabric (R125). -/
structure PeerResult where
  status : Nat
  detail : Nat
  deriving DecidableEq, Repr

/-- Where a link frame arrives, and whether its CRC is correct (R377). -/
structure FrameAt where
  port : Fin 8
  good : Bool
  deriving DecidableEq, Repr

/-- A descriptor as it is submitted, with the place of a mode-decision task (R312, R317). -/
structure Submission where
  desc : TaskDesc
  decision : Option CtuPlace
  deriving DecidableEq, Repr

/-- A cell that ends its task, and the single-bit errors that its memory corrected in it (R500). -/
structure DoneReport where
  cell : Fin 1024
  corrected : Nat
  deriving DecidableEq, Repr

/-- A cell whose attempt of a task ends in a fault, and the fault (R327). -/
structure AttemptFault where
  cell : Fin 1024
  why : AttemptError
  deriving DecidableEq, Repr

/-- An edge of a GPIO input: its direction, and its stamp in ns (R136). -/
structure GpioEdge where
  rising : Bool
  stamp : Nat
  deriving DecidableEq, Repr

/-- A line as the monitor had composed it when its scan began: the lines composed, and the pixels whose store read
failed (R355, R488). -/
structure LineState where
  composed : Nat
  bad : List Nat
  deriving DecidableEq, Repr

/-- The commands of the VX9: one constructor for each row of the opcode table, in its order. Stamps are in
quarter ns of device time (R149). The digest of an image check is what the hash engine gives for the body. -/
inductive Instr where
  -- Mailbox commands that firmware carries out (chapters 02 to 19)
  | devInfo (r : Req)
  | devMode (r : Req)
  | devCapacity (r : Req)
  | devLedger (r : Req)
  | devAlloc (r : Req)
  | devFree (r : Req)
  | devRestart (r : Req)
  | devReset (r : Req)
  | devMgmt (r : Req)
  | devPort (r : Req)
  | devGpio (r : Req)
  | chanConfigure (r : Req)
  | chanStart (r : Req)
  | chanStop (r : Req)
  | chanModify (r : Req)
  | chanClear (r : Req)
  | chanStatus (r : Req)
  | chanKey (r : Req)
  | inConfigure (r : Req)
  | inClear (r : Req)
  | inStatus (r : Req)
  | inPolice (r : Req)
  | outConfigure (r : Req)
  | outClear (r : Req)
  | outStatus (r : Req)
  | pixConfigure (r : Req)
  | pixLoad (r : Req)
  | pixLayer (r : Req)
  | pixCommit (r : Req)
  | monConfigure (r : Req)
  | monStart (r : Req)
  | monStop (r : Req)
  | monLayer (r : Req)
  | monCommit (r : Req)
  | timeStatus (r : Req)
  | timeConfigure (r : Req)
  | timeSelect (r : Req)
  | timeIo (r : Req)
  | fabStatus (r : Req)
  | fabPort (r : Req)
  | fabPriority (r : Req)
  | fabRoute (r : Req)
  | protConfigure (r : Req)
  | protStatus (r : Req)
  | protHandover (r : Req)
  | protDissolve (r : Req)
  | protJoin (r : Req)
  | protSetting (r : Req)
  | audPort (r : Req)
  | audStart (r : Req)
  | audStop (r : Req)
  | audRoute (r : Req)
  | audStatus (r : Req)
  | hlthStatus (r : Req)
  | hlthFaults (r : Req)
  | hlthSelftest (r : Req)
  | hlthThresh (r : Req)
  | fwInfo (r : Req)
  | fwWrite (r : Req)
  | fwActivate (r : Req)
  | fwRollback (r : Req)
  | fwBootflag (r : Req)
  -- Completions, modes and channels (chapters 03, 05, 19)
  | fwWriteDone (slot : Fin 2) (verified : Bool)
  | selftestDone (failed : List UnitRef) (passed : List UnitRef)
  | modeTransitionComplete
  | drainLimitExpiry
  | portRelock (p : PortRef)
  | captureInstant (ch : Fin 64) (capture : Nat)
  | shadowStopSlotEnd (ch : Fin 64)
  -- Control processor, bus matrix and boot (chapter 04)
  | lockstepMismatch
  | ctlSramUncorrectable
  | fwFatalException
  | kick (m : Master) (v : Word32)
  | watchdogExpiry
  | restartImageCheckDone (digest : Nat)
  | done (m : Master) (v : Word32)
  | restartTimeout
  | busDecodeMiss (m : Master) (write : Bool) (posted : Bool) (addr : BitVec 40)
  | valid (m : Master) (v : Word64)
  | rcFieldRead (f : RcField) (m : Master)
  | remap (m : Master) (v : Word32)
  | dbgAuth (challenge : BitVec 256)
  | dbgAuthVerify (key : List Byte) (sig : List Byte)
  | dbgLockoutExpiry
  | debugDisconnect
  | ctlWinWrite (n : Fin 16) (m : Master) (v : Word64)
  | bar2WindowAccess (offset : BitVec 30) (len : Nat) (data : Option (List Byte))
  | pcieReset
  | ctlDmaAbort
  | powerQualified
  | railStep
  | railFail (r : Rail)
  | railRetryTimer
  | powerSequenceEnd
  | bootImageCopyDone (digest : Nat)
  | go (m : Master) (v : Word32)
  | hostImageVerifyDone (digest : Nat)
  -- Mailbox hardware and events (chapter 05)
  | ctlMbxSlotClaim (n : Fin 32) (first : Claim) (others : List Claim)
  | mbxSlotMemoryWrite (m : Master) (node : Fin 512) (offset : Fin 131072) (data : List Byte)
  | doorbell (n : Fin 32) (m : Master) (node : Fin 512) (v : Word32)
  | ctlMbxSlotRelease (n : Fin 32) (m : Master) (node : Fin 512) (v : Word32)
  | mbxCommandComplete (n : Fin 32)
  | ctlMbxDoneClear (m : Master) (v : Word32)
  | commandTake
  | mgmtDatagram (dst : Endpoint) (src : Endpoint) (msg : List Byte) (tag : BitVec 128)
  | mailboxRequest (node : Fin 512) (msg : List Byte)
  | mailboxResponse (node : Nat) (opcode : Nat) (channel : Nat) (result : PeerResult) (tlvs : List Tlv)
  | peerCommandTimeout (node : Nat) (opcode : Nat) (channel : Nat)
  | eventRingWrite
  | cons (v : Word32)
  | enSet (v : Word32)
  | enClear (v : Word32)
  | holdoffExpiry
  -- Ledger and time boundaries (chapters 02, 06)
  | ledgerPeriodBoundary
  | secondBoundary
  -- Memory system (chapter 12)
  | memRequest (mc : Fin 8) (arrivals : List MemReq) (ecc : EccOutcome)
  | patrolScrub (mc : Fin 8) (ecc : EccOutcome)
  | stackTempRead (stack : Fin 4) (temp : Nat)
  | refreshDue (mc : Fin 8) (bank : Nat) (idle : Bool)
  | memBankMask (j : Fin 6) (m : Master) (v : Word64)
  | lost (m : Master) (v : Word32)
  | eccLogValid (n : Fin 8) (m : Master) (v : Word64)
  | mcLost (mc : Fin 8)
  | evacGranuleCopy (ecc : EccOutcome)
  | evacComplete
  -- Time (chapter 06)
  | timeCopyUpdate
  | timNowLatch (m : Master)
  | timPpsInLatch (m : Master)
  | ptpSyncRx (p : SyncMsg)
  | ptpAnnounceRx (a : AnnounceMsg)
  | ptpDelayRespRx (domain : Nat) (t3 : Nat) (t4 : Nat) (logInterval : Int)
  | announceTimeout (slot : Fin 2)
  | slewComplete
  | timeStep
  | fabTimePacketRx (inPort : Fin 8) (head : FabPkt) (body : FabBody) (residence : Nat)
  | fabTimeSourceSend (slot : Fin 2)
  | linkTimingExchange (p : Fin 8)
  | timingRequest (p : FrameAt) (seq : Nat) (t2 : Nat) (t3 : Nat)
  | timingResponse (p : FrameAt) (seq : Nat) (turnaround : Nat) (t4 : Nat)
  | ppsInEdge (stamp : Nat)
  | ppsOutPulse
  -- Launch, emission and ingest (chapters 06, 07, 10, 15)
  | packetLaunch (iface : Fin 8)
  | unitEnqueue (ch : Fin 64)
  | qsfpInsert (port : Fin 2) (kind : QsfpKind)
  | mniIfWrite (n : Fin 8) (m : Master) (word : Fin 4) (v : Word32)
  | mediaPacketRx (p : MediaPkt)
  | rxWindowExpiry (input : Fin 128)
  | inputAbsenceTimeout (input : Fin 128)
  | sdiSignalChange (port : Fin 8) (sig : SdiSignal)
  | sdiSav (port : Fin 8) (stamp : Nat)
  | inputUnlockTimeout (input : Fin 128)
  | syncSlotFill (input : Fin 128)
  | absentFreezeExpiry (input : Fin 128)
  | arpRefresh (output : Fin 128) (leg : Fin 2) (mac : Option (BitVec 48))
  -- Picture processing (chapter 08)
  | pixPathPicture (ch : Fin 64) (capture : Nat) (content : Nat)
  | pixFenceWrite (n : Fin 256) (m : Master) (v : Word32)
  | layerLatch (ch : Fin 64) (capture : Nat)
  | releaseFenceWrite
  -- Cells and the task dispatcher (chapter 11)
  | alloc (by_ : TskIssuer) (count : Nat)
  | submit (by_ : TskIssuer) (handle : Nat) (d : Submission)
  | joinAlloc (by_ : TskIssuer) (count : Nat) (target : JoinTarget)
  | take (cell : Fin 1024)
  | taskDone (d : DoneReport)
  | doneTake (d : DoneReport)
  | cancel (ch : Fin 64)
  | taskGrant (region : Fin 8)
  | lendExamine
  | taskAttemptFault (f : AttemptFault)
  | taskTimeLimit (cell : Fin 1024)
  | blockClockChange (block : Fin 64) (mhz : Nat)
  | blockRelock (block : Fin 64)
  | blockRelockTimeout (block : Fin 64)
  -- Coding engine (chapters 09, 10, 19)
  | pipelineFrameIssue (cp : Fin 8)
  | sliceCoded (cp : Fin 8) (ch : Fin 64) (res : SliceRes)
  | pipelineParityError (cp : Fin 8)
  | dispatcherParityError (region : Fin 8)
  | decodeAuDeadline (ch : Fin 64) (capture : Nat)
  | gpioEdge (n : Fin 32) (e : GpioEdge)
  -- Fabric ports and links (chapter 13)
  | ckLock (p : Fin 8)
  | laneAdaptDone (p : Fin 8) (foms : List Nat) (inverted : List Bool) (commas : List Bool)
  | slip (p : Fin 8) (l : Fin 4) (m : Master) (v : Word32) (comma : Bool)
  | retrain (p : Fin 8) (l : Fin 4) (m : Master) (v : Word32)
  | retire (p : Fin 8) (l : Fin 4) (m : Master) (v : Word32)
  | deskewDone (p : Fin 8) (lags : List Nat) (laneIds : List Nat)
  | width (p : FrameAt) (usable : Nat) (proposed : Nat) (generation : Nat)
  | fomMeasure (p : Fin 8) (l : Fin 4) (fom : Nat) (alnMissing : Bool) (codeErrs : Nat)
  | ckLoss (p : Fin 8)
  | packetFrameRx (p : Fin 8) (seq : Nat) (good : Bool) (pkt : FabPkt)
  | ack (p : FrameAt) (seq : Nat)
  | nak (p : FrameAt) (seq : Nat)
  | ackTimer (p : Fin 8)
  | replayTimeout (p : Fin 8)
  | creditReturn (p : FrameAt) (counts : List Nat)
  | creditReturnTimer (p : Fin 8)
  | power (p : FrameAt) (request : Nat) (accept : Nat) (uid : Nat)
  | loadInit (n : Fin 16) (m : Master) (v : Word32)
  | cvGo (n : Fin 16) (m : Master) (v : Word32)
  | data (n : Fin 16) (m : Master) (v : Word64)
  | cvFeedDone (n : Fin 16)
  | cvErr (n : Fin 16) (m : Master) (v : Word32)
  -- Fabric discovery, addressing and routing (chapter 14)
  | helloTimer
  | hello (p : Fin 8) (h : HelloMsg)
  | candidateTimeout (uid : Nat)
  | managerTakeOffice
  | directedRoutePacket (p : Option (Fin 8)) (pkt : FabPkt)
  | portReport (n : NodeReport)
  | addressAssignment (node : Fin 512)
  | routeRecompute
  | bookingRequest (node : Nat) (dest : Nat) (bytes : Nat)
  | bookingAnswer (granted : Bool)
  | nodeLostTimeout (node : Fin 512)
  | nodeLost (node : Fin 512) (uid : Nat)
  | routerForward (p : Option (Fin 8)) (pkt : FabPkt)
  -- Audio (chapter 16)
  | audStartInstant (n : Fin 8)
  | audRouteEffect
  | audPlayInstant (sink : BitVec 32) (frame : Nat)
  | clockLoopUpdate (n : Fin 8) (fill : Nat)
  | audRateMeasure (n : Fin 8) (ppb : Int)
  | audClockLoss (n : Fin 8) (frame : Nat)
  | audClockReturn (n : Fin 8) (ppb : Int) (fill : Nat)
  | audClockGlitch (n : Fin 8) (short : Bool) (missing : Nat)
  -- Protection (chapter 17)
  | croakTimer
  | croak (c : CroakMsg)
  | senderSilent (node : Fin 512)
  | suspectTimer
  | request (msg : LeaseMsg)
  | witnessRequestTimeout (ch : Fin 64)
  | renewTimer
  | renew (msg : LeaseMsg)
  | leaseExpiry (ch : Fin 64)
  | refuse (msg : LeaseMsg)
  | suspect (msg : LeaseMsg)
  | grantGuardExpiry (node : Nat) (ch : Nat)
  | grant (msg : LeaseMsg)
  | yield (msg : LeaseMsg)
  | move (msg : LeaseMsg)
  | moveAck (msg : LeaseMsg)
  | release (msg : LeaseMsg)
  | witnessEntryFree (node : Nat) (ch : Nat)
  | mirrorRecord (rec_ : MirrorRec)
  | sourceRelay (node : Nat) (ch : Fin 64) (capture : Nat) (line : Nat) (digest : Nat)
  | continue_ (node : Nat) (ch : Fin 64) (outputs : List (Nat × List Nat))
  | handoverContinueDeadline (ch : Fin 64)
  -- Confidence monitor and drawing engine (chapter 18)
  | monVblank
  | monLineScan (line : Nat) (x : LineState)
  | monComposeDone
  | monIntStat (m : Master) (v : Word32)
  | timingWr (m : Master) (v : Word32)
  | head (m : Master) (v : Word32)
  | drawDescriptorDone
  | drawErr (m : Master) (v : Word64)
  -- Faults, power and host interface (chapters 19, 20, 21)
  | unitRetire (u : UnitRef) (cause : Fin 4)
  | retirementMapWrite
  | faultLogWrite
  | sdiPortFault (n : Fin 8)
  | mediaPortFault (n : Fin 2)
  | audioPortFault (n : Fin 8)
  | healthSensorUpdate (vinMv : Nat) (rails : List Nat) (temps : List Int) (powerMw : Nat)
  | thermalRecovery
  | vinUndervoltage (micros : Nat)
  | vinOvervoltage
  | enLow
  | resetNAssert (nanos : Nat)
  | resetNRelease
  | smbId
  | smbUid
  | smbStatus
  | smbPwrCause
  | smbPwrCauseClear (v : Byte)
  | smbVin
  | smbPower
  | smbTempMax
  | smbTempk (k : Fin 8)
  | smbHealth
  | smbReset (v : Byte)
  | smbUnknownCommand (c : Byte)
  | smbAlertResponse (lowest : Bool)
  | msixUnmask (vector : Fin 32) (busMaster msixEn : Bool)
  | bar0BadAccess (m : Master) (write : Bool) (offset : BitVec 21)
  | registerWrite (m : Master) (offset : BitVec 21) (v : Word64) (wide : Bool)
  | mediaLinkChange (iface : Fin 8) (up : Bool)
  | bookingAnswerTimeout
  | mirrorStreamRecovery (ch : Fin 64)
  | restartRecopyDone
  | ptpFollowUpRx (domain : Nat) (source : Fin 3) (seq : Nat) (origin : Nat) (correction : Nat)
  | ptpDelayReqSend (slot : Fin 2) (t3 : Nat)
  | sdiLineRx (port : Fin 8) (line : Nat) (last : Bool) (crcOk : Bool) (digest : Nat)
      (anc : List AncPkt) (audio : List Nat)
  | sapFrameRx (n : Fin 8) (samples : List Nat)
  | ref10InEdge (stamp : Nat)
  deriving DecidableEq, Repr

end Sys2Proof
end

