-- ==== Sys2Proof/Config.lean ====
section
/-! DEFINITION. Config.lean: the free values of the model, opaque constants with no body. The spec
either says of each that it is not defined or gives the effect without stating the value. Nothing in
Lean can evaluate them, so a statement about one holds whatever it is (assumption log 5). -/

namespace Sys2Proof.Config

/-- A fresh free number, by the count of free values taken so far (`State.free`). -/
opaque freeNat : Nat → Nat

/-- A fresh free choice between two outcomes that the spec leaves open (R20, R529). -/
opaque freeBool : Nat → Bool

/-- What one stage of the conversion chain of R209 that a standard's filter, matrix or transfer fills makes of a
picture's pixels: the stage number, its settings, and the pixels in raster order. The standards' filters and matrices are
not in the spec (DEDUCED, assumption log 10). -/
opaque pixStage : Nat → List Nat → List (List Nat) → List (List Nat)

/-- The pixels of a picture's content in raster order, three components of 16 bits each (R209). -/
opaque pixels : Nat → List (List Nat)

/-- The content that pixels make. -/
opaque pixelsContent : List (List Nat) → Nat

/-- A weighted sum of samples over a denominator, rounded and clipped to 16 bits (R211, R213): the spec gives weights,
not rounding. -/
opaque weighted : Nat → List (Int × Nat) → Nat

/-- The built-in coefficient slots 0 and 1 (R215): the spec names the kinds of filter, not their values. -/
opaque coefBuiltIn : Nat → List Int

/-- The 4 × 4 dither matrix of R212, scaled to the bits that are dropped. -/
opaque ditherAt : Nat → Nat → Nat → Nat

/-- The colour of a graphics pixel at 16 bits in the blending signal (R224): settings, then its components at the width
of its format. -/
opaque gfxColour : List Nat → List Nat → List Nat

/-- A blended component of 16 bits: the sample over, the sample under, alpha with global alpha, and the premultiplied
flag (R224). The spec gives the operator, not its rounding. -/
opaque blend16 : Nat → Nat → Nat → Bool → Nat

/-- A pixel of the monitor's frame store (R481): Y'CbCr with 10 bits a component, in 32 bits. The spec gives neither the
components' places nor the rounding. -/
opaque storeWord : List Nat → Nat

/-- The components of a word of the frame store. -/
opaque storePixel : Nat → List Nat

/-- The content of a line of an input ring: the content of each packet that arrived, and of the line it is
filled from where packets lack (R191). Samples are numbers outside the spec's rules. -/
opaque lineContent : List (Nat × Nat) → Nat → Nat

/-- The content of a whole picture from its lines (DEDUCED, assumption log 10). -/
opaque pictureContent : List (Nat × Nat) → Nat

/-- The 64-bit hash of a block of a picture, by the picture's content, the block's left column and top row, and its size
(R250, R251): the spec does not give the hash, and the samples are numbers outside its rules. -/
opaque blockHash : Nat → Nat → Nat → Nat → BitVec 64

/-- Whether all samples of a block are equal (R251), by the same numbers. -/
opaque blockUniform : Nat → Nat → Nat → Nat → Bool

/-- The content of a picture that a channel's work (0 encode, 1 decode) reconstructs: work, channel and capture time. -/
opaque decodedPicture : Nat → Nat → Nat → Nat

/-- The samples of a plane (0 luma, 1 interleaved chroma) of a picture's content, in raster order (R255). -/
opaque planeSamples : Nat → Nat → List Nat

/-- Bytes of a unit of a reference plane in its shortest lossless form (R256): the spec does not give the form. -/
opaque packedUnit : List Nat → Nat

/-- The sample of a frame (counted in its packet) and channel that an audio packet's payload holds (R437). -/
opaque flowSample : Nat → Nat → Nat → Nat

/-- Bytes of an SEI message, the first with its NAL unit's header, or of the parameter sets (R246, R261, R264): codec, message (0 captions, 1
timecode, 2 HDR, 3 AFD, 4 picture hash, 5 recovery point, 6 parameter sets, 7 buffering period, 8 picture timing) and its values. The standards' syntax is not in the spec (DEDUCED, assumption log 10). -/
opaque seiBytes : Nat → Nat → List Nat → Nat

/-- The vertical motion-vector range of an AVC level below 5, in quarter samples to each side (R247): the standard's
limit, which the spec gives for levels 5 to 5.2 only. -/
opaque avcRange : Nat → Nat

/-- The correction that a domain's servo makes to its estimate, in 2^-32 ns, for a measured offset and the
path delay in use (R152): the spec gives no servo law. -/
opaque servo : Int → Nat → Int

/-- The frequency that a domain's servo gives its estimate, in 2^-32 ns per cycle, for the offset measured and the
frequency before (R146, R152). -/
opaque freqWord : Int → Int → Int

/-- The steering of an audio clock loop (R441), in 0.0001 ppm: bandwidth, fill and present steering. -/
opaque loopSteer : Nat → Nat → Int → Int

/-- The loudness figures of a port (R446), as LOUDNESS of AUD.STATUS lays them out in 16 bytes: the
standard's measurement over the port's frames so far. -/
opaque loudness : Nat → Nat → Nat → BitVec 128

/-- The delay of the time path from the time base to an island (R147), in 2^-16 ns: a figure of the part. -/
opaque pathDelay : Nat → Nat

/-- R_ACTIVE of ST 2110-21 for a format's height, as a fraction of 2^16 (R420). -/
opaque rActive : Nat → Nat

/-- The blended component of a drawing-engine blend (R495): source, destination, alpha and the
premultiplied flag. The spec gives the operator, not its rounding. -/
opaque blend8 : Nat → Nat → Nat → Bool → Nat

/-- The vector table of an image, by the digest of its body (R95, R98): neither its place in the image nor its length is
given. -/
opaque vectorTable : Nat → List (BitVec 8)

/-- The boot ROM's bytes (R77): the spec does not give them. -/
opaque romByte : Nat → BitVec 8

/-- The limit table of the coding standards' levels (R230): codec, level, tier and profile to the
largest picture size, luma sample rate, bit rate and coded-picture buffer. -/
opaque levelLimit : Nat → Nat → Nat → Nat → Nat × Nat × Nat × Nat

/-- The default shaper rate of an output of kind 7 or 8, in kb/s: the spec gives defaults for kinds 2 to
6 only (R416, R419, R425). -/
opaque shaperDefault : Nat → Nat

/-- TS packets that the video of an emission unit takes (R418): bytes of the unit, its index. The lengths of PES
headers and adaptation fields are the transport stream standard's. -/
opaque tsVideo : Nat → Nat → Nat

/-- Payload bytes of the packet that carries a picture's ancillary packets, by their payloads (R420). -/
opaque ancBytes : List Nat → Nat

/-- The source digest of R456: capture time, slice index, lines and what follows them. The samples that the
CRC-64 covers are numbers outside the spec's rules. -/
opaque sourceDigest : Nat → Nat → List (Nat × Nat) → List Nat → Nat

/-- Payload bytes of a fabric packet by its source, type, sequence and length: contents that other rules or the consumers
of its type give. -/
opaque fabPayload : Nat → Nat → Nat → Nat → List Nat

/-- The lowest level and sublevel of JPEG XS (ISO/IEC 21122) that a width, height, picture rate (numerator, denominator) and
maximum bit rate fit (R230). -/
opaque jxsLevel : List Nat → List Nat

end Sys2Proof.Config
end

