-- ==== Sys2Proof/Machine/State.lean ====
section
/-! DEFINITION. Machine/State.lean: every piece of state that the spec gives the VX9, as plain data,
with `State.reset`. Device time is held in units of 2^-16 ns (R146), other times in whole ns unless a
field says otherwise. A register field with two RC counts (R546) is an `RcCount`. Which fields are
the model's own (the command queue, the free-value counter, the lists of what left the device) their
docstrings say. Reset values that the spec does not give: assumption log 3. -/

namespace Sys2Proof.Machine

/-- A sparse table: index and entry, indices rising; an unlisted index reads as its table's default. -/
abbrev Tab (α : Type) := List (Nat × α)

/-- A byte memory in canonical form: addresses strictly rising, no entry equal to what an unlisted
address reads as (assumption log 4: the zero byte). -/
abbrev Mem := List Host.Cell

/-- An RC field's two counts (R546): for reads by PCIe and by the control processor data port. -/
structure RcCount where
  pcie : Nat
  cpu : Nat
  deriving DecidableEq, Repr

/-- Device modes, R46, codes 0 to 5 in this order. -/
inductive Mode where
  | boot
  | service
  | dormant
  | ready
  | operate
  | drain
  deriving DecidableEq, Repr

/-- Channel states, R57, codes 0 to 6 in this order. -/
inductive ChanState where
  | idle
  | configured
  | starting
  | running
  | stopping
  | faulted
  | migrating
  deriving DecidableEq, Repr

/-- Channel roles, R137. -/
inductive Role where
  | encode
  | gateway
  | transcode
  | shadow
  deriving DecidableEq, Repr

/-- Codecs, R229. -/
inductive Codec where
  | hevc
  | vvc
  | avc
  | jpegxs
  deriving DecidableEq, Repr

/-- Latency modes, R279. -/
inductive Latency where
  | ripple
  | slice
  | frame
  | lookahead
  deriving DecidableEq, Repr

/-! ### Control complex (chapter 04) -/

/-- CTL_WINn (R82, R83). -/
structure Win where
  base : BitVec 11
  hostOwn : Bool
  wrEn : Bool
  rdEn : Bool
  en : Bool
  deriving DecidableEq, Repr

/-- CTL_ERR_LOG (R79). -/
structure ErrLog where
  count : RcCount
  valid : Bool
  write : Bool
  master : Nat
  addr : BitVec 40
  deriving DecidableEq, Repr

/-- CTL_RESTART and the restart timer (R97, R98, R103). MISMATCH_1H is the number of `mismatchTimes` in the last hour;
`permPending` is that count when the second mismatch came, until the restart that it started has ended (R74); `recopy` says
that the image copy did not match (R98). -/
structure Restart where
  elapsed : Nat
  restarts : Nat
  lockstepPerm : Bool
  cause : Nat
  active : Bool
  startedAt : Nat
  mismatchTimes : List Nat
  permPending : Option Nat
  recopy : Bool
  lostBefore : Nat
  deriving DecidableEq, Repr

/-- CTL_BOOT_STATUS and CTL_BOOT_GO (R94). -/
structure BootStatus where
  serviceFlag : Bool
  trialReverted : Bool
  failHost : Nat
  failB : Nat
  failA : Nat
  source : Nat
  stage : Nat
  length4k : Nat
  deriving DecidableEq, Repr

/-- The fields of an image header (R89): `digest` is the number of its 48 bytes, the first lowest; `signed` are the bytes
0x000 to 0x07F that the signature covers. -/
structure ImageHdr where
  magic : Nat
  version : Nat
  keyIndex : Nat
  bodyLen : Nat
  fwVersion : Nat
  rollback : Nat
  ifRev : Nat
  detClass : Nat
  digest : Nat
  key : List Nat
  sig : List Nat
  signed : List Nat
  deriving DecidableEq, Repr

/-- A boot record copy (R92); `ok` is its magic and CRC check. -/
structure BootRecord where
  ok : Bool
  seq : Nat
  preferred : Nat
  trial : Nat
  bootToService : Bool
  deriving DecidableEq, Repr

/-- The device fuses (R1, R81, R90, R382): ordering code (0 VX9-H128, 1 VX9-L064), stepping, UID,
revoked key indices, the SHA-384 of the four keys and of the debug key as the numbers of their 48 bytes, the first lowest,
debug disable and the rollback counter. -/
structure Fuses where
  orderCode : Nat
  stepping : Nat
  uid : Nat
  revoked : List Nat
  keyHashes : List Nat
  debugKeyHash : BitVec 384
  debugDisable : Bool
  rollback : Nat
  deriving DecidableEq, Repr

/-- The control complex (R73 to R103) with its control SRAM. `lockout` is the time at which a failed unlock was (R81);
`cpuFaults`, `debugError` and `mirrorErrors` are what the default target's error responses bring to those masters (R79);
exclusive-access reservations are held per master (R86). -/
structure Ctl where
  remap : Bool
  debugUnlocked : Bool
  challenge : Option (BitVec 256)
  lockout : Option Nat
  wdogPeriod : Nat
  wdogArmed : Bool
  wdogLast : Nat
  errLog : ErrLog
  wins : Tab Win
  boot : BootStatus
  imgDigest : Nat
  restart : Restart
  cpuFaults : Nat
  debugError : Bool
  mirrorErrors : Nat
  reservations : List Master
  dmaBusy : Bool
  fwRunning : Bool
  sram : Mem
  deriving DecidableEq, Repr

/-- The on-package flash (R88, R92, R511) but for the fault log. A retirement map copy holds the
retired units and the node address held. -/
structure MapCopy where
  ok : Bool
  seq : Nat
  units : List UnitRef
  node : Option Nat
  deriving DecidableEq, Repr

/-- The on-package flash (R88): the bytes of its slots and boot records at their offsets, the retirement map copies, the
slots left unverified, and the write in progress with whether it was broken off (R102, R140). -/
structure Flash where
  bytes : Mem
  map0 : MapCopy
  map1 : MapCopy
  unverified : List Nat
  writing : Option Nat
  broken : Bool
  mapDue : Bool
  deriving DecidableEq, Repr

/-! ### Mailbox and events (chapter 05) -/

/-- A mailbox slot's register state (R106): state 0 FREE, 1 CLAIMED, 2 BUSY, 3 DONE. -/
structure Slot where
  owner : Option Path
  ownerNode : Nat
  gen : Nat
  state : Nat
  bellGen : Nat
  deriving DecidableEq, Repr

/-- A command taken and not yet answered (R101, R119); `redo` marks one that a control restart interrupted. -/
structure InWork where
  slot : Nat
  opcode : Nat
  req : Req
  accepted : Nat
  redo : Bool
  deriving DecidableEq, Repr

/-- A response (R113). -/
structure Resp where
  slot : Option (Fin 32)
  path : Path
  node : Nat
  opcode : Nat
  seq : Word32
  channel : Nat
  rev : Nat
  status : Nat
  detail : Nat
  more : Bool
  accepted : Nat
  tlvs : List Tlv
  deriving DecidableEq, Repr

/-- A management source's record (R123). -/
structure MgmtSource where
  ip : Word32
  port : Nat
  lastSeq : Nat
  resp : Option Resp
  deriving DecidableEq, Repr

/-- A datagram that firmware sent on the management port, with its tag of 16 bytes (R110, R122 to R124, R130): a
response, or the 32 bytes of an event entry. -/
inductive Datagram where
  | response (ip : Word32) (port : Nat) (r : Resp) (tag : List Nat)
  | event (ip : Word32) (port : Nat) (entry tag : List Nat)
  deriving DecidableEq, Repr

/-- A slot that holds a management request: the claim's GEN and the request's source (R110). -/
structure MgmtSlot where
  slot : Nat
  gen : Nat
  ip : Word32
  port : Nat
  deriving DecidableEq, Repr

/-- A claiming read of a slot: the master and what it read, none for an error response. -/
structure ClaimRead where
  master : Master
  node : Nat
  value : Option Nat
  deriving DecidableEq, Repr

/-- A request to a peer on the fabric path (R125), at a revision (R145). -/
structure PeerMsg where
  dest : Nat
  opcode : Nat
  channel : Nat
  rev : Nat
  tlvs : List Tlv
  sender : Option HandoverCfg
  deriving DecidableEq, Repr

/-- A command that waits on a peer's answer (R120, R125). -/
structure PeerWait where
  node : Nat
  opcode : Nat
  channel : Nat
  since : Nat
  req : Option Req
  limit : Nat
  deriving DecidableEq, Repr

/-- The mailbox hardware and firmware's command records (R104 to R145). `datagrams` lists what left
the management port, `fabResps` what the mirror engine answered, newest last, and `claimReads` what the claiming
reads of one slot in the last cycle with any returned, in their order (the model's own records). A doorbell waits with
its slot, path and instant (device time). `unsent` holds the requests to peers whose DEV.INFO has not been answered (R390). -/
structure Mbx where
  slots : Tab Slot
  mem : Mem
  done : Word32
  respLost : RcCount
  dbIgnored : RcCount
  dropped : RcCount
  bells : List (Nat × Path × Nat)
  inWork : List InWork
  resps : List Resp
  mgmtSlots : List MgmtSlot
  claimReads : List ClaimRead
  ipv4 : Word32
  netmask : Word32
  udpPort : Nat
  key : Option (BitVec 256)
  evtDest : Option (Word32 × Nat)
  sources : List MgmtSource
  discards : Nat
  datagrams : List Datagram
  fabResps : List Resp
  peerWaits : List PeerWait
  unsent : List PeerMsg
  heldAdmits : List InWork
  deriving DecidableEq, Repr

/-- An event entry (R126). -/
structure Event where
  code : Nat
  channel : Nat
  seq : Nat
  time : Nat
  data : List Nat
  deriving DecidableEq, Repr

/-- The event FIFO, ring registers, vectors and MSI-X state (R127 to R129, R542). `host` is host memory as far as the
device has written ring entries to it; `sent` the vectors sent, newest last (the
model's own record). -/
structure Evt where
  fifo : List Event
  nextSeq : Nat
  lost : RcCount
  lostPending : Nat
  firstLost : Nat
  lostTotal : Nat
  base : BitVec 51
  en : Bool
  urgVector : Nat
  vector : Nat
  holdoffUs : Nat
  prod : Nat
  cons : Nat
  lastVector : Option Nat
  vectorDue : Bool
  busMaster : Bool
  msixEn : Bool
  masked : List Nat
  pba : List Nat
  host : Mem
  sent : List Nat
  deriving DecidableEq, Repr

/-! ### Capacity and the ledger (chapter 02) -/

/-- An activity's ledger record (R39): the counts of the period in progress and of the last period,
the throttled periods since the last DEV.LEDGER of the activity, and its budget. -/
structure LedgerRec where
  memBytes : Nat
  cycles : Nat
  fabBytes : Nat
  holdMax : Nat
  throttledNow : Bool
  lastMem : Nat
  lastCycles : Nat
  lastFab : Nat
  lastHold : Nat
  throttled : Nat
  deriving DecidableEq, Repr

/-- The ledger (R30 to R39). `mcUsed` is bytes per controller and activity (key mc * 1024 + activity),
`portUsed` bytes per fabric port and activity, `vc0Used` VC0 bytes per port, and
`lineUsed` the symbol positions that frames have taken on each port's line (R357, R370). -/
structure Ledger where
  periodStart : Nat
  lastPeriodStart : Nat
  recs : Tab LedgerRec
  mcUsed : Tab Nat
  portUsed : Tab Nat
  vc0Used : Tab Nat
  lineUsed : Tab Nat
  deriving DecidableEq, Repr

/-! ### Inputs (chapter 07) -/

/-- The FORMAT value of R175. -/
structure Format where
  width : Nat
  height : Nat
  rateNum : Nat
  rateDen : Nat
  sampling : Nat
  depth : Nat
  scan : Nat
  colorimetry : Nat
  refOffset : Int
  deriving DecidableEq, Repr

/-- A FLOW value of R187. -/
structure Flow where
  leg : Nat
  role : Nat
  iface : Nat
  pt : Nat
  dstIp : Word32
  srcIp : Word32
  dstPort : Nat
  srcPort : Nat
  ssrc : Word32
  vlan : Nat
  flags : Nat
  deriving DecidableEq, Repr

/-- A policer (R426) with its buckets, in 10^-9 bits, the time of the last refill (ns) and packet counts since
configuration; the dropped counts are of the second in progress. -/
structure Policer where
  mode : Nat
  aware : Bool
  yellowDrop : Bool
  redDrop : Bool
  cbs : Nat
  cir : Nat
  pir : Nat
  ebs : Nat
  tokC : Nat
  tokE : Nat
  last : Nat
  green : Nat
  yellow : Nat
  red : Nat
  yellowDropped : Nat
  redDropped : Nat
  deriving DecidableEq, Repr

/-- A line in assembly (R190) of the picture with a capture time: packets held per leg, the stamp (2^-16 ns) of the
first packet of a later line, the content of each packet held, and whether its first packet began in the line
before. -/
structure LineAsm where
  picture : Nat
  line : Nat
  parts : Nat
  got0 : List Nat
  got1 : List Nat
  later : Option Nat
  data : List (Nat × Nat)
  carried : Bool
  deriving DecidableEq, Repr

/-- A picture of the ring: its capture time (2^-16 ns), its released lines with their content, the packets
(line, part) that released lines lacked, when it was completed, its ancillary packets and the RTP sequence numbers that
brought them (R203), the lowest port of the SDI link group that carries it (R179), and whether it was passed to its readers
as it began (R197). -/
structure RingPic where
  capture : Nat
  lines : List (Nat × Nat)
  lacked : List (Nat × Nat)
  completedAt : Option Nat
  anc : List AncPkt
  ancSeqs : List Nat
  group : Nat
  direct : Bool
  deriving DecidableEq, Repr

/-- An input as configured and as it runs (R173 to R203). `locked` is the lock classification of
R195, `present` its presence of R181, `conform` the run of conforming pictures, `prevGrid` the grid number of
the newest picture and `newest` its capture time; `lastSlot` is the grid number of the last capture passed,
`syncing` whether the synchroniser passes pictures, `slotPic` the picture in the last slot, `since` the
completed pictures that no slot has taken; `audGaps` holds audio frames that wait for the window (flow,
first, count, stamp in 2^-16 ns); `coded` is the format that a coded stream last gave (R175). Times are in ns, capture
times in 2^-16 ns. -/
structure Input where
  kind : Nat
  sdiPorts : Nat
  link : Nat
  flows : List Flow
  format : Option Format
  coded : Option Format
  ringFrames : Nat
  sync : Nat
  anc : Nat
  audioFlows : List Nat
  present : Bool
  locked : Bool
  conform : Nat
  prevGrid : Option Nat
  newest : Option Nat
  lastCapture : Nat
  lastPacket : Nat
  writing : Bool
  charged : Option Nat
  asm : List LineAsm
  ring : List RingPic
  passed : List Nat
  syncing : Bool
  lastSlot : Option Nat
  slotPic : Option Nat
  since : List Nat
  absentAt : Nat
  black : Bool
  repeats : Nat
  drops : Nat
  late : Nat
  crcErrors : Nat
  ancDiscards : Nat
  missing0 : Nat
  missing1 : Nat
  missingM : Nat
  sec0 : Nat
  sec1 : Nat
  secM : Nat
  audGaps : List (Nat × Nat × Nat × Nat)
  deriving DecidableEq, Repr

/-- A frame that a media interface sends on its own (R184, R185, R411), with its MAC address: an ARP announcement or answer,
an ICMP echo answer, an IGMPv3 membership report of a group and, where the flow names one, a source, or an ARP request for
the address that a leg's packets go through. -/
inductive IfFrame where
  | arp (mac : List Nat) (ip : Word32) (answers : Option Word32)
  | echoReply (mac : List Nat) (ip : Word32) (dest : Word32)
  | report (mac : List Nat) (group : Word32) (source : Option Word32)
  | arpRequest (mac : List Nat) (ip : Word32) (target : Word32)
  deriving DecidableEq, Repr

/-- A media interface (R183 to R185): MNI_IFn, its link, and what it has sent on its own. -/
structure MniIf where
  gateway : Word32
  vlanEn : Bool
  vlanId : Nat
  prefix_ : Nat
  en : Bool
  addr : Word32
  linkUp : Bool
  unmatched : Nat
  sent : List IfFrame
  deriving DecidableEq, Repr

/-! ### Outputs and egress (chapter 15) -/

/-- A LEG value of R410 with its MAC address, the time (ns) of its last resolution, and its counts (R171, R411, R421). -/
structure Leg where
  leg : Nat
  iface : Nat
  dscp : Nat
  ttl : Nat
  dstIp : Word32
  dstPort : Nat
  srcPort : Nat
  ssrc : Word32
  pt : Nat
  mtu : Nat
  mac : Option (BitVec 48)
  arpAt : Option Nat
  late : Nat
  lateMax : Nat
  secLate : Nat
  secMax : Nat
  discards : Nat
  depthMax : Nat
  queue : Nat
  deriving DecidableEq, Repr

/-- An output (R409): its configuration, next RTP sequence number as a count, the count after the last packet
launched (R71), and continuity counters of PAT, PMT, video and the two audio PIDs, those after the last packet
launched beside them. -/
structure Output where
  kind : Nat
  ports : Nat
  legs : List Leg
  senderType : Option Nat
  shaperRate : Nat
  shaperBurst : Nat
  tsPackets : Option Nat
  audioFmt : Option Nat
  rtpSeq : Nat
  launchedSeq : Nat
  cc : List Nat
  launchedCc : List Nat
  deriving DecidableEq, Repr

/-- What a TS slot carries (R417, R418, R445): PAT, the PMT with the stream type and PID of each stream, a video packet of
an emission unit with the PCR and with the DTS and PTS where it carries them, an audio packet of a PID (0 for 0x0110, 1 for
0x0111) with the PTS where its PES packet begins, or a null packet. -/
inductive TsSlot where
  | pat
  | pmt (streams : List (Nat × Nat))
  | video (unit : Nat) (pcr : Option Nat) (times : Option (Nat × Nat))
  | audio (pid : Nat) (pts : Option Nat)
  | null
  deriving DecidableEq, Repr

/-- An entry of an egress queue (R422): a packet with its launch time (2^-16 ns; none for an entry
without one). `chan` is a channel handle, 256 for the monitor and 257 for an audio stream. `held` marks a
shadow's held copy (R458), `mirrored` a packet made from mirror records, `bypass` one that leaves outside the
shaper (R466); `ccAfter` holds the output's continuity counters after the packet, and `ts` the TS slots that a datagram of
an MPEG-2 TS carries. -/
structure Pkt where
  chan : Nat
  output : Nat
  leg : Nat
  capture : Nat
  unit : Nat
  k : Nat
  n : Nat
  lastUnit : Bool
  launch : Option Nat
  enqueued : Nat
  lineBytes : Nat
  rtpSeq : Nat
  rtpTs : Nat
  marker : Bool
  dstIp : Word32
  dstPort : Nat
  held : Bool
  mirrored : Bool
  bypass : Bool
  ccAfter : List Nat
  ts : List TsSlot
  deriving DecidableEq, Repr

/-- An egress queue: TMG_QCFGp_q, its bucket as it stood at `tokAt` (tokens in line bytes times 8 * 10^6 *
65536, so that a rate of 1 kb/s gains one token in 2^-16 ns), its entries, and TMG_QOBSp_q with the period in
progress. -/
structure Queue where
  en : Bool
  launchEn : Bool
  iface : Nat
  rateKbps : Nat
  burst : Nat
  tokens : Nat
  tokAt : Nat
  entries : List Pkt
  resMax : Nat
  lateMax : Nat
  depthEnd : Nat
  depthMax : Nat
  curRes : Nat
  curLate : Nat
  curDepth : Nat
  deriving DecidableEq, Repr

/-- A packet as it left an interface (the model's own record of what the device sent): with its MAC address, VLAN tag, DSCP
and TTL, its RTP header, and the PID and continuity counter of each of its TS packets (R411, R413, R417). -/
structure Sent where
  iface : Nat
  pkt : Pkt
  at_ : Nat
  mac : Option (BitVec 48)
  vlan : Option Nat
  dscp : Nat
  ttl : Nat
  rtp : List Nat
  ts : List (Nat × Option Nat)
  deriving DecidableEq, Repr

/-- The traffic manager (R422 to R429). Queue key: port * 256 + queue. -/
structure Tmg where
  queues : Tab Queue
  ifBusyUntil : Tab Nat
  period : Nat
  sent : List Sent
  deriving DecidableEq, Repr

/-! ### Channels (chapters 03, 09, 10) -/

/-- The configuration of a channel, every default resolved (R137, R246, R298). `inFormat` is the format that the coded
input of a transcode had when the channel was configured (R24, R175). -/
structure ChanCfg where
  role : Role
  codec : Codec
  inCodec : Codec
  profile : Nat
  level : Nat
  width : Nat
  height : Nat
  rateNum : Nat
  rateDen : Nat
  chroma : Nat
  bitDepth : Nat
  latency : Latency
  delayNs : Nat
  slices : Nat
  groupSize : Nat
  rcVbr : Bool
  bitrate : Nat
  maxBitrate : Nat
  cpbBits : Nat
  keyPeriod : Nat
  input : Nat
  outputs : List Nat
  detClass : Nat
  lookahead : Nat
  refreshPeriod : Nat
  tier : Nat
  gop : Nat
  refFrames : Nat
  keyType : Nat
  sceneKey : Bool
  keyGpi : Nat
  hashSearch : Bool
  hashGrid : Nat
  hashUnits : Nat
  aq : Nat
  deblock : Nat
  sao : Nat
  alf : Nat
  sei : Nat
  hdrStatic : Option Nat
  picHash : Nat
  paramSets : Nat
  qpMin : Nat
  qpMax : Nat
  peak : Nat
  fillerOut : Bool
  interlaced : Bool
  inFormat : Option Format
  deriving DecidableEq, Repr

/-- One band, or run of slices of a band, on a pipeline (R239, R242): share in 1/256 LU, frame cycle
cost, and the slices it covers. `work` 0 encode, 1 decode. -/
structure BandRun where
  work : Nat
  band : Nat
  pipe : Nat
  share : Nat
  frameCost : Nat
  firstSlice : Nat
  nSlices : Nat
  whole : Bool
  deriving DecidableEq, Repr

/-- A pending CHAN.MODIFY (R69): its TLV index, value and effective picture; `acked` once a shadow
has acknowledged it, or where none has to. -/
structure PendingMod where
  index : Nat
  value : Nat
  effective : Nat
  acked : Bool
  deriving DecidableEq, Repr

/-- A reconstructed picture: its content, and whether it is mid-grey in every sample (R267). -/
structure Recon where
  content : Nat
  grey : Bool
  deriving DecidableEq, Repr

/-- A unit of 64 samples by 4 rows of a reference plane as DRAM holds it (R255): its metadata code, and the samples that
its sectors give back (R256). -/
structure RefUnit where
  code : Nat
  samples : List Nat
  deriving DecidableEq, Repr

/-- A reference picture of a channel's work (0 encode, 1 decode) in DRAM: its capture time, its coding-order number, and its
two planes as units in raster order (R252, R255). -/
structure RefPic where
  work : Nat
  capture : Nat
  codingNo : Nat
  luma : List RefUnit
  chroma : List RefUnit
  deriving DecidableEq, Repr

/-- A picture whose coding has begun: its capture time and the capture time whose emission slot it takes
(R284), both in 2^-16 ns; its place in coding order once `ordered` (R258, R284); the rate-control bounds it
began with, in bits, and the buckets then (R292); slice results that wait for an earlier slice; its slices and
emission units done, a unit as its bytes and how many of them are filler; the bits of the unit and picture in
progress, the bits of the CTU before, and the floor stage with its scope (0 none, 1 unit, 2 picture, R304 to
R306); which runs have been issued; units entered in the queues and slices mirrored; and what its decode met
(slices decoded, flag, clean point, format difference, R269, R270). `plans` holds the planning state and the
floor flag after each slice. `sdiDue` says that an SDI output still has
to send it, `begun` that its bounds are set; `anc` is the ancillary data that it carries
and `sei` the NAL units of its access unit beside the slices, as SEI bit (4 the picture hash, 5 the recovery point, 6 the
parameter sets, 7 the buffering period, 8 the picture timing, 9 the level of JPEG XS) and data (R246, R261, R264 to R266, R291). `kind` is its type: 0 P or B, 1 IDR, 2 CRA, 3 GDR (R257, R261);
`recon` the picture that its decode gave (R267). -/
structure Picture where
  capture : Nat
  slot : Nat
  ordered : Bool
  codingNo : Nat
  gopPos : Nat
  gopLen : Nat
  key : Bool
  keyCause : Nat
  refreshStart : Bool
  begun : Bool
  lo : Nat
  hi : Nat
  startT : Bucket
  startA : Bucket
  refCol : Nat
  refLeft : Nat
  sinceBp : Nat
  lastKey : Nat
  lastHash : Nat
  results : List SliceRes
  slicesDone : Nat
  sliceBytes : List Nat
  plans : List (Nat × Bool)
  units : List (Nat × Nat)
  unitBits : Nat
  picBits : Nat
  prevBits : Nat
  stage : Nat
  stageScope : Nat
  floor : Bool
  issued : List Nat
  unitsEnq : Nat
  mirrored : Nat
  decoded : Nat
  flag : Nat
  decClean : Bool
  decFmt : Nat
  sdiDue : Bool
  anc : List AncPkt
  sei : List (Nat × List Nat)
  kind : Nat
  recon : Option Recon
  deriving DecidableEq, Repr

/-- A layer state (R217), staged, pending or shown; SOURCE and FREEZE are the monitor's (R484). -/
structure Layer where
  enable : Bool
  buf : Nat
  offset : Nat
  format : Nat
  pitch : Nat
  src : List Nat
  dst : List Nat
  blend : Nat
  alpha : Nat
  fill : Word32
  acqFence : Nat
  acqTarget : Word32
  relFence : Nat
  relValue : Word32
  scalerSet : Nat
  srcKind : Nat
  srcIndex : Nat
  freeze : Bool
  deriving DecidableEq, Repr

/-- A pending commit (R218, R220): the layers of its group with their states, and its effective picture; `open_` says that
it came without EFFECTIVE, and its effective picture, the first at or after `effective`, has not come yet. -/
structure Commit where
  layers : List (Nat × Layer)
  effective : Nat
  open_ : Bool
  deriving DecidableEq, Repr

/-- A layer set: staged and shown states, the pending commit, which commit's EFFECTIVE each layer
shows (R225), layers showing FILL for a freed or faulty buffer (R490), and the shown states of the last flips with the
latch instant of each, for pictures in composition. -/
structure LayerSet where
  staged : Tab Layer
  shown : Tab Layer
  pending : Option Commit
  effective : Tab Nat
  faulty : List Nat
  hist : List (Nat × Tab Layer)
  deriving DecidableEq, Repr

/-- The conversion of PIX.CONFIGURE, defaults resolved (R216), and the path and share (R205). -/
structure PixCfg where
  outColour : Nat
  convert : Nat
  lut : Nat
  crop : List Nat
  scalerSet : Nat
  dither : Nat
  outRange : Nat
  insert : Bool
  gfxWhite : Nat
  pathReq : Nat
  path : Option Nat
  share : Nat
  deriving DecidableEq, Repr

/-- An encode source picture written by PIX: capture time and content. -/
structure SrcPic where
  capture : Nat
  content : Nat
  deriving DecidableEq, Repr

/-- A picture as its coding begins. -/
def Picture.new (capture : Nat) : Picture :=
  { capture := capture, slot := capture, ordered := false, codingNo := 0, gopPos := 0, gopLen := 1,
    key := false, keyCause := 0, refreshStart := false, begun := false, lo := 0, hi := 0,
    startT := { fill := 0, rate := 0 }, startA := { fill := 0, rate := 0 }, refCol := 0, refLeft := 0,
    sinceBp := 0, lastKey := 0, lastHash := 0, results := [], slicesDone := 0, sliceBytes := [], plans := [],
    units := [], unitBits := 0, picBits := 0, prevBits := 0, stage := 0, stageScope := 0, floor := false,
    issued := [], unitsEnq := 0, mirrored := 0, decoded := 0, flag := 0, decClean := false, decFmt := 0,
    sdiDue := false, anc := [], sei := [], kind := 0, recon := none }

/-- A channel (R57 to R72, R229 to R307). `bufT` and `bufA` are the buckets of R292; `begun` the
pictures whose coding has begun and that have not launched in full (capture times in 2^-16 ns, R556);
`sinceKey` counts pictures in display order from the last key picture, `lastKey` and `lastHashReset` are
coding-order numbers; `lastLaunch` is the largest launch time of a packet that has left; stop, effective and handover pictures are in ns. `decFmt` is the difference that keeps a
decoder from its stream (R270). `hashWait` holds the pictures whose search is complete and whose insertion pass is not:
coding-order number, content of the encode source picture, and the number of the last hash reset (R251 to R253);
`lastHdr` the HDR values last written (R265). `lastRecon` is the picture decoded last, in output order (R267), and `refs`
are the reference pictures in DRAM, oldest first (R255). `lookBuf` is the lookahead buffer: the capture times and lines of
the pictures copied out of the ring, oldest first (R287). -/
structure Chan where
  state : ChanState
  cfg : Option ChanCfg
  cost : Nat
  runs : List BandRun
  hashBase : Option Nat
  ingestBudget : Nat
  codingBudget : Nat
  egressBudget : Nat
  mirrorBudget : Nat
  fabBudget : Nat
  shedRank : Nat
  startTime : Nat
  firstPic : Option Nat
  lastBegun : Option Nat
  begun : List Nat
  stopPic : Option Nat
  unlaunched : Nat
  newestLaunched : Option Nat
  lastLaunch : Option Nat
  pending : Option PendingMod
  applied : List PendingMod
  launched : Nat
  late : Nat
  rcFloors : Nat
  bufT : Bucket
  bufA : Bucket
  codingNo : Nat
  lastKey : Nat
  sinceKey : Nat
  sinceBp : Nat
  lastHashReset : Nat
  refreshCol : Nat
  refreshLeft : Nat
  keyReqs : List (Nat × Nat)
  pics : List Picture
  pix : Option PixCfg
  layers : LayerSet
  srcPics : List SrcPic
  flag : Nat
  decFmt : Nat
  concealSec : Nat
  deriveSec : Nat
  firstFlag : Nat
  handoverPeer : Option Nat
  handoverPic : Nat
  continueDue : Bool
  hashWait : List (Nat × Nat × Nat)
  lastHdr : Option (List Nat)
  lastRecon : Option Recon
  refs : List RefPic
  lookBuf : List (Nat × List (Nat × Nat))
  deriving DecidableEq, Repr

/-- A protection group as one member holds it (R448 to R475). Node lastHeard times are device time
in ns of the last heartbeat frame; `through` is the newest launched-through time known; `relaySeen` holds the
relayed source lines (capture time in ns, line, digest); `lateAt` the channel's late count at a grant; `sourceLost` says that
a takeover lacks a source picture (R466); `unbooked` is the capacity that was unbooked at the moment of a grant (R29); `layersOf` the commits that the checkpoints of
recent pictures' first slices name, by capture time in ns (R226); `suspectAt` is the time (ns) of the last SUSPECT. -/
structure Group where
  role : Nat
  active : Nat
  shadow : Nat
  witness : Nat
  alts : List Nat
  peerChannel : Nat
  source : Nat
  state : Nat
  everProtected : Bool
  joined : Bool
  epoch : Nat
  newWitness : Option Nat
  triedAlts : Nat
  leaseH : Option Nat
  fenced : Bool
  activeHeard : Option Nat
  shadowHeard : Option Nat
  witnessHeard : Option Nat
  activeSilent : Bool
  shadowSilent : Bool
  witnessSilent : Bool
  activeSend : Nat
  through : Nat
  checkpoint : Option Checkpoint
  mirrorBad : Bool
  digestBad : Nat
  hashWait : Bool
  wasProtected : Bool
  reencoding : Bool
  grantB : Option Nat
  yielded : Bool
  boundary : Option (Nat × Nat)
  relaySeen : List (Nat × Nat × Nat)
  digestSec : Nat
  digestFirst : Nat
  grantKind : Nat
  leaseReq : Option Nat
  lateAt : Nat
  sourceLost : Bool
  unbooked : Nat
  layersOf : List (Nat × List Nat)
  suspectAt : Option Nat
  deriving DecidableEq, Repr

/-- A witness's entry for a group (R451, R462, R465); `renewedAt` is the time (ns) of its last RENEW. -/
structure Witness where
  activeNode : Nat
  activeCh : Nat
  shadowNode : Nat
  shadowCh : Nat
  epoch : Nat
  heard : Option Nat
  heardAt : Nat
  shadowHeardAt : Nat
  through : Nat
  lastH : Nat
  suspected : Bool
  granted : Bool
  yielded : Bool
  released : Option Nat
  silentSince : Option Nat
  renewedAt : Option Nat
  deriving DecidableEq, Repr

/-- Protection (PRT): groups by channel handle, witness entries by active node * 64 + handle, and
what it sent (the model's own record). `stopped` is the stop of every launch and renewal of R103, `croakAt` the time (ns) of
the last heartbeat frames (R459). -/
structure Prt where
  groups : Tab Group
  witnesses : Tab Witness
  stopped : Bool
  croakAt : Option Nat
  sentLease : List (Nat × Nat × LeaseMsg)
  sentCroak : List (Nat × CroakMsg)
  sentMirror : List (Nat × Checkpoint × Nat)
  sentRelay : List (Nat × Nat × Nat × Nat)
  sentContinue : List (Nat × Nat × List (Nat × List Nat))
  sentMbx : List PeerMsg
  deriving DecidableEq, Repr

/-! ### Picture processing and the monitor (chapters 08, 18) -/

/-- PIX: LUT and coefficient slots by number, fences (R221), and release writes that are due (R223):
fence, value and the instant from which they may be made; and those that wait for the composition of a channel's
pictures before a capture time: handle, capture time, fence and value. `wrote` are the latest writes of fences, newest
first: fence, time (2^-16 ns), the value before, and whether a master other than the device's release made it. -/
structure Pix where
  luts : Tab (List Nat)
  coefs : Tab (List Int)
  fences : Tab Word32
  releases : List (Nat × Word32 × Nat)
  waiting : List (Nat × Nat × Nat × Word32)
  wrote : List (Nat × Nat × Word32 × Bool)
  deriving DecidableEq, Repr

/-- A buffer of DEV.ALLOC (R133). -/
structure Buf where
  addr : Nat
  size : Nat
  deriving DecidableEq, Repr

/-- TIMING of R479. -/
structure Timing where
  width : Nat
  height : Nat
  rateNum : Nat
  rateDen : Nat
  depth : Nat
  dither : Nat
  colorimetry : Nat
  range : Nat
  offset : Int
  background : Word32
  drawCap : Nat
  gfxWhite : Nat
  deriving DecidableEq, Repr

/-- The confidence monitor and the drawing engine (R478 to R499). State 0 stopped, 1 waiting,
2 running. `stopping` is set by MON.STOP until the frame in progress ends. `tiles` are the pictures, as content, that the
video tiles hold (R485); `store` is the frame store, line by line as words of pixels, `storeErrors` its uncorrectable errors (R355), and `lineOut` the samples that the
route carries in its active lines (R481, R482); `drawPos` counts the pixels of the descriptor at TAIL that are done, and
`drawAt` is the time (2^-16 ns) since which the engine has been able to go on with it (R497). -/
structure Mon where
  route : Nat
  timing : Option Timing
  state : Nat
  stopping : Bool
  frame : Nat
  nextFrame : Nat
  timingWr : Bool
  intEn : Nat
  intStat : Nat
  match_ : Nat
  current : Nat
  underFirst : Nat
  underCount : RcCount
  composing : Bool
  composed : Nat
  abandoned : Nat
  layers : LayerSet
  tiles : Tab Nat
  store : Tab (List Nat)
  lineOut : List Nat
  storeErrors : Nat
  drawBase : BitVec 23
  drawHead : Nat
  drawTail : Nat
  drawEn : Bool
  deadNs : Nat
  drawErr : Bool
  drawErrIdx : Nat
  drawErrCount : RcCount
  drawUsed : Nat
  drawPos : Nat
  drawAt : Nat
  deriving DecidableEq, Repr

/-! ### Cells and the dispatcher (chapter 11) -/

/-- A task slot (R310, R313). `ready` is the cycle in which the task first entered a ready list,
`entered` its latest entry, `inList` whether it is in one, `lent` the region it is lent to. -/
structure Task where
  gen : Nat
  inUse : Bool
  submitted : Bool
  counter : Nat
  desc : TaskDesc
  ready : Option Nat
  entered : Nat
  inList : Bool
  lent : Option Nat
  running : Option Nat
  held : Bool
  cancelled : Bool
  deriving DecidableEq, Repr

/-- A join counter (R318); `cancelled` once a CANCEL has freed it. -/
structure Join where
  gen : Nat
  inUse : Bool
  counter : Nat
  target : JoinTarget
  channel : Nat
  cancelled : Bool
  deriving DecidableEq, Repr

/-- A region's dispatcher: TSK_CTL, TSK_STAT and the observations of R331 (last period, and the one
in progress). -/
structure Dispatcher where
  limitUs : Nat
  lendEn : Bool
  en : Bool
  stale : RcCount
  allocFail : RcCount
  tasks : Tab Task
  joins : Tab Join
  period : Nat
  depths : List Nat
  curDepths : List Nat
  hist : List Nat
  curHist : List Nat
  deriving DecidableEq, Repr

/-- A cell: CEL_STATUSn (0 running, 1 waiting on TAKE, 2 held by firmware, 3 retired), the TAKE's
arrival, the running task (home region, slot, generation) with its start, and the observation counts; busy
times are in 2^-16 ns. `local_` is the local memory of 64 KiB with the task frame, `localPtr` the pointer of its arbiter
(R11, R40, R308). -/
structure Cell where
  state : Nat
  takeAt : Nat
  task : Option (Nat × Nat × Nat)
  startedAt : Nat
  busy : Nat
  curBusy : Nat
  corrected : Nat
  curCorrected : Nat
  local_ : Mem
  localPtr : Nat
  deriving DecidableEq, Repr

/-- A block: its clock in MHz (R13), whether it is changing clock, and the instant (2^-16 ns) from which the 4 us of the
relock run, none while a task still runs (R17); and its memory of 1 MiB (R11, R308) with the 8-byte words that are
poisoned, by address (R355). -/
structure Block where
  mhz : Nat
  newMhz : Nat
  changing : Bool
  relockFrom : Option Nat
  memory : Mem
  poison : List Nat
  deriving DecidableEq, Repr

/-- TSK and CEL (R308 to R331). `tokens` lists the pipeline band tokens released (channel, band,
row); `joinIrqs` the join handles of firmware targets. -/
structure Tsk where
  regions : Tab Dispatcher
  cells : Tab Cell
  blocks : Tab Block
  minReady : Nat
  lent : Nat
  curLent : Nat
  tokens : List (Nat × Nat × Nat)
  joinIrqs : List Nat
  deriving DecidableEq, Repr

/-- A coding pipeline (R244, R501): credits by channel handle * 2 + work (in 1/256 cycles), the band
frame running (channel, work, band, capture), and parity errors and poisoned reads by slice. `held` gives the instant since which
a ready frame waits for its credit, by the key of the credit (R39). `context` names the context
of the set in use and `idle` that of the other set, as channel handle * 2 + work (R245). -/
structure Pipe where
  credits : Tab Nat
  held : Tab Nat
  context : Option Nat
  idle : Option Nat
  frame : Option (Nat × Nat × Nat × Nat)
  slicesLeft : List Nat
  parity : Tab Nat
  poison : Tab Nat
  reissues : Nat
  deriving DecidableEq, Repr

/-! ### Memory (chapter 12) -/

/-- A request in a controller: admitted (with its admission time) or held (R32, R346). -/
structure McEntry where
  req : MemReq
  arrived : Nat
  admitted : Option Nat
  deriving DecidableEq, Repr

/-- A memory controller: its queue, open rows by bank, postponed refreshes by bank, MEM_ECC_STATn,
MEM_ECC_LOGn and the patrol pointer. -/
structure Mc where
  queue : List McEntry
  openRow : Tab Nat
  postponed : Tab Nat
  corrected : RcCount
  uncorr : RcCount
  logValid : Bool
  logClass : Nat
  logPort : Nat
  logSector : Nat
  patrol : Nat
  secCorrected : Nat
  deriving DecidableEq, Repr

/-- What a served read returned (the model's own record of the last one). -/
structure ReadRes where
  addr : Nat
  data : List Byte
  poisoned : Bool
  deriving DecidableEq, Repr

/-- The memory system (R332 to R356). `trained` is the set of controllers in service; `poison` the
poisoned sectors by physical sector address; `caches` the
sectors of which each region's reference cache holds a copy, the newest last (R9, R256, R355). -/
structure MemSys where
  dram : Mem
  trained : List Nat
  topGib : Nat
  stagedMask : Tab (BitVec 40)
  actMask : Tab (BitVec 40)
  fallback : Bool
  evac : Bool
  evacMc : Nat
  evacNext : Nat
  evacPoison : Nat
  lost : BitVec 8
  ages : List Nat
  temps : List Nat
  doubled : List Bool
  threshC : Nat
  mcs : Tab Mc
  poison : List Nat
  bufs : Tab Buf
  nextBuf : Nat
  lastRead : Option ReadRes
  blockPtr : Tab Nat
  caches : Tab (List Nat)
  deriving DecidableEq, Repr

/-! ### Time (chapter 06) -/

/-- An announce as last heard on a port (R150). -/
structure Heard where
  msg : AnnounceMsg
  at_ : Nat
  deriving DecidableEq, Repr

/-- A PTP domain slot (R150 to R153). State 0 disabled, 1 listening, 2 acquiring, 3 locked, 4 lost,
5 step pending. `ahead` is the domain's estimate minus device time in 2^-32 ns and `freq` the frequency of the estimate in
2^-32 ns per cycle (R152); `lastAnnounce` the last Announce of the selected master (ns), `lastReq` when the last Delay_Req
left (ns), `fabSync` the Syncs from the fabric that wait for their Follow_Ups, by source node. Stamps of Syncs are held in 2^-16 ns. -/
structure Domain where
  number : Nat
  priority : Nat
  state : Nat
  source : Nat
  clockClass : Nat
  identity : Nat
  ahead : Int
  good : Nat
  bad : Nat
  pathDelay : Nat
  lastAnnounce : Nat
  timeoutNs : Nat
  heard : List Heard
  syncPend : Option SyncMsg
  lastSync : Option SyncMsg
  reqT3 : Option Nat
  reqInterval : Int
  lastReq : Option Nat
  reqs : Nat
  freq : Int
  fabSync : Tab SyncMsg
  deriving DecidableEq, Repr

/-- An island's local copy of device time (R16, R147): its value in 2^-16 ns with the fraction below, the rate that the
time base last sent (2^-32 ns per cycle), and the path delay that firmware measured at boot. -/
structure TimeCopy where
  value : Nat
  phase : Nat
  rate : Int
  delay : Nat
  deriving DecidableEq, Repr

/-- The time group (R146 to R164). `now` is device time in 2^-16 ns, `copies` the local copies: 0 and 1 of MP0 and MP1, 2
to 9 of FP0 to FP7, 10 to 17 of MC0 to MC7, 18 to 25 of CP0 to CP7; `state` TIM_NOW.STATE; `freq` the frequency word in 2^-32 ns per cycle and
`phase` its fraction below 2^-16 ns; `refPhase` in 0.25 ns; `ppsRose` the second (ns) at which PPS_OUT last
rose; `second` the whole second last closed (R171); `sources` the domain numbers that this module sends into the fabric (R161). -/
structure Tim where
  now : Nat
  phase : Nat
  freq : Int
  state : Nat
  copies : List TimeCopy
  latched : Nat
  latchedState : Nat
  domains : List Domain
  selected : Option Nat
  manual : Option Nat
  holdover : Nat
  ppsDir : Nat
  refDir : Nat
  ppsCount : Nat
  ppsAt : Nat
  ppsLatch : Nat
  ppsLatchCount : Nat
  ppsRose : Nat
  refPhase : Int
  second : Nat
  refEdges : List Nat
  sources : List Nat
  deriving DecidableEq, Repr

/-! ### Fabric (chapters 13, 14) -/

/-- A lane of a port: FAB_LANE_CTLn.RETIRE and FAB_LANE_STATn. -/
structure Lane where
  retired : Bool
  codeErr : RcCount
  fom : Nat
  slips : Nat
  laneId : Nat
  active : Bool
  polInv : Bool
  deskewed : Bool
  commaOk : Bool
  lock : Bool
  usable : Bool
  deriving DecidableEq, Repr

/-- A packet in a virtual-channel queue: the router input it came on (R40), the port and class whose buffer it holds, if it came in on a port, since when
it waits, and since when it is held for want of budget (2^-16 ns; R34, R39). -/
structure VcEntry where
  pkt : FabPkt
  input : Nat
  inPort : Option Nat
  inCls : Nat
  since : Nat
  heldAt : Option Nat
  deriving DecidableEq, Repr

/-- A fabric port (R363 to R378, R396 to R399). `replay` holds the frames not yet acknowledged with
their link sequence, `ackedAt` the last ACK advance or resend (ns), `vcq` the packets that wait. `delays` holds the
last 16 measurements of the link, (t4 - t1) - (t3 - t2), twice its delay, and `timeT1` the stamp of the request in flight, in 0.25 ns. `powerWant` is a power change asked
of the peer, `powerAt` when its frame left (ns). `linkSent` records the link frames that the port sent, oldest first, by kind and body
(the model's own). -/
structure FPort where
  state : Nat
  reason : Nat
  lanes : List Lane
  hostOff : Bool
  hostKeep : Bool
  devKeep : Bool
  ckLocked : Bool
  generation : Nat
  proposed : Nat
  peerUsable : Nat
  txSeq : Nat
  rxSeq : Nat
  replay : List (Nat × FabPkt)
  ackedAt : Nat
  resendsNoAck : Nat
  sinceAck : Nat
  replays : RcCount
  mrkDrop : RcCount
  secResends : Nat
  lastSecResends : Nat
  delays : List Nat
  timeSeq : Nat
  timeT1 : Nat
  credits : List Nat
  freed : List Nat
  peerCounts : List Nat
  peerUid : Nat
  peerPort : Nat
  peerRev : Nat
  peerLevel : Nat
  peerMode : Nat
  clockLosses : Nat
  powerWant : Option Nat
  powerAt : Nat
  linkSent : List (Nat × List Nat)
  vcq : List VcEntry
  deriving DecidableEq, Repr

/-- A check-value unit (R379 to R381). -/
structure Cv where
  bound : Bool
  busy : Bool
  err : Bool
  invert : Bool
  refOut : Bool
  refIn : Bool
  width : Nat
  poly : Word64
  init : Word64
  value : Word64
  srcLen : Nat
  srcAddr : Nat
  bytes : Nat
  deriving DecidableEq, Repr

/-- A candidate as heard (R385). -/
structure Cand where
  uid : Nat
  priority : Nat
  epoch : Nat
  distance : Nat
  heardAt : Nat
  advancedAt : Nat
  office : Bool
  node : Nat
  port : Nat
  deriving DecidableEq, Repr

/-- A transit booking the manager holds (R403). -/
structure Booking where
  node : Nat
  dest : Nat
  bytes : Nat
  ports : List (Nat × Nat)
  deriving DecidableEq, Repr

/-- A FAB.ROUTE load in progress (R402). -/
structure RoutePage where
  epoch : Nat
  page : Nat
  kind : Nat
  first : Nat
  entries : List Nat
  dateline : Nat
  group : Nat
  deriving DecidableEq, Repr

/-- The fabric (R357 to R408). UCAST entries by node, MCAST by group; `rx` next expected sequence by
stream (source * 4 + VC), `tx` next sequence by destination * 4 + VC; `assigned` the addresses with the UIDs that hold
them, `office` the node and UID of the candidate that holds office, `peers` IF_REV_MAX by node. The model's own records:
`loaded` the tables that the manager last sent each node, `lostSince` since when no link to a node has been up (ns, R405),
`bookingDest` destination and bytes of the booking asked for. `hellos` the last HELLO of each port, `answers` the manager's booking answers, `delivered` the packets delivered to
this module, and `sentPkts` port, link sequence and packet of every frame sent. -/
structure Fab where
  ports : Tab FPort
  cvs : Tab Cv
  valid : Bool
  manager : Bool
  priority : Nat
  node : Nat
  epoch : Nat
  cands : List Cand
  selfSince : Option Nat
  office : Option (Nat × Nat)
  hellos : List (Nat × HelloMsg)
  reports : List NodeReport
  assigned : List (Nat × Nat)
  loaded : Tab (List Tlv)
  lostSince : Tab Nat
  ucast : Tab Nat
  mcast : Tab Nat
  dateline : Nat
  group : Nat
  unroutable : RcCount
  hopDrop : RcCount
  badHdr : RcCount
  dupDrop : RcCount
  secUnroutable : Nat
  firstUnroutable : Nat
  pages : List RoutePage
  lastEpoch : Nat
  routeEpoch : Nat
  bookings : List Booking
  rx : Tab Nat
  tx : Tab Nat
  peers : Tab Nat
  wantBooking : Option InWork
  bookingSince : Nat
  bookingDest : Nat × Nat
  answers : List (Nat × Bool)
  delivered : List FabPkt
  sentPkts : List (Nat × Nat × FabPkt)
  deriving DecidableEq, Repr

/-! ### Audio (chapter 16) -/

/-- A serial audio port (R434 to R446). Frames are in sample-frame indices; `flagFrom` is the first frame that
an input in holdover writes as a flagged zero, `lossAt` when (ns), and `flagged` the runs (first, count)
flagged before. `mclk` is what the port drives on its MCLK ball in Hz, none for high impedance (R435). -/
structure Sap where
  configured : Bool
  output : Bool
  framing : Nat
  slots : Nat
  wordLen : Nat
  slotWidth : Nat
  rate : Nat
  slave : Bool
  packing : Nat
  bandwidth : Nat
  loudness : Nat
  tdmSync : Nat
  delta : Nat
  lock : Nat
  startAt : Option Nat
  startGpi : Option Nat
  started : Bool
  frame : Nat
  fill : Nat
  inRange : Nat
  ppb : Int
  steer : Int
  ignoreMs : Bool
  underruns : Nat
  underRc : RcCount
  secUnder : Nat
  slips : Nat
  secSlips : Nat
  glitches : Nat
  secGlitch : Nat
  flagFrom : Option Nat
  lossAt : Nat
  flagged : List (Nat × Nat)
  mclk : Option Nat
  deriving DecidableEq, Repr

/-- An audio route (R431): endpoints as their four bytes, when it takes effect, and its counts
with the frame last played through its slip buffer. -/
structure Route where
  src : BitVec 32
  sink : BitVec 32
  effectAt : Option Nat
  old : Option (BitVec 32)
  slips : Nat
  secSlips : Nat
  underruns : Nat
  secUnder : Nat
  lastPlayed : Nat
  deriving DecidableEq, Repr

/-- Audio: ports, routes, the source frames written by endpoint (frame index, sample, valid). -/
structure Aud where
  ports : Tab Sap
  routes : List Route
  rings : Tab (List (Nat × Nat × Bool))
  played : List (BitVec 32 × Nat × Nat)
  deriving DecidableEq, Repr

/-! ### Faults, health and power (chapters 19, 20, 21) -/

/-- A fault log entry (R512). -/
structure LogEntry where
  index : Nat
  code : Nat
  unitType : Nat
  unit : Nat
  count : Nat
  channel : Nat
  powerOn : Nat
  time : Nat
  address : Nat
  detail : List Nat
  fwVersion : Nat
  deriving DecidableEq, Repr

/-- Faults (R500 to R517): retired units, counted events with their times, units held out during a
restart, permanent units that wait for retirement with cause and time (ns), the log and the self-test in progress. -/
structure Flt where
  retired : List UnitRef
  counts : List (UnitRef × Nat)
  heldOut : List UnitRef
  due : List (UnitRef × Nat × Nat)
  log : List LogEntry
  flashed : Nat
  nextIndex : Nat
  powerOns : Nat
  selftest : Option Nat
  testPorts : List (Nat × FPort)
  passedOnce : List UnitRef
  deriving DecidableEq, Repr

/-- Health monitors (R518, R519): rails in mV with the lowest since the last HLTH.STATUS, sensors in
0.1 degrees with the highest; `coolMs` counts the readings of 1 ms with every sensor below 95 degrees. -/
structure Hlth where
  volts : List Nat
  voltsMin : List Nat
  temps : List Int
  tempsMax : List Int
  warn : List Nat
  above : List Bool
  powerMw : Nat
  supply : RcCount
  thermal : Bool
  coolMs : Nat
  deriving DecidableEq, Repr

/-- Power, pins and the SMBus target (R526 to R531, R551 to R555). `phase` 0 off, 1 sequencing, 2 held
in reset with rails up, 3 on, 4 off until the retry of R531. `railIdx` counts the rails that the sequence has
started; `faultN` is FAULT_N but for LOCKSTEP_PERM, and `supplyFault` a supply fault that SUPPLY does not show yet; `addrBalls` is 2 * SMB_ADDR1 + SMB_ADDR0 as the board ties the balls. `lastSmb` is what the last SMBus read returned (the model's own record;
none: NACK). -/
structure Pwr where
  vinMv : Nat
  en : Bool
  resetN : Bool
  phase : Nat
  railIdx : Nat
  rails : List Rail
  attempts : Nat
  failed : Bool
  pgood : Bool
  faultN : Bool
  causeCode : Nat
  causeRail : Nat
  causeAttempts : Nat
  alertN : Bool
  supplyFault : Bool
  addrBalls : Nat
  smbAddr : Nat
  lastSmb : Option (List Byte)
  deriving DecidableEq, Repr

/-- The GPIO balls (R136). -/
structure Gpio where
  dir : Word32
  out : Word32
  inp : Word32
  edges : Tab Nat
  deriving DecidableEq, Repr

/-- The drain in progress (R55, R56) and the mode transition not yet complete, with the modes that it goes from and to
(R50): an automatic transition may follow before it completes (R49). `relocking` lists the ports that leave port-off, in
the order of R52; the first one's turn is in progress. -/
structure ModeSt where
  mode : Mode
  old : Mode
  goal : Mode
  incomplete : Bool
  target : Mode
  drainEnds : Nat
  offByDevice : List PortRef
  portsOff : List PortRef
  relocking : List PortRef
  deriving DecidableEq, Repr

/-- HIF registers (R547, R548) that the other parts of State do not already give. -/
structure Hif where
  detClass : Nat
  ifRevMax : Nat
  ifRevMin : Nat
  fwVersion : Nat
  retired : Nat
  channels : Nat
  mode : Nat
  scratch : Word64
  tempMax : Int
  vinMv : Nat
  therm : Bool
  lockPerm : Bool
  restarting : Bool
  deriving DecidableEq, Repr

/-- What the last register access returned to its master: the value, or an abort (the model's own
record). -/
structure LastAccess where
  value : Word64
  abort : Bool
  deriving DecidableEq, Repr

/-- The whole device. -/
structure State where
  /-- The waiting commands, first in, first out (the model's own). -/
  pending : List Instr
  /-- How many free values have been taken (the model's own; assumption log 5). -/
  free : Nat
  last : LastAccess
  fuses : Fuses
  modes : ModeSt
  ctl : Ctl
  flash : Flash
  mbx : Mbx
  evt : Evt
  ledger : Ledger
  tim : Tim
  inputs : Tab Input
  policers : Tab Policer
  policedBefore : List (Nat × Nat × Option Policer)
  mni : Tab MniIf
  mediaMode : Tab QsfpKind
  sdi : Tab SdiSignal
  outputs : Tab Output
  tmg : Tmg
  chans : Tab Chan
  pix : Pix
  mon : Mon
  tsk : Tsk
  pipes : Tab Pipe
  mem : MemSys
  fab : Fab
  prt : Prt
  aud : Aud
  flt : Flt
  hlth : Hlth
  pwr : Pwr
  gpio : Gpio
  hif : Hif
  deriving DecidableEq, Repr

/-! ### How a step can stop -/

/-- The faults of a step. -/
inductive Fault where
  /-- Raised by `execMemRequest` for a request of an agent other than a bus-matrix master whose DRAM
  address lies at or above T (R333): the address does not exist on the part, and the spec gives such
  an agent no answer. Safe: the model stops where the hardware's outcome is not given. -/
  | addressAbsent
  deriving DecidableEq, Repr

/-- The refusals of a step. -/
inductive Refusal where
  /-- Raised only by an arm of `exec` whose command has no meaning yet. Safe: nothing is claimed of
  the command. -/
  | notModelled (mnemonic : String)
  deriving DecidableEq, Repr

/-! ### Reset (R549; assumption log 3 names the values that the spec does not give) -/

def RcCount.zero : RcCount := { pcie := 0, cpu := 0 }

def bucketZero : Bucket := { fill := 0, rate := 0 }

def Win.reset : Win := { base := 0, hostOwn := false, wrEn := false, rdEn := false, en := false }

def ErrLog.reset : ErrLog :=
  { count := .zero, valid := false, write := false, master := 0, addr := 0 }

def Restart.reset : Restart :=
  { elapsed := 0, restarts := 0, lockstepPerm := false, cause := 0,
    active := false, startedAt := 0, mismatchTimes := [], permPending := none, recopy := false, lostBefore := 0 }

def BootStatus.reset : BootStatus :=
  { serviceFlag := false, trialReverted := false, failHost := 0, failB := 0, failA := 0,
    source := 3, stage := 0, length4k := 0 }

def BootRecord.blank : BootRecord :=
  { ok := false, seq := 0, preferred := 0, trial := 0, bootToService := false }

def MapCopy.blank : MapCopy := { ok := false, seq := 0, units := [], node := none }

def Fuses.reset : Fuses :=
  { orderCode := 0, stepping := 0, uid := 0, revoked := [], keyHashes := [0, 0, 0, 0],
    debugKeyHash := 0, debugDisable := false, rollback := 0 }

def Ctl.reset : Ctl :=
  { remap := false, debugUnlocked := false, challenge := none, lockout := none,
    wdogPeriod := 100, wdogArmed := false, wdogLast := 0, errLog := .reset, wins := [],
    boot := .reset, imgDigest := 0, restart := .reset, cpuFaults := 0, debugError := false, mirrorErrors := 0, reservations := [],
    dmaBusy := false, fwRunning := false, sram := [] }

def Flash.reset : Flash :=
  { bytes := [], map0 := .blank, map1 := .blank, unverified := [], writing := none, broken := false, mapDue := false }

def Slot.free : Slot := { owner := none, ownerNode := 0, gen := 0, state := 0, bellGen := 0 }

def Mbx.reset : Mbx :=
  { slots := [], mem := [], done := 0, respLost := .zero, dbIgnored := .zero, dropped := .zero,
    bells := [], inWork := [], resps := [], mgmtSlots := [], claimReads := [], ipv4 := 0, netmask := 0,
    udpPort := 4750, key := none, evtDest := none, sources := [], discards := 0, datagrams := [],
    fabResps := [],
    peerWaits := [], unsent := [], heldAdmits := [] }

def Evt.reset : Evt :=
  { fifo := [], nextSeq := 0, lost := .zero, lostPending := 0, firstLost := 0, lostTotal := 0,
    base := 0, en := false, urgVector := 31, vector := 30, holdoffUs := 0, prod := 0, cons := 0,
    lastVector := none, vectorDue := false, busMaster := false, msixEn := false, masked := List.range 32,
    pba := [], host := [], sent := [] }

def LedgerRec.zero : LedgerRec :=
  { memBytes := 0, cycles := 0, fabBytes := 0, holdMax := 0, throttledNow := false, lastMem := 0,
    lastCycles := 0, lastFab := 0, lastHold := 0, throttled := 0 }

def Ledger.reset : Ledger :=
  { periodStart := 0, lastPeriodStart := 0, recs := [], mcUsed := [], portUsed := [],
    vc0Used := [], lineUsed := [] }

def MniIf.reset : MniIf :=
  { gateway := 0, vlanEn := false, vlanId := 0, prefix_ := 0, en := false, addr := 0,
    linkUp := false, unmatched := 0, sent := [] }

def Queue.reset : Queue :=
  { en := false, launchEn := false, iface := 0, rateKbps := 0, burst := 0, tokens := 0, tokAt := 0,
    entries := [], resMax := 0, lateMax := 0, depthEnd := 0, depthMax := 0, curRes := 0,
    curLate := 0, curDepth := 0 }

def Tmg.reset : Tmg := { queues := [], ifBusyUntil := [], period := 0, sent := [] }

/-- All three states of a layer start with ENABLE = 0 (R218). -/
def Layer.reset : Layer :=
  { enable := false, buf := 0xFFFFFFFF, offset := 0, format := 0, pitch := 0, src := [0, 0, 0, 0],
    dst := [0, 0, 0, 0], blend := 0, alpha := 255, fill := 0, acqFence := 0xFFFF, acqTarget := 0,
    relFence := 0xFFFF, relValue := 0, scalerSet := 0, srcKind := 0, srcIndex := 0,
    freeze := false }

def LayerSet.reset : LayerSet :=
  { staged := [], shown := [], pending := none, effective := [], faulty := [], hist := [] }

/-- A channel handle with no configuration (R57). -/
def Chan.idle : Chan :=
  { state := .idle, cfg := none, cost := 0, runs := [], hashBase := none, ingestBudget := 0,
    codingBudget := 0, egressBudget := 0, mirrorBudget := 0, fabBudget := 0, shedRank := 128,
    startTime := 0, firstPic := none, lastBegun := none, begun := [], stopPic := none,
    unlaunched := 0, newestLaunched := none, lastLaunch := none, pending := none, applied := [],
    launched := 0, late := 0, rcFloors := 0, bufT := bucketZero, bufA := bucketZero, codingNo := 0,
    lastKey := 0, sinceKey := 0, sinceBp := 0, lastHashReset := 0, refreshCol := 0, refreshLeft := 0,
    keyReqs := [], pics := [], pix := none, layers := .reset, srcPics := [],
    flag := 0, decFmt := 0, concealSec := 0, deriveSec := 0, firstFlag := 0, handoverPeer := none,
    handoverPic := 0, continueDue := false, hashWait := [], lastHdr := none,
    lastRecon := none, refs := [], lookBuf := [] }

def Prt.reset : Prt :=
  { groups := [], witnesses := [], stopped := false, croakAt := none, sentLease := [], sentCroak := [],
    sentMirror := [], sentRelay := [], sentContinue := [], sentMbx := [] }

def Pix.reset : Pix := { luts := [], coefs := [], fences := [], releases := [], waiting := [], wrote := [] }

def Mon.reset : Mon :=
  { route := 0xFF, timing := none, state := 0, stopping := false, frame := 0, nextFrame := 0,
    timingWr := false, intEn := 8, intStat := 0, match_ := 0, current := 0xFFFF, underFirst := 0,
    underCount := .zero, composing := false, composed := 0, abandoned := 0, layers := .reset,
    tiles := [], store := [], lineOut := [], storeErrors := 0, drawBase := 0, drawHead := 0, drawTail := 0, drawEn := false, deadNs := 0,
    drawErr := false, drawErrIdx := 0, drawErrCount := .zero, drawUsed := 0,
    drawPos := 0, drawAt := 0 }

/-- TSK_CTL resets with EN = 0, LEND_EN = 0 and a limit of 2,000 us (R331). -/
def Dispatcher.reset : Dispatcher :=
  { limitUs := 2000, lendEn := false, en := false, stale := .zero, allocFail := .zero, tasks := [],
    joins := [], period := 0, depths := [0, 0, 0, 0], curDepths := [0, 0, 0, 0],
    hist := List.replicate 16 0, curHist := List.replicate 16 0 }

def Cell.reset : Cell :=
  { state := 0, takeAt := 0, task := none, startedAt := 0, busy := 0, curBusy := 0, corrected := 0,
    curCorrected := 0, local_ := [], localPtr := 0 }

/-- The spec gives a block's clock only as a range: it starts at the lowest, 800 MHz (R13; DESIGN CHOICE, assumption
log 3). -/
def Block.reset : Block :=
  { mhz := 800, newMhz := 800, changing := false, relockFrom := none, memory := [], poison := [] }

def taskBlank : TaskDesc :=
  { kernel := 0, channel := 0xFF, cls := 0, depCount := 0, affinity := 0xFFFF, succ := [],
    join := 0xFFFFFFFF, excluded := 0xFFFF, attempt := 0, args := [] }

def Task.free : Task :=
  { gen := 0, inUse := false, submitted := false, counter := 0, desc := taskBlank, ready := none,
    entered := 0, inList := false, lent := none, running := none, held := false,
    cancelled := false }

def Join.free : Join :=
  { gen := 0, inUse := false, counter := 0, target := .firmware, channel := 0xFF, cancelled := false }

def Tsk.reset : Tsk :=
  { regions := [], cells := [], blocks := [], minReady := 2, lent := 0, curLent := 0, tokens := [],
    joinIrqs := [] }

def Pipe.reset : Pipe :=
  { credits := [], held := [], context := none, idle := none, frame := none, slicesLeft := [], parity := [], poison := [], reissues := 0 }

def Mc.reset : Mc :=
  { queue := [], openRow := [], postponed := [], corrected := .zero, uncorr := .zero,
    logValid := false, logClass := 0, logPort := 0, logSector := 0, patrol := 0,
    secCorrected := 0 }

/-- The default bank mask j of R338: bits 17 + j, 23 + j and 29 + j. -/
def defaultMask (j : Nat) : BitVec 40 :=
  BitVec.ofNat 40 (2 ^ (17 + j) + 2 ^ (23 + j) + 2 ^ (29 + j))

def defaultMasks : Tab (BitVec 40) := (List.range 6).map fun j => (j, defaultMask j)

def MemSys.reset : MemSys :=
  { dram := [], trained := [], topGib := 0, stagedMask := defaultMasks, actMask := defaultMasks,
    fallback := false, evac := false, evacMc := 0, evacNext := 0, evacPoison := 0, lost := 0,
    ages := [200, 500, 1000, 4000], temps := [0, 0, 0, 0],
    doubled := [false, false, false, false], threshC := 85, mcs := [], poison := [], bufs := [],
    nextBuf := 1, lastRead := none, blockPtr := [], caches := [] }

def Domain.reset (number priority : Nat) : Domain :=
  { number := number, priority := priority, state := 1, source := 0, clockClass := 0,
    identity := 0, ahead := 0, good := 0, bad := 0, pathDelay := 0, lastAnnounce := 0,
    timeoutNs := 0, heard := [], syncPend := none, lastSync := none, reqT3 := none,
    reqInterval := 0, lastReq := none, reqs := 0, freq := 0, fabSync := [] }

/-- A local copy at device reset: as device time (R147, R148). -/
def TimeCopy.reset : TimeCopy := { value := 0, phase := 0, rate := 0, delay := 0 }

/-- Device time starts at 0 and free-runs (R148); PPS_DIR and REF10_DIR default to 2 (R162). -/
def Tim.reset : Tim :=
  { now := 0, phase := 0, freq := 0, state := 0, copies := List.replicate 26 TimeCopy.reset, latched := 0, latchedState := 0,
    domains := [Domain.reset 127 0, Domain.reset 0 1], selected := none, manual := none,
    holdover := 2, ppsDir := 2, refDir := 2, ppsCount := 0,
    ppsAt := 0, ppsLatch := 0, ppsLatchCount := 0, ppsRose := 0, refPhase := 0, second := 0,
    refEdges := [], sources := [] }

/-- A lane as at reset. MRK_DROP of its port is never counted (DEDUCED, assumption log 61). -/
def Lane.reset : Lane :=
  { retired := false, codeErr := .zero, fom := 0, slips := 0, laneId := 0, active := false,
    polInv := false, deskewed := false, commaOk := false, lock := false, usable := false }

/-- The full credit grants of R396: VC0 class 0, VC0 class 1, VC1 class 0, and so on. -/
def fullCredits : List Nat := [64, 64, 256, 256, 256, 256, 256, 256]

/-- FAB_PORT_STATn reads STATE 0 at reset; REASON 7 is set when a device reset takes a port out of
UP. -/
def FPort.reset : FPort :=
  { state := 0, reason := 0, lanes := List.replicate 4 Lane.reset, hostOff := false,
    hostKeep := false, devKeep := false, ckLocked := false, generation := 0, proposed := 0,
    peerUsable := 0, txSeq := 0, rxSeq := 0, replay := [], ackedAt := 0, resendsNoAck := 0,
    sinceAck := 0, replays := .zero,
    mrkDrop := .zero, secResends := 0, lastSecResends := 0, delays := [], timeSeq := 0,
    timeT1 := 0, credits := fullCredits, freed := List.replicate 8 0,
    peerCounts := List.replicate 8 0, peerUid := 0, peerPort := 0,
    peerRev := 0, peerLevel := 0, peerMode := 0, clockLosses := 0,
    powerWant := none, powerAt := 0, linkSent := [], vcq := [] }

/-- A check-value unit that is not bound (R380). -/
def Cv.reset : Cv :=
  { bound := false, busy := false, err := false, invert := false, refOut := false, refIn := false,
    width := 32, poly := 0, init := 0, value := 0, srcLen := 0, srcAddr := 0, bytes := 8 }

/-- CV0 to CV7 are bound with CRC-32C (R380), CV8 and CV9 with the CRC-64 of R456. -/
def Cv.boundLink : Cv :=
  { Cv.reset with bound := true, invert := true, refOut := true, refIn := true, width := 32,
                  poly := 0x1EDC6F41, init := 0xFFFFFFFF }

def Cv.boundDigest : Cv :=
  { Cv.reset with bound := true, invert := true, refOut := true, refIn := true, width := 64,
                  poly := 0x42F0E1EBA9EA3693, init := 0xFFFFFFFFFFFFFFFF }

def cvsAtReset : Tab Cv :=
  ((List.range 8).map fun n => (n, Cv.boundLink)) ++ [(8, Cv.boundDigest), (9, Cv.boundDigest)]

def Fab.reset : Fab :=
  { ports := [], cvs := cvsAtReset, valid := false, manager := false, priority := 128, node := 0,
    epoch := 0, cands := [], selfSince := none, office := none, hellos := [], reports := [],
    assigned := [], loaded := [], lostSince := [], ucast := [], mcast := [], dateline := 0, group := 0, unroutable := .zero,
    hopDrop := .zero, badHdr := .zero, dupDrop := .zero, secUnroutable := 0, firstUnroutable := 0,
    pages := [], lastEpoch := 0, routeEpoch := 0, bookings := [], rx := [], tx := [], peers := [],
    wantBooking := none, bookingSince := 0, bookingDest := (0, 0), answers := [], delivered := [], sentPkts := [] }

/-- A serial audio port at reset: stopped (R441), AUD_LOOPn.BW 2. -/
def Sap.reset : Sap :=
  { configured := false, output := false, framing := 0, slots := 2, wordLen := 24, slotWidth := 32,
    rate := 2, slave := false, packing := 0, bandwidth := 2, loudness := 0, tdmSync := 0,
    delta := 0, lock := 0, startAt := none, startGpi := none, started := false, frame := 0,
    fill := 0, inRange := 0, ppb := 0, steer := 0, ignoreMs := false, underruns := 0,
    underRc := .zero, secUnder := 0, slips := 0, secSlips := 0, glitches := 0, secGlitch := 0, flagFrom := none,
    lossAt := 0, flagged := [], mclk := none }

def Aud.reset : Aud := { ports := [], routes := [], rings := [], played := [] }

def Flt.reset : Flt :=
  { retired := [], counts := [], heldOut := [], due := [], log := [], flashed := 0, nextIndex := 1,
    powerOns := 1, selftest := none, testPorts := [], passedOnce := [] }

/-- TEMP_WARN defaults to 95 degrees on every sensor (R519). -/
def Hlth.reset : Hlth :=
  { volts := List.replicate 8 0, voltsMin := List.replicate 8 0, temps := List.replicate 8 0,
    tempsMax := List.replicate 8 0, warn := List.replicate 8 95, above := List.replicate 8 false,
    powerMw := 0, supply := .zero, thermal := false, coolMs := 0 }

/-- The rails are up and RESET_N is high: the end of power sequencing comes next (R530). -/
def Pwr.reset : Pwr :=
  { vinMv := 12000, en := true, resetN := true, phase := 2, railIdx := 6,
    rails := [.aux, .core, .sram, .vpp, .vddq, .serdesIo], attempts := 0, failed := false,
    pgood := true, faultN := true, causeCode := 0, causeRail := 0, causeAttempts := 0,
    alertN := true, supplyFault := false, addrBalls := 0, smbAddr := 0x58, lastSmb := none }

def Gpio.reset : Gpio := { dir := 0, out := 0, inp := 0, edges := [] }

def ModeSt.reset : ModeSt :=
  { mode := .boot, old := .boot, goal := .boot, incomplete := false, target := .ready, drainEnds := 0,
    offByDevice := [], portsOff := [], relocking := [] }

def Hif.reset : Hif :=
  { detClass := 0, ifRevMax := 0, ifRevMin := 0, fwVersion := 0, retired := 0, channels := 0,
    mode := 0, scratch := 0, tempMax := 0, vinMv := 0, therm := false, lockPerm := false,
    restarting := false }

/-- The device right after a power-on reset, in BOOT with the boot ROM about to start. -/
def State.reset : State :=
  { pending := [], free := 0, last := { value := 0, abort := false }, fuses := .reset,
    modes := .reset, ctl := .reset, flash := .reset, mbx := .reset, evt := .reset,
    ledger := .reset, tim := .reset, inputs := [], policers := [], policedBefore := [], mni := [], mediaMode := [],
    sdi := [], outputs := [], tmg := .reset, chans := [], pix := .reset, mon := .reset,
    tsk := .reset, pipes := [], mem := .reset, fab := .reset, prt := .reset, aud := .reset,
    flt := .reset, hlth := .reset, pwr := .reset, gpio := .reset, hif := .reset }

end Sys2Proof.Machine
end

