-- ==== Sys2Proof/Machine/Flags.lean ====
section
/-! DEFINITION. Machine/Flags.lean: the status codes (R118), opcodes (R132 to R138), event codes and
the code numbers of modes, states and paths that messages and registers carry. -/

namespace Sys2Proof.Machine

/-! ### Status codes, R118 -/

abbrev stOk : Nat := 0
abbrev stBusy : Nat := 1
abbrev stState : Nat := 2
abbrev stStopping : Nat := 3
abbrev stBadOpcode : Nat := 4
abbrev stBadParam : Nat := 5
abbrev stNoCapacity : Nat := 6
abbrev stVersion : Nat := 7
abbrev stAuth : Nat := 8
abbrev stFault : Nat := 9
abbrev stTimeout : Nat := 10

/-! ### Codes of enumerations -/

/-- Path codes of R104. -/
def pathCode : Path → Nat
  | .host => 1
  | .management => 2
  | .fabric => 3

/-- The path that a master carries (R104), if any. -/
def masterPath : Master → Option Path
  | .pcie => some .host
  | .cpuData => some .management
  | .mirror => some .fabric
  | _ => none

/-- Master codes of R78. -/
def masterCode : Master → Nat
  | .cpuInstr => 0
  | .cpuData => 1
  | .pcie => 2
  | .debug => 3
  | .dma => 4
  | .mirror => 5

/-- Mode codes of R46. -/
def modeCode : Mode → Nat
  | .boot => 0
  | .service => 1
  | .dormant => 2
  | .ready => 3
  | .operate => 4
  | .drain => 5

/-- Channel state codes of R57. -/
def stateCode : ChanState → Nat
  | .idle => 0
  | .configured => 1
  | .starting => 2
  | .running => 3
  | .stopping => 4
  | .faulted => 5
  | .migrating => 6

/-- Service class codes of MEM_ECC_LOGn (R351). -/
def classCode : SvcClass → Nat
  | .iso => 0
  | .pipe => 1
  | .cell => 2
  | .bulk => 3

/-- Rail codes of SMB_PWR_CAUSE (R552). -/
def railCode : Rail → Nat
  | .aux => 0
  | .core => 1
  | .sram => 2
  | .vpp => 3
  | .vddq => 4
  | .serdesIo => 5

/-- Unit type codes of R515. -/
def unitType : UnitRef → Nat
  | .cell _ => 1
  | .block _ => 2
  | .region _ => 3
  | .controller _ => 4
  | .lane _ _ => 5
  | .fabPort _ => 6
  | .sdiPort _ => 7
  | .mediaPort _ => 8
  | .audioPort _ => 9
  | .control => 10

/-- Unit numbers of R515. -/
def unitNumber : UnitRef → Nat
  | .cell n => n.val
  | .block n => n.val
  | .region n => n.val
  | .controller n => n.val
  | .lane p l => p.val * 8 + l.val
  | .fabPort n => n.val
  | .sdiPort n => n.val
  | .mediaPort n => n.val
  | .audioPort n => n.val
  | .control => 0

/-- A link frame or register field as bytes, little-endian: `w` bytes of `v`. -/
def le : Nat → Nat → List Nat
  | 0, _ => []
  | w + 1, v => v % 256 :: le w (v / 256)

def u8 (v : Nat) : List Nat := le 1 v
def u16 (v : Nat) : List Nat := le 2 v
def u32 (v : Nat) : List Nat := le 4 v
def u64 (v : Nat) : List Nat := le 8 v

/-- Two's complement of `v` in `w` bytes. -/
def twos (w : Nat) (v : Int) : Nat := (v % (256 ^ w : Int)).toNat

/-- The number that a list of bytes spells, little-endian. -/
def ofLe : List Nat → Nat
  | [] => 0
  | b :: bs => b + 256 * ofLe bs

/-- The value of a two's complement field of `w` bytes. -/
def signed (w v : Nat) : Int := if 2 * v < 256 ^ w then (v : Int) else (v : Int) - (256 ^ w : Nat)

/-- Bytes `[i, i + w)` of the little-endian value `v`. -/
def fieldAt (v i w : Nat) : Nat := v / 256 ^ i % 256 ^ w

/-- Bit `i` of `v`. -/
def bitAt (v i : Nat) : Bool := v / 2 ^ i % 2 = 1

/-- Bits `[i + w - 1 : i]` of `v`. -/
def bitsAt (v i w : Nat) : Nat := v / 2 ^ i % 2 ^ w

/-- The number whose bits `i` are those with `p i`, for i below `n`. -/
def bitmap (n : Nat) (p : Nat → Bool) : Nat :=
  (List.range n).foldl (fun acc i => if p i then acc + 2 ^ i else acc) 0

/-- The indices below `n` of the bits set in `v`. -/
def bitList (n v : Nat) : List Nat := (List.range n).filter fun i => bitAt v i

/-- Ceiling division. -/
def ceilDiv (a b : Nat) : Nat := (a + b - 1) / b

/-- `a` rounded up to a multiple of `m`. -/
def roundUp (a m : Nat) : Nat := ceilDiv a m * m

/-- Saturating addition at `cap`. -/
def satAdd (cap a b : Nat) : Nat := min cap (a + b)

/-! ### Event codes (R131 and the event tables of the other chapters) -/

abbrev evMode : Nat := 0x0101
abbrev evCapacity : Nat := 0x0102
abbrev evCtlRestarted : Nat := 0x0103
abbrev evCtlFault : Nat := 0x0180
abbrev evEventsLost : Nat := 0x0181
abbrev evChanState : Nat := 0x0201
abbrev evChanRunning : Nat := 0x0202
abbrev evChanStopped : Nat := 0x0203
abbrev evChanMigrated : Nat := 0x0204
abbrev evRcFloor : Nat := 0x0205
abbrev evKeyPicture : Nat := 0x0206
abbrev evDecodeConceal : Nat := 0x0207
abbrev evDecodeClean : Nat := 0x0208
abbrev evDecodeFormat : Nat := 0x0209
abbrev evChanShed : Nat := 0x0280
abbrev evChanFault : Nat := 0x0281
abbrev evHandoverFailed : Nat := 0x0282
abbrev evInputAbsent : Nat := 0x0301
abbrev evInputLock : Nat := 0x0302
abbrev evInputRepeat : Nat := 0x0303
abbrev evInputDrop : Nat := 0x0304
abbrev evInputLoss : Nat := 0x0305
abbrev evInputFormat : Nat := 0x0306
abbrev evInputPoliced : Nat := 0x0307
abbrev evLaunchLate : Nat := 0x0401
abbrev evLayerMiss : Nat := 0x0501
abbrev evLayerFlip : Nat := 0x0502
abbrev evTimeDomain : Nat := 0x0601
abbrev evTimeSelect : Nat := 0x0602
abbrev evTimeHoldover : Nat := 0x0680
abbrev evFabLink : Nat := 0x0701
abbrev evFabWidth : Nat := 0x0702
abbrev evFabReplay : Nat := 0x0703
abbrev evFabManager : Nat := 0x0704
abbrev evFabNode : Nat := 0x0705
abbrev evFabNodeLost : Nat := 0x0706
abbrev evFabRoutes : Nat := 0x0707
abbrev evFabUnreachable : Nat := 0x0708
abbrev evFabLinkLost : Nat := 0x0780
abbrev evProtState : Nat := 0x0801
abbrev evProtDigest : Nat := 0x0802
abbrev evProtWitness : Nat := 0x0803
abbrev evProtTakeover : Nat := 0x0880
abbrev evProtFenced : Nat := 0x0881
abbrev evLayerFault : Nat := 0x0901
abbrev evMonVblank : Nat := 0x0902
abbrev evMonLine : Nat := 0x0903
abbrev evMonDone : Nat := 0x0904
abbrev evMonDraw : Nat := 0x0905
abbrev evMonUnderrun : Nat := 0x0980
abbrev evAudLock : Nat := 0x0A01
abbrev evAudUnderrun : Nat := 0x0A02
abbrev evAudSlip : Nat := 0x0A03
abbrev evAudGlitch : Nat := 0x0A04
abbrev evAudClockLost : Nat := 0x0A80
abbrev evAudRate : Nat := 0x0A81
abbrev evSelftest : Nat := 0x0B01
abbrev evTaskFault : Nat := 0x0B02
abbrev evMemRefresh : Nat := 0x0B03
abbrev evMemCorrected : Nat := 0x0B04
abbrev evUnitFault : Nat := 0x0B05
abbrev evHlthTemp : Nat := 0x0B06
abbrev evUnitRestored : Nat := 0x0B07
abbrev evMemPoison : Nat := 0x0B80
abbrev evMemEvacuate : Nat := 0x0B81
abbrev evUnitRetired : Nat := 0x0B82
abbrev evThermalShutdown : Nat := 0x0B83
abbrev evFwWritten : Nat := 0x0C01

/-- The channel field of an event that names no channel (R126). -/
abbrev noChan : Nat := 0xFFFF

end Sys2Proof.Machine
end

