-- ==== Sys2Proof/Machine/Ops.lean ====
section
/-! DEFINITION. Machine/Ops.lean: the named operations over tables, memories, time, events and the
register fields that every family of commands shares. -/

namespace Sys2Proof.Machine

/-- The answer of a meaning. -/
abbrev Out := Host.Outcome State Fault Refusal

/-! ### Tables -/

/-- The entry at an index, if the table lists one. -/
def tabGet? {α : Type} : Tab α → Nat → Option α
  | [], _ => none
  | (i, a) :: t, k => if i = k then some a else tabGet? t k

/-- The entry at an index, or the table's default. -/
def tabGet {α : Type} (d : α) (t : Tab α) (k : Nat) : α := (tabGet? t k).getD d

/-- Writes an entry, keeping the indices rising. -/
def tabSet {α : Type} : Tab α → Nat → α → Tab α
  | [], k, a => [(k, a)]
  | (i, b) :: t, k, a =>
    if k < i then (k, a) :: (i, b) :: t
    else if k = i then (k, a) :: t
    else (i, b) :: tabSet t k a

/-- Removes an entry. -/
def tabErase {α : Type} (t : Tab α) (k : Nat) : Tab α := t.filter fun e => e.1 ≠ k

/-- Changes one entry by a function. -/
def tabMod {α : Type} (d : α) (t : Tab α) (k : Nat) (f : α → α) : Tab α :=
  tabSet t k (f (tabGet d t k))

/-! ### Byte memories -/

/-- What an unlisted byte of a memory reads as (assumption log 4). -/
def memDefault : Byte := 0

/-- One byte of a memory (DESIGN CHOICE, assumption log 4). -/
def memRead : Mem → Nat → Byte
  | [], _ => memDefault
  | (i, b) :: t, a => if i = a then b else memRead t a

/-- Writes one byte, keeping the canonical form: addresses rise, and writing the value that an unlisted
address reads as removes the entry. -/
def memWrite : Mem → Nat → Byte → Mem
  | [], a, b => if b = memDefault then [] else [(a, b)]
  | (i, c) :: t, a, b =>
    if a < i then (if b = memDefault then (i, c) :: t else (a, b) :: (i, c) :: t)
    else if a = i then (if b = memDefault then t else (a, b) :: t)
    else (i, c) :: memWrite t a b

/-- Writes bytes at successive addresses. -/
def memWrites (m : Mem) (a : Nat) : List Byte → Mem
  | [] => m
  | b :: bs => memWrites (memWrite m a b) (a + 1) bs

/-- Copies a range of one memory to an address of another. -/
def memCopy (src : Mem) (a n : Nat) (dst : Mem) (b : Nat) : Mem :=
  (src.filter fun c => decide (a ≤ c.1 ∧ c.1 < a + n)).foldl (fun m c => memWrite m (c.1 - a + b) c.2)
    (dst.filter fun c => !decide (b ≤ c.1 ∧ c.1 < b + n))

/-- `n` bytes from an address up. -/
def memReads (m : Mem) (a n : Nat) : List Byte := (List.range n).map fun i => memRead m (a + i)

/-- The canonical form: addresses strictly rise from a bound, and no entry holds the default. -/
def memWfFrom : Nat → Mem → Bool
  | _, [] => true
  | lo, (i, b) :: t => decide (lo ≤ i) && decide (b ≠ memDefault) && memWfFrom (i + 1) t

/-- The canonical form of a memory. -/
def memWf (m : Mem) : Bool := memWfFrom 0 m

/-- Bytes as numbers and back. -/
def byteNats (bs : List Byte) : List Nat := bs.map BitVec.toNat
def natBytes (ns : List Nat) : List Byte := ns.map (BitVec.ofNat 8)

/-! ### Time (R146): units of 2^-16 ns -/

/-- Whole nanoseconds as device time. -/
def ns (n : Nat) : Nat := n * 65536

/-- A stamp in quarter nanoseconds, the resolution of R149, as device time. -/
def stampTime (q : Nat) : Nat := q * 16384

/-- Device time in whole TAI nanoseconds. -/
def nowNs (s : State) : Nat := s.tim.now / 65536

/-- The start of the ledger period that holds an instant (R30). -/
def periodOf (t : Nat) : Nat := t / 100000 * 100000

/-! ### RC fields (R546) -/

/-- Adds to both counts of an RC field, saturating. -/
def rcAdd (cap n : Nat) (c : RcCount) : RcCount :=
  { pcie := satAdd cap c.pcie n, cpu := satAdd cap c.cpu n }

/-- What a master reads in an RC field: the debug master sees the control processor's count. -/
def rcSeen (m : Master) (c : RcCount) : Nat := if m = .pcie then c.pcie else c.cpu

/-- The field after a read: only the count of the PCIe master or of the control processor's data port
is cleared, by that master. -/
def rcClear (m : Master) (c : RcCount) : RcCount :=
  match m with
  | .pcie => { c with pcie := 0 }
  | .cpuData => { c with cpu := 0 }
  | _ => c

/-! ### Free values -/

/-- A fresh free number, with the count of free values advanced (DESIGN CHOICE, assumption log 5). -/
def takeFree (s : State) : Nat × State := (Config.freeNat s.free, { s with free := s.free + 1 })

/-- A fresh free choice, with the count of free values advanced (DESIGN CHOICE, assumption log 5). -/
def takeFreeBool (s : State) : Bool × State := (Config.freeBool s.free, { s with free := s.free + 1 })

/-! ### Events (R126, R127) -/

/-- The 16 data bytes of an entry; unused bytes are 0. -/
def eventData (d : List Nat) : List Nat := (d ++ List.replicate 16 0).take 16

/-- The depth of the hardware event FIFO (R99). -/
def fifoDepth : Nat := 512

/-- Numbers an event and enters it in the FIFO, or loses it when the FIFO is full; a lost event uses
its number and is counted (R127). -/
def raiseAt (t code ch : Nat) (d : List Nat) (s : State) : State :=
  let e := s.evt
  if e.fifo.length < fifoDepth then
    { s with evt := { e with
        fifo := e.fifo ++ [{ code := code, channel := ch, seq := e.nextSeq, time := t,
                             data := eventData d }]
        nextSeq := e.nextSeq + 1 } }
  else
    { s with evt := { e with
        nextSeq := e.nextSeq + 1
        lost := rcAdd 65535 1 e.lost
        firstLost := if e.lostPending = 0 then e.nextSeq else e.firstLost
        lostPending := e.lostPending + 1
        lostTotal := e.lostTotal + 1 } }

/-- Raises an event at the present device time. -/
def raise (code ch : Nat) (d : List Nat) (s : State) : State := raiseAt (nowNs s) code ch d s

/-- Raises an event when a condition holds. -/
def raiseIf (b : Bool) (code ch : Nat) (d : List Nat) (s : State) : State :=
  if b then raise code ch d s else s

/-- EV_EVENTS_LOST enters the FIFO once it has space again (R127). -/
def reportLost (s : State) : State :=
  if 0 < s.evt.lostPending ∧ s.evt.fifo.length < fifoDepth then
    let n := s.evt.lostPending
    let f := s.evt.firstLost
    raise evEventsLost noChan (u32 n ++ u32 f)
      { s with evt := { s.evt with lostPending := 0, firstLost := 0 } }
  else s

/-! ### Channels -/

/-- A channel by its handle. -/
def chan (s : State) (h : Nat) : Chan := tabGet Chan.idle s.chans h

def setChan (h : Nat) (c : Chan) (s : State) : State := { s with chans := tabSet s.chans h c }

def modChan (h : Nat) (f : Chan → Chan) (s : State) : State := setChan h (f (chan s h)) s

/-- The channel handles, 0 to 63. -/
def handles : List Nat := List.range 64

/-- Whether a state holds a booking (R57). -/
def booked : ChanState → Bool
  | .idle => false
  | .faulted => false
  | _ => true

/-- Whether a channel runs: STARTING, RUNNING, STOPPING or MIGRATING (R46, R49). -/
def active : ChanState → Bool
  | .starting => true
  | .running => true
  | .stopping => true
  | .migrating => true
  | _ => false

/-- The channels in STARTING, RUNNING, STOPPING or MIGRATING. -/
def activeCount (s : State) : Nat := (handles.filter fun h => active (chan s h).state).length

/-! ### Retired units, HIF and status (R506, R515, R548) -/

def isRetired (s : State) (u : UnitRef) : Bool := s.flt.retired.contains u

/-- Units absent on a VX9-L064, which behave as retired ones (R2). -/
def absentUnit (s : State) : UnitRef → Bool
  | .region r => s.fuses.orderCode = 1 && decide (6 ≤ r.val)
  | .block b => s.fuses.orderCode = 1 && decide (48 ≤ b.val)
  | .cell c => s.fuses.orderCode = 1 && decide (768 ≤ c.val)
  | .controller n => s.fuses.orderCode = 1 && decide (4 ≤ n.val)
  | .fabPort p => s.fuses.orderCode = 1 && decide (4 ≤ p.val)
  | .lane p _ => s.fuses.orderCode = 1 && decide (4 ≤ p.val)
  | _ => false

/-- One unit of each type that a VX9-L064 lacks. -/
def absentSamples : List UnitRef :=
  [.cell 768, .block 48, .region 6, .controller 4, .lane 4 0, .fabPort 4]

/-- RETIRED of HIF_HEALTH: bit k - 1 set when a unit of type k is retired, or absent as a retired one is (R2,
R548). -/
def retiredTypes (s : State) : Nat :=
  bitmap 10 fun k => (s.flt.retired ++ absentSamples.filter (absentUnit s)).any fun u => unitType u = k + 1

/-- The fields of HIF_HEALTH that running firmware writes at each change (R548). -/
def hifSync (s : State) : State :=
  if s.ctl.fwRunning then
    { s with hif := { s.hif with retired := retiredTypes s, channels := activeCount s,
                                 mode := modeCode s.modes.mode } }
  else s

/-! ### Modes (R49 to R51) -/

/-- Raises EV_MODE for a completed transition (R51). -/
def evModeDone (old new : Mode) (s : State) : State :=
  raise evMode noChan (u8 (modeCode old) ++ u8 (modeCode new)) s

/-- A transition that completes immediately. -/
def setModeNow (m : Mode) (s : State) : State :=
  let old := s.modes.mode
  hifSync (evModeDone old m { s with modes := { s.modes with mode := m } })

/-- A transition that takes time: the device is in the target mode at once, and EV_MODE follows at
completion (R50). -/
def beginMode (m : Mode) (s : State) : State :=
  let old := s.modes.mode
  hifSync { s with modes := { s.modes with mode := m, old := old, goal := m, incomplete := true } }

/-! ### Channel states (R58, R59) -/

/-- A channel without its booking (R58). -/
def unbook (c : Chan) : Chan :=
  { c with cost := 0, runs := [], hashBase := none, ingestBudget := 0, codingBudget := 0,
           egressBudget := 0, mirrorBudget := 0, fabBudget := 0 }

/-- A channel after entry to a state: IDLE forgets the configuration, and FAULTED releases the booking. -/
def enterState (st : ChanState) (c : Chan) : Chan :=
  match st with
  | .idle => Chan.idle
  | .faulted => { unbook c with state := .faulted }
  | _ => { c with state := st }

/-- A channel state transition: EV_CHAN_STATE with the old and the new state (R59). -/
def toState (h : Nat) (st : ChanState) (s : State) : State :=
  let old := (chan s h).state
  hifSync (raise evChanState h (u8 (stateCode old) ++ u8 (stateCode st))
    (modChan h (enterState st) s))

/-! ### Egress queue contents -/

/-- Removes the packets that a condition names from every egress queue. -/
def dropPackets (p : Pkt → Bool) (s : State) : State :=
  { s with tmg := { s.tmg with
      queues := s.tmg.queues.map fun e =>
        (e.1, { e.2 with entries := e.2.entries.filter fun k => !p k }) } }

/-- Whether any packet of a channel waits in an egress queue. -/
def hasPackets (p : Pkt → Bool) (s : State) : Bool :=
  s.tmg.queues.any fun e => e.2.entries.any p

/-- Bytes queued: frames without the 20 bytes of preamble, start delimiter and gap (DESIGN CHOICE, assumption
log 46). -/
def queuedBytes (es : List Pkt) : Nat := (es.map fun k => k.lineBytes - 20).sum

/-- Enters a packet at the end of a queue. -/
def pushPkt (n : Nat) (p : Pkt) (s : State) : State :=
  { s with tmg := { s.tmg with queues := tabMod Queue.reset s.tmg.queues n fun q =>
      let es := q.entries ++ [p]
      { q with entries := es, curDepth := max q.curDepth (queuedBytes es) } } }

/-! ### Mailbox claims (R87, R111) -/

def slotOf (s : State) (n : Nat) : Slot := tabGet Slot.free s.mbx.slots n

def setSlot (n : Nat) (x : Slot) (s : State) : State :=
  { s with mbx := { s.mbx with slots := tabSet s.mbx.slots n x } }

/-- A release (R111): CLAIMED and DONE become FREE, BUSY loses its owner and stays BUSY. -/
def releaseSlot (x : Slot) : Slot :=
  if x.state = 2 then { x with owner := none, ownerNode := 0 }
  else { x with owner := none, ownerNode := 0, state := 0 }

/-- Releases the claims that a condition names. -/
def releaseClaims (p : Slot → Bool) (s : State) : State :=
  { s with mbx := { s.mbx with
      slots := s.mbx.slots.map fun e => (e.1, if p e.2 then releaseSlot e.2 else e.2) } }

/-- The master that issues a requester's requests over the bus matrix (R10, R78). -/
def busMaster : MemReader → Option Master
  | .firmware => some .cpuData
  | .bar2 => some .pcie
  | .dma => some .dma
  | _ => none

/-- A request of a burst whose master has been reset (R86): a write goes on with every byte strobe off, a read with its data
discarded. -/
def closeReq (m : Master) (r : MemReq) : MemReq :=
  if busMaster r.reader = some m then
    match r.data with
    | some _ => { r with data := some [] }
    | none => { r with reader := .closed }
  else r

/-- Closes the bursts of a master that wait in the controllers (R86). -/
def closeBursts (m : Master) (s : State) : State :=
  { s with mem := { s.mem with mcs := s.mem.mcs.map fun e =>
      (e.1, { e.2 with queue := e.2.queue.map fun q => { q with req := closeReq m q.req } }) } }

/-- A master's reset (R85 to R87): its bursts close, its reservations clear, and the claims of the path
that it carries are released. -/
def resetMaster (m : Master) (s : State) : State :=
  let s0 := closeBursts m s
  let s1 := { s0 with ctl := { s0.ctl with reservations := s0.ctl.reservations.filter (· ≠ m) } }
  match masterPath m with
  | some p => releaseClaims (fun x => x.owner = some p) s1
  | none => s1

/-! ### The default target (R79) -/

/-- What an error response does to its master: the control processor takes a bus-error exception, debug reads an error
status, the control DMA stops, the mirror engine reports an error. -/
def masterError (m : Master) (c : Ctl) : Ctl :=
  match m with
  | .cpuInstr => { c with cpuFaults := c.cpuFaults + 1 }
  | .cpuData => { c with cpuFaults := c.cpuFaults + 1 }
  | .pcie => c
  | .debug => { c with debugError := true }
  | .dma => { c with dmaBusy := false }
  | .mirror => { c with mirrorErrors := c.mirrorErrors + 1 }

/-- The default target counts an error and captures it when none is held; its response reaches the master. -/
def busError (m : Master) (write : Bool) (addr : BitVec 40) (s : State) : State :=
  let l := s.ctl.errLog
  let l1 := { l with count := rcAdd 65535 1 l.count }
  let l2 := if l.valid then l1
    else { l1 with valid := true, write := write, master := masterCode m, addr := addr }
  { s with ctl := masterError m { s.ctl with errLog := l2 } }

/-- What a register read returned. -/
def returned (v : Nat) (s : State) : State :=
  { s with last := { value := BitVec.ofNat 64 v, abort := false } }

/-- A request that got an error response. -/
def aborted (s : State) : State := { s with last := { value := 0, abort := true } }

/-! ### Units, the fault log and counted events (R500 to R515) -/

/-- Whether device time `t` lies in the 60 s window that ends at `now` (R502). -/
def inWindow (now t : Nat) : Bool := decide (now < t + 60000000000)

/-- The number of counted events of a unit in the window that ends now. -/
def windowCount (s : State) (u : UnitRef) : Nat :=
  (s.flt.counts.filter fun e => e.1 = u && inWindow (nowNs s) e.2).length

/-- Logs an entry (R512, R513) and answers its index beside the state. -/
def logFault (code uType unit count ch addr : Nat) (detail : List Nat) (s : State) : Nat × State :=
  let i := s.flt.nextIndex
  let e : LogEntry :=
    { index := i, code := code, unitType := uType, unit := unit, count := count, channel := ch,
      powerOn := s.flt.powerOns, time := nowNs s, address := addr, detail := detail,
      fwVersion := s.hif.fwVersion }
  (i, { s with flt := { s.flt with log := s.flt.log ++ [e], nextIndex := i + 1 } })

/-- Whether the third counted event in 60 s makes a unit of this type permanent (R502). -/
def countsToThree : UnitRef → Bool
  | .fabPort _ => false
  | .control => false
  | .lane _ l => decide (l.val ≠ 4)
  | _ => true

/-- The order of R505 at one device time: by type, then by number. -/
def unitKey (u : UnitRef) : Nat := unitType u * 4096 + unitNumber u

/-- Enters a retirement in the order of the events' device times, at equal times by type and number (R505). -/
def insertDue (e : UnitRef × Nat × Nat) : List (UnitRef × Nat × Nat) → List (UnitRef × Nat × Nat)
  | [] => [e]
  | x :: xs =>
    if e.2.2 < x.2.2 ∨ (e.2.2 = x.2.2 ∧ unitKey e.1 < unitKey x.1) then e :: x :: xs else x :: insertDue e xs

/-- A unit that becomes permanent waits for its retirement, or is held out of new work while a restart
runs (R100, R505). The cause is that of EV_UNIT_RETIRED: 1 threshold, 2 self-test, 3 immediate. -/
def becomePermanent (u : UnitRef) (cause : Nat) (s : State) : State :=
  if isRetired s u ∨ s.flt.due.any (fun e => e.1 = u) then s
  else
    { s with flt := { s.flt with
        due := insertDue (u, cause, nowNs s) s.flt.due
        heldOut := if s.ctl.restart.active then s.flt.heldOut ++ [u] else s.flt.heldOut } }

/-- An unrecoverable event counted against a unit: logged, reported in EV_UNIT_FAULT, and permanent at
the third in 60 s (R500, R502, R520). -/
def countFault (u : UnitRef) (code ch addr : Nat) (s : State) : State :=
  let s1 := { s with flt := { s.flt with counts := s.flt.counts ++ [(u, nowNs s)] } }
  let n := windowCount s1 u
  let d := u8 (unitType u) ++ u8 n ++ u16 (unitNumber u) ++ u8 code ++ [0, 0, 0]
  let (i, s2) := logFault code (unitType u) (unitNumber u) n ch addr d s1
  let s3 := raise evUnitFault noChan (d ++ u32 i) s2
  if countsToThree u ∧ 3 ≤ n then becomePermanent u 1 s3 else s3

/-! ### Faults of channels (R59, R65, R66) -/

/-- The packets of a channel. -/
def ofChan (h : Nat) (k : Pkt) : Bool := decide (k.chan = h)

/-- Entry to FAULTED by a fault that no shadow can cover: every packet not yet launched is discarded,
and EV_CHAN_FAULT carries the log index (R59, R65). -/
def chanFault (h : Nat) (s : State) : State :=
  let (i, s1) := logFault 18 0 0 0 h 0 [] s
  let s2 := toState h .faulted (dropPackets (ofChan h) s1)
  raise evChanFault h (u32 i) s2

/-! ### Stops of launches (R103, R528, R529) -/

/-- PRT stops every launch and every lease renewal at once. -/
def stopLaunches (s : State) : State := { s with prt := { s.prt with stopped := true } }

end Sys2Proof.Machine
end

