-- ==== Sys2Proof/Machine/Capacity.lean ====
section
/-! DEFINITION. Machine/Capacity.lean: enabled units, capacity and its recount (R22 to R27, R36 to R38,
R42 to R45), pipeline groups, slice layouts, placement (R237 to R242), and the budgets of R356. -/

namespace Sys2Proof.Machine

/-! ### Enabled units (R2, R6, R506) -/

/-- A unit that is fitted and neither retired nor held out. -/
def inService (s : State) (u : UnitRef) : Bool :=
  !(absentUnit s u || isRetired s u || s.flt.heldOut.contains u)

def regionOn (s : State) (r : Nat) : Bool := inService s (.region (Fin.ofNat 8 r)) && decide (r < 8)
def blockOn (s : State) (b : Nat) : Bool :=
  regionOn s (b / 8) && inService s (.block (Fin.ofNat 64 b))
def cellOn (s : State) (c : Nat) : Bool :=
  blockOn s (c / 16) && inService s (.cell (Fin.ofNat 1024 c))
def mcOn (s : State) (n : Nat) : Bool :=
  s.mem.trained.contains n && inService s (.controller (Fin.ofNat 8 n))
def fabOn (s : State) (p : Nat) : Bool := inService s (.fabPort (Fin.ofNat 8 p))
def mediaOn (s : State) (p : Nat) : Bool := inService s (.mediaPort (Fin.ofNat 2 p))
def sdiOn (s : State) (p : Nat) : Bool := inService s (.sdiPort (Fin.ofNat 8 p))
def sapOn (s : State) (p : Nat) : Bool := inService s (.audioPort (Fin.ofNat 8 p))

/-- Cells of a region that are not retired. -/
def cellCount (s : State) (r : Nat) : Nat :=
  ((List.range 128).filter fun i => cellOn s (r * 128 + i)).length

/-- A region's contribution: floor(1,200 × c / 128), and 0 when its pipeline is retired (R25). -/
def regionLu (s : State) (r : Nat) : Nat := if regionOn s r then 1200 * cellCount s r / 128 else 0

/-- The module's total (R25, R5). -/
def luTotal (s : State) : Nat := ((List.range 8).map (regionLu s)).sum

/-- The booking limit, floor(7 × total / 8) (R26). -/
def luLimit (s : State) : Nat := 7 * luTotal s / 8

/-- The takeover-and-retry reserve (R26). -/
def luReserve (s : State) : Nat := luTotal s - luLimit s

/-- The LU booked by every channel but one (R58). -/
def luBookedBut (s : State) (h : Nat) : Nat :=
  ((handles.filter fun i => i ≠ h && booked (chan s i).state).map fun i => (chan s i).cost).sum

/-- The LU booked by all channels. -/
def luBooked (s : State) : Nat :=
  ((handles.filter fun i => booked (chan s i).state).map fun i => (chan s i).cost).sum

/-- The enabled controllers. -/
def mcCount (s : State) : Nat := ((List.range 8).filter (mcOn s)).length

/-- 80 % of the memory peak of the enabled controllers (R36). -/
def memPart (s : State) : Nat := mcCount s * 40960000 * 8 / 10

/-- Activity 259's budget: one-tenth of the bookable memory (R36). -/
def retryBudget (s : State) : Nat := memPart s / 10

/-- Memory left for channel activities (R36). -/
def memBookable (s : State) : Nat :=
  memPart s - 524288 - 1048576 - 4194304 - retryBudget s

/-- A channel's memory budgets (R356). -/
def chanMem (c : Chan) : Nat := c.ingestBudget + c.codingBudget + c.egressBudget + c.mirrorBudget

def memBookedBut (s : State) (h : Nat) : Nat :=
  ((handles.filter fun i => i ≠ h && booked (chan s i).state).map fun i => chanMem (chan s i)).sum

def memBooked (s : State) : Nat :=
  ((handles.filter fun i => booked (chan s i).state).map fun i => chanMem (chan s i)).sum

/-- A port by its number. -/
def fport (s : State) (p : Nat) : FPort := tabGet FPort.reset s.fab.ports p

def setFport (p : Nat) (x : FPort) (s : State) : State :=
  { s with fab := { s.fab with ports := tabSet s.fab.ports p x } }

/-- Active lanes of a port. -/
def activeLanes (f : FPort) : Nat := (f.lanes.filter fun l => l.active).length

/-- A port's peak per period: 800,000 bytes at four lanes, halved at two and again at one (R36). -/
def portPeak (f : FPort) : Nat :=
  if 4 ≤ activeLanes f then 800000 else if 2 ≤ activeLanes f then 400000
  else if 1 ≤ activeLanes f then 200000 else 0

/-- A port's bookable bytes per period: 90 % of its peak; 0 on a port out of service (R36, R506). -/
def fabBookable (s : State) (p : Nat) : Nat := if fabOn s p then portPeak (fport s p) * 9 / 10 else 0

/-! ### Cost (R22 to R24) -/

/-- Four times the codec factor of R23; work 0 encodes, 1 decodes. -/
def factor4 (c : Codec) (work : Nat) : Nat :=
  match c, work with
  | .hevc, 0 => 4
  | .hevc, _ => 2
  | .vvc, 0 => 8
  | .vvc, _ => 3
  | .avc, 0 => 4
  | .avc, _ => 2
  | .jpegxs, 0 => 2
  | .jpegxs, _ => 1

/-- The cost of one work, rounded up (R22). -/
def workCost (f4 w h num den : Nat) : Nat := ceilDiv (w * h * num * f4) (den * 8000000)

/-- A coded picture's height: the field height for an interlaced channel (R231). -/
def picHeight (c : ChanCfg) : Nat := if c.interlaced then c.height / 2 else c.height

/-- The picture rate's numerator: the field rate for an interlaced channel (R231). -/
def picNum (c : ChanCfg) : Nat := if c.interlaced then 2 * c.rateNum else c.rateNum

/-- The input's coded size, for the decode work of a transcode (R24). -/
structure InSize where
  width : Nat
  height : Nat
  num : Nat
  den : Nat
  deriving DecidableEq, Repr

/-- The size at which a channel decodes: the input format in a transcode, else its own (DEDUCED, assumption log
37). -/
def decodeSize (c : ChanCfg) (f : Option Format) : InSize :=
  match c.role, f with
  | .transcode, some f =>
    if f.scan = 0 then { width := f.width, height := f.height, num := f.rateNum, den := f.rateDen }
    else { width := f.width, height := f.height / 2, num := 2 * f.rateNum, den := f.rateDen }
  | _, _ => { width := c.width, height := picHeight c, num := picNum c, den := c.rateDen }

def encodeCost (c : ChanCfg) : Nat :=
  workCost (factor4 c.codec 0) c.width (picHeight c) (picNum c) c.rateDen

def decodeCost (c : ChanCfg) (f : Option Format) : Nat :=
  let z := decodeSize c f
  workCost (factor4 (if c.role = .transcode then c.inCodec else c.codec) 1) z.width z.height z.num z.den

/-- A channel's cost: the sum of its works' costs (R24). -/
def chanCost (c : ChanCfg) (f : Option Format) : Nat :=
  match c.role with
  | .encode => encodeCost c
  | .gateway => decodeCost c f
  | .transcode => decodeCost c f + encodeCost c
  | .shadow => encodeCost c

/-! ### Slice layout, bands and needs (R235, R237 to R239) -/

/-- Height of a CTU: 64 lines in HEVC and VVC, 16 in AVC and JPEG XS (R235). -/
def ctuLines : Codec → Nat
  | .hevc => 64
  | .vvc => 64
  | .avc => 16
  | .jpegxs => 16

/-- Deals `n` rows out to `k` parts, the earlier ones taking the extra rows (R238). -/
def deal (n k : Nat) : List Nat := (List.range k).map fun i => n / k + if i < n % k then 1 else 0

/-- What one work of a channel codes: the group is derived from it. -/
structure Work where
  kind : Nat
  codec : Codec
  width : Nat
  height : Nat
  num : Nat
  den : Nat
  slices : Nat
  deriving DecidableEq, Repr

def ctuRows (w : Work) : Nat := ceilDiv w.height (ctuLines w.codec)

/-- CTU rows of each band in a group of `g`. -/
def bandRows (w : Work) (g : Nat) : List Nat := deal (ctuRows w) g

/-- CTU rows of each slice, band by band (R238). -/
def sliceRows (w : Work) (g : Nat) : List (List Nat) :=
  (bandRows w g).map fun b => deal b (w.slices / g)

/-- Luma samples of CTU rows `[a, b)`; the last row counts its lines inside the picture. -/
def lumaOf (w : Work) (a b : Nat) : Nat :=
  w.width * (min w.height (b * ctuLines w.codec) - min w.height (a * ctuLines w.codec))

/-- Frame cycle cost: ceil(luma samples × codec factor / 2) (R33). -/
def cycleCost (w : Work) (luma : Nat) : Nat := ceilDiv (luma * factor4 w.codec w.kind) 8

/-- The need of a frame cycle cost in granules of 1/256 LU (R239). -/
def needOf (w : Work) (cyc : Nat) : Nat := ceilDiv (256 * cyc * w.num) (1000000 * w.den)

/-- Start row of each part of a list of row counts. -/
def starts : Nat → List Nat → List (Nat × Nat)
  | _, [] => []
  | a, n :: ns => (a, n) :: starts (a + n) ns

/-- Frame cycle cost of each band. -/
def bandCosts (w : Work) (g : Nat) : List Nat :=
  (starts 0 (bandRows w g)).map fun p => cycleCost w (lumaOf w p.1 (p.1 + p.2))

/-- Adds to the first element. -/
def addFirst (n : Nat) : List Nat → List Nat
  | [] => []
  | a :: as => (a + n) :: as

/-- Band shares in granules, the surplus with band 0; none when the surplus would be negative (R239). -/
def bandShares (w : Work) (g : Nat) : Option (List Nat) :=
  let needs := (bandCosts w g).map (needOf w)
  let total := 256 * workCost (factor4 w.codec w.kind) w.width w.height w.num w.den
  if total < needs.sum then none else some (addFirst (total - needs.sum) needs)

/-- A pipeline's granules: 1,200 LU. -/
def pipeGranules : Nat := 307200

/-- Whether a group size divides SLICES and keeps every band's share within 1,200 LU (R237). -/
def groupFits (w : Work) (g : Nat) : Bool :=
  decide (w.slices % g = 0) &&
    match bandShares w g with
    | some l => l.all fun x => decide (x ≤ pipeGranules)
    | none => false

/-- The group size: the one set, or the smallest of 1, 2 and 4 that fits (R237). -/
def groupOf (w : Work) (set : Nat) : Option Nat :=
  if set = 0 then [1, 2, 4].find? (groupFits w)
  else if groupFits w set then some set else none

/-- Default SLICES (R238). -/
def defaultSlices (height : Nat) : Nat := if 2160 < height then 16 else if 1088 < height then 8 else 4

/-- The works of a channel in placement order: decode, then encode (R237). -/
def worksOf (c : ChanCfg) (f : Option Format) : List (Work × Nat) :=
  let enc : Work := { kind := 0, codec := c.codec, width := c.width, height := picHeight c,
                      num := picNum c, den := c.rateDen, slices := c.slices }
  let z := decodeSize c f
  let dec : Work :=
    { kind := 1, codec := if c.role = .transcode then c.inCodec else c.codec, width := z.width,
      height := z.height, num := z.num, den := z.den,
      slices := if c.role = .transcode then defaultSlices z.height else c.slices }
  match c.role with
  | .encode => [(enc, c.groupSize)]
  | .shadow => [(enc, c.groupSize)]
  | .gateway => [(dec, c.groupSize)]
  | .transcode => [(dec, 0), (enc, c.groupSize)]

/-! ### Placement (R240, R243) -/

/-- Granules used on a pipeline by the channels but one. -/
def usedBut (s : State) (h p : Nat) : Nat :=
  ((handles.filter fun i => i ≠ h).map fun i =>
    (((chan s i).runs.filter fun r => r.pipe = p).map BandRun.share).sum).sum

/-- Channels but one that a pipeline carries. -/
def carriedBut (s : State) (h p : Nat) : Nat :=
  (handles.filter fun i => i ≠ h && (chan s i).runs.any fun r => r.pipe = p).length

/-- Whether a pipeline qualifies for a share of channel `h` beside runs already placed for it. -/
def qualifies (s : State) (h : Nat) (mine : List BandRun) (share p : Nat) : Bool :=
  let my := ((mine.filter fun r => r.pipe = p).map BandRun.share).sum
  regionOn s p && decide (usedBut s h p + my + share ≤ pipeGranules) &&
    (decide (carriedBut s h p < 16) || mine.any fun r => r.pipe = p)

/-- The lowest qualifying pipeline at or above one. -/
def nextFit (ok : Nat → Nat → Bool) (share lo : Nat) : Option Nat :=
  (List.range 8).find? fun p => decide (lo ≤ p) && ok share p

/-- Places the later bands, each on the next qualifying pipeline above the one before. -/
def placeRest (ok : Nat → Nat → Bool) : List Nat → Nat → Option (List Nat)
  | [], _ => some []
  | n :: ns, lo =>
    match nextFit ok n lo with
    | some p => (placeRest ok ns (p + 1)).map (p :: ·)
    | none => none

/-- Places a group: band 0 on the lowest pipeline from which the later bands find places (R240). -/
def placeGroup (ok : Nat → Nat → Bool) : List Nat → Option (List Nat)
  | [] => some []
  | n :: ns =>
    (List.range 8).findSome? fun p =>
      if ok n p then (placeRest ok ns (p + 1)).map (p :: ·) else none

/-- The runs of one work, placed. -/
def placeWork (s : State) (h : Nat) (mine : List BandRun) (w : Work) (set : Nat) :
    Option (List BandRun) :=
  match groupOf w set with
  | none => none
  | some g =>
    match bandShares w g with
    | none => none
    | some shares =>
      match placeGroup (qualifies s h mine) shares with
      | none => none
      | some pipes =>
        let costs := bandCosts w g
        some ((List.range g).map fun b =>
          { work := w.kind, band := b, pipe := pipes.getD b 0, share := shares.getD b 0,
            frameCost := costs.getD b 0, firstSlice := b * (w.slices / g), nSlices := w.slices / g,
            whole := true })

/-- The runs of all works of a channel, the decode group first. -/
def placeWorks (s : State) (h : Nat) : List BandRun → List (Work × Nat) → Option (List BandRun)
  | mine, [] => some mine
  | mine, (w, set) :: rest =>
    match placeWork s h mine w set with
    | some rs => placeWorks s h (mine ++ rs) rest
    | none => none

/-- The bitmap of the pipelines that carry a channel. -/
def pipeMap (rs : List BandRun) : Nat := bitmap 8 fun p => rs.any fun r => r.pipe = p

/-! ### Re-placement after a retirement (R242) -/

/-- A slice's share: its own need, without surplus. -/
def sliceShare (w : Work) (g : Nat) (i : Nat) : Nat :=
  let p := ((starts 0 (sliceRows w g).flatten).getD i (0, 0))
  needOf w (cycleCost w (lumaOf w p.1 (p.1 + p.2)))

def sliceCost (w : Work) (g : Nat) (i : Nat) : Nat :=
  let p := ((starts 0 (sliceRows w g).flatten).getD i (0, 0))
  cycleCost w (lumaOf w p.1 (p.1 + p.2))

/-- A run of slices on a pipeline. -/
def runOf (w : Work) (g work band p first n : Nat) : BandRun :=
  { work := work, band := band, pipe := p,
    share := ((List.range n).map fun i => sliceShare w g (first + i)).sum,
    frameCost := ((List.range n).map fun i => sliceCost w g (first + i)).sum,
    firstSlice := first, nSlices := n, whole := false }

/-- Groups consecutive numbers: first and count. -/
def consecutive : List Nat → List (Nat × Nat)
  | [] => []
  | a :: as =>
    match consecutive as with
    | (b, n) :: rest => if b = a + 1 then (a, n + 1) :: rest else (a, 1) :: (b, n) :: rest
    | [] => [(a, 1)]

/-- Opens runs over lost slices, taking them in order: each run on the lowest qualifying pipeline whose
free share covers the next slice, extended while it covers the slice after (R242 step 2). `cur` is the
run in progress. -/
def splitRuns (s : State) (h : Nat) (w : Work) (g work band : Nat) :
    List BandRun → Option BandRun → List Nat → Option (List BandRun)
  | mine, cur, [] => some (mine ++ cur.toList)
  | mine, cur, i :: is =>
    match cur with
    | some r =>
      if r.firstSlice + r.nSlices = i ∧
          qualifies s h mine (r.share + sliceShare w g i) r.pipe = true then
        splitRuns s h w g work band mine (some (runOf w g work band r.pipe r.firstSlice (r.nSlices + 1))) is
      else
        match nextFit (qualifies s h (mine ++ [r])) (sliceShare w g i) 0 with
        | some p => splitRuns s h w g work band (mine ++ [r]) (some (runOf w g work band p i 1)) is
        | none => none
    | none =>
      match nextFit (qualifies s h mine) (sliceShare w g i) 0 with
      | some p => splitRuns s h w g work band mine (some (runOf w g work band p i 1)) is
      | none => none

/-- Re-places the lost part of one band: whole on one pipeline, else divided into runs (R242). `mine`
are the channel's other runs. -/
def replaceBand (s : State) (h : Nat) (w : Work) (g band : Nat) (lost mine : List BandRun) :
    Option (List BandRun) :=
  match lost with
  | [] => some mine
  | r :: _ =>
    let slices := (lost.map fun r => (List.range r.nSlices).map (r.firstSlice + ·)).flatten
    let share := if r.whole then r.share else (slices.map (sliceShare w g)).sum
    match nextFit (qualifies s h mine) share 0 with
    | some p =>
      if r.whole then some (mine ++ [{ r with pipe := p }])
      else some (mine ++ (consecutive slices).map fun e => runOf w g r.work band p e.1 e.2)
    | none => splitRuns s h w g r.work band mine none slices

/-- Re-places a channel's bands on pipelines that have left service, in ascending order of band. -/
def replaceChan (s : State) (h : Nat) (ws : List (Work × Nat)) (c : Chan) : Option (List BandRun) :=
  let onDead (r : BandRun) : Bool := !regionOn s r.pipe
  let kept := c.runs.filter fun r => !onDead r
  ws.foldl (fun acc wg =>
    match acc with
    | none => none
    | some mine =>
      let g := (groupOf wg.1 wg.2).getD 1
      (List.range g).foldl (fun acc b =>
        match acc with
        | none => none
        | some mine => replaceBand s h wg.1 g b
            (c.runs.filter fun r => onDead r && r.work = wg.1.kind && r.band = b) mine) (some mine))
    (some kept)

/-- The format of a channel's input. -/
def chanFormat (s : State) (c : ChanCfg) : Option Format :=
  match tabGet? s.inputs c.input with
  | some i => i.format <|> c.inFormat
  | none => none

/-- Re-places every channel that had bands on a removed pipeline, in ascending order of handle. Answers whether
all found a place; a channel that did not keeps its runs (DESIGN CHOICE, assumption log 62). -/
def replaceAll (s : State) : Bool × State :=
  handles.foldl (fun acc h =>
    let c := chan acc.2 h
    if booked c.state ∧ c.runs.any (fun r => !regionOn acc.2 r.pipe) = true then
      match c.cfg with
      | none => acc
      | some cfg =>
        match replaceChan acc.2 h (worksOf cfg (chanFormat acc.2 cfg)) c with
        | some rs => (acc.1, setChan h { c with runs := rs } acc.2)
        | none => (false, acc.2)
    else acc) (true, s)

/-! ### Motion hash table units (R248, R249) -/

/-- The bound E on a picture's hash entries (R249). -/
def hashBound (c : ChanCfg) : Nat :=
  if c.hashSearch then (c.width / c.hashGrid) * (picHeight c / c.hashGrid) else 0

/-- The smallest power of two from 1 to 128 that is at least n. -/
def pow2Up (n : Nat) : Nat := ([1, 2, 4, 8, 16, 32, 64].find? fun k => decide (n ≤ k)).getD 128

/-- HASH_UNITS with 0 resolved (R249). -/
def hashUnitsOf (c : ChanCfg) : Nat :=
  if !c.hashSearch then 0
  else if c.hashUnits = 0 then pow2Up (ceilDiv (hashBound c * 2) 65536) else c.hashUnits

/-- The lowest base of `n` consecutive free units of the 256, beside the partitions of others. -/
def hashPlace (s : State) (h n : Nat) : Option Nat :=
  let taken : List (Nat × Nat) := (handles.filter fun i => i ≠ h).filterMap fun i =>
    match (chan s i).hashBase, (chan s i).cfg with
    | some b, some c => some (b, hashUnitsOf c)
    | _, _ => none
  (List.range 257).find? fun b =>
    decide (b + n ≤ 256) && taken.all fun t => decide (b + n ≤ t.1) || decide (t.1 + t.2 ≤ b)

/-! ### Memory budgets (R356) -/

/-- Bytes of one line with a number of samples per pixel, padded to 64 (R194). -/
def lineBytes (w spp depth : Nat) : Nat := roundUp (ceilDiv (w * spp * depth) 8) 64

/-- Bytes of a packed picture (R194): chroma 1 is 4:2:0, 2 is 4:2:2, 3 is 4:4:4. -/
def packedBytes (w h chroma depth : Nat) : Nat :=
  if chroma = 1 then ceilDiv h 2 * lineBytes w 2 depth + h / 2 * lineBytes w 1 depth
  else if chroma = 2 then h * lineBytes w 2 depth
  else h * lineBytes w 3 depth

/-- Units of one reference picture in both planes (R255): the chroma plane interleaves Cb and Cr. -/
def refUnits (w h chroma : Nat) : Nat :=
  let luma := ceilDiv w 64 * ceilDiv h 4
  let cw := if chroma = 3 then 2 * w else w
  let ch := if chroma = 1 then h / 2 else h
  luma + ceilDiv cw 64 * ceilDiv ch 4

/-- The reserved size of one reference picture: 512 × units + units / 2. -/
def refBytes (w h chroma : Nat) : Nat := 512 * refUnits w h chroma + ceilDiv (refUnits w h chroma) 2

/-- 1.25 times bytes per second (as a fraction a / b), times 100 us, rounded up to 64 (R356). -/
def budgetOf (a b : Nat) : Nat := roundUp (ceilDiv (a * 125) (b * 1000000)) 64

/-- The coding budget of the encode work. -/
def encodeBudget (c : ChanCfg) (sIn : Nat) : Nat :=
  let h := picHeight c
  let src := packedBytes c.width h c.chroma c.bitDepth
  let ref := refBytes c.width h c.chroma
  let perPic2 := 4 * src + ref * (2 + 3 * c.refFrames) + 48 * hashBound c +
    (if c.latency = .lookahead then 4 * sIn else 0)
  budgetOf (picNum c * perPic2) (c.rateDen * 2)

/-- The coding budget of the decode work: four reference pictures and twice the stream's rate, whose bits per second are
`streamNum` over `den`. -/
def decodeBudget (w h chroma num den streamNum : Nat) : Nat :=
  budgetOf (num * refBytes w h chroma * 4 * 4 + streamNum) (den * 4)

/-- The egress budget: PEAK / 8 × M0 / 8 × legs; PEAK counts as 8 for JPEG XS (R300). -/
def egressBudgetOf (c : ChanCfg) (legs : Nat) : Nat :=
  let peak := if c.codec = .jpegxs then 8 else c.peak
  budgetOf (peak * c.maxBitrate * legs) 64

/-- A gateway decode's egress budget: Q × S_out × legs. -/
def gatewayEgress (c : ChanCfg) (legs : Nat) : Nat :=
  budgetOf (picNum c * packedBytes c.width (picHeight c) c.chroma c.bitDepth * legs) c.rateDen

/-- The fabric budget of a mirror activity (R38): the larger of 1.25 times the average bytes per period
and twice the average slice record, rounded up to 64. A slice record holds its bits, 264 bytes of
checkpoint and digest, and 20 bytes for each packet of 1,024 payload bytes and the record packet. -/
def mirrorBudgetOf (c : ChanCfg) : Nat :=
  let perSec := picNum c * c.slices
  let rateBytes := c.bitrate / 8
  let sliceBytes := ceilDiv (rateBytes * c.rateDen) perSec
  let record := sliceBytes + 264 + 20 * (ceilDiv sliceBytes 1024 + 1)
  let avg := ceilDiv (record * perSec * 125) (c.rateDen * 1000000)
  roundUp (max avg (2 * record)) 64

end Sys2Proof.Machine
end

