-- ==== Sys2Proof/Machine/Operands.lean ====
section
/-! DEFINITION. Machine/Operands.lean: the forms of requests. The table of opcodes with their paths,
modes and TLVs (R132 to R139), the checks of R117 up to mode and channel state, answering a request
(R110 to R118), and the layouts of the TLV values that commands carry. -/

namespace Sys2Proof.Machine

/-! ### Opcodes (R132, R137 to R139) -/

/-- What the opcode tables say of one opcode: `tags` the known TLVs with their sizes, `req` those that
must be present, `rep` those that may repeat. -/
structure CmdSpec where
  opcode : Nat
  modes : List Mode
  names : Bool
  tags : List (Nat × Nat)
  req : List Nat
  rep : List Nat
  deriving DecidableEq, Repr

def allModes : List Mode := [.boot, .service, .dormant, .ready, .operate, .drain]
def notBoot : List Mode := [.service, .dormant, .ready, .operate, .drain]

/-- A row of the tables: TLV indices are given with the group's code added. -/
def cmd (opcode : Nat) (modes : List Mode) (names : Bool) (tags : List (Nat × Nat))
    (req : List Nat) (rep : List Nat) : CmdSpec :=
  { opcode := opcode, modes := modes, names := names, tags := tags, req := req, rep := rep }

def sDevInfo := cmd 0x0101 allModes false [] [] []
def sDevMode := cmd 0x0102 notBoot false [(0x0109, 1), (0x010A, 1), (0x010B, 2)] [0x0109] []
def sDevCapacity := cmd 0x0103 allModes false [] [] []
def sDevLedger :=
  cmd 0x0104 [.ready, .operate, .drain] false [(0x0120, 2), (0x0121, 2)] [0x0120, 0x0121] []
def sDevAlloc := cmd 0x0105 [.ready, .operate, .service] false [(0x0130, 8)] [0x0130] []
def sDevFree := cmd 0x0106 [.ready, .operate, .service] false [(0x0131, 4)] [0x0131] []
def sDevRestart := cmd 0x0107 [.ready, .operate, .service, .drain] false [] [] []
def sDevReset := cmd 0x0108 allModes false [] [] []
def sDevMgmt := cmd 0x0109 allModes false
  [(0x0140, 4), (0x0141, 4), (0x0142, 2), (0x0143, 32), (0x0144, 8)] [] []
def sDevPort := cmd 0x010A [.ready, .operate, .dormant] false
  [(0x0150, 1), (0x0151, 1), (0x0152, 1)] [0x0150, 0x0151, 0x0152] []
def sDevGpio := cmd 0x010B notBoot false [(0x0160, 4), (0x0161, 4), (0x0162, 4)]
  [0x0160, 0x0161, 0x0162] []

/-- The TLVs of CHAN.CONFIGURE (R137, R246, R298). -/
def chanTags : List (Nat × Nat) :=
  [(0x0201, 1), (0x0202, 1), (0x0203, 1), (0x0204, 1), (0x0205, 2), (0x0206, 2), (0x0207, 4),
   (0x0208, 4), (0x0209, 1), (0x020A, 1), (0x020B, 1), (0x020C, 8), (0x020D, 1), (0x020E, 1),
   (0x020F, 1), (0x0210, 8), (0x0211, 8), (0x0212, 8), (0x0213, 4), (0x0214, 2), (0x0215, 2),
   (0x0216, 1), (0x0217, 2), (0x021A, 1), (0x021B, 2), (0x021C, 1)] ++
  [(0x0240, 1), (0x0241, 1), (0x0242, 1), (0x0243, 1), (0x0244, 1), (0x0245, 1), (0x0246, 1),
   (0x0247, 1), (0x0248, 2), (0x0249, 1), (0x024A, 1), (0x024B, 1), (0x024C, 1), (0x024D, 4),
   (0x024E, 28), (0x024F, 1), (0x0250, 1), (0x0280, 1), (0x0281, 1), (0x0282, 1), (0x0283, 1)]

def chanReq : List Nat :=
  [0x0201, 0x0202, 0x0203, 0x0204, 0x0205, 0x0206, 0x0207, 0x0208, 0x0209, 0x020A, 0x020B, 0x020C,
   0x0214, 0x0215]

/-- The modes in which R63 and R55 take a CHAN command; the channel's state decides further. -/
def chanModes : List Mode := [.ready, .operate, .drain]

def sChanConfigure := cmd 0x0201 [.ready, .operate, .dormant] true chanTags chanReq [0x0215]
def sChanStart := cmd 0x0202 [.ready, .operate] true [(0x0220, 8)] [] []
def sChanStop := cmd 0x0203 chanModes true [(0x0221, 8), (0x0222, 1)] [] []
def sChanModify := cmd 0x0204 chanModes true
  [(0x0210, 8), (0x0211, 8), (0x0216, 1), (0x0213, 4), (0x021B, 2), (0x0223, 12), (0x0224, 8)] [] []
def sChanClear := cmd 0x0205 [.ready, .operate, .drain, .dormant] true [] [] []
def sChanStatus := cmd 0x0206 chanModes true [] [] []
def sChanKey := cmd 0x0207 chanModes true [] [] []

def sInConfigure := cmd 0x0301 notBoot false
  [(0x0301, 2), (0x0302, 1), (0x0303, 1), (0x0304, 1), (0x0305, 24), (0x0306, 24), (0x0307, 1),
   (0x0308, 1), (0x0309, 4), (0x030A, 8)] [0x0301, 0x0302] [0x0305, 0x030A]
def sInClear := cmd 0x0302 notBoot false [(0x0301, 2)] [0x0301] []
def sInStatus := cmd 0x0303 notBoot false [(0x0301, 2)] [0x0301] []
def sInPolice := cmd 0x0304 notBoot false [(0x0320, 2), (0x0321, 32)] [0x0320, 0x0321] []
def sOutConfigure := cmd 0x0401 notBoot false
  [(0x0401, 2), (0x0402, 1), (0x0403, 1), (0x0404, 24), (0x0405, 1), (0x0406, 16), (0x0408, 4),
   (0x040A, 8)] [0x0401, 0x0402] [0x0404]
def sOutClear := cmd 0x0402 notBoot false [(0x0401, 2)] [0x0401] []
def sOutStatus := cmd 0x0403 notBoot false [(0x0401, 2)] [0x0401] []

def sPixConfigure := cmd 0x0501 notBoot true
  [(0x0501, 1), (0x0502, 1), (0x0503, 1), (0x0504, 8), (0x0505, 1), (0x0506, 1), (0x0507, 1),
   (0x0508, 1), (0x0509, 2), (0x050A, 1)] [] []
def sPixLoad := cmd 0x0502 notBoot false [(0x0520, 1), (0x0521, 4), (0x0522, 1)]
  [0x0520, 0x0521, 0x0522] []

/-- The layer TLVs of R217 from a tag up. -/
def layerTags (t : Nat) : List (Nat × Nat) :=
  [(t, 1), (t + 1, 4), (t + 2, 8), (t + 3, 1), (t + 4, 4), (t + 5, 8), (t + 6, 8), (t + 7, 1),
   (t + 8, 1), (t + 9, 4), (t + 10, 8), (t + 11, 8), (t + 12, 1)]

def sPixLayer := cmd 0x0503 notBoot true ((0x0530, 1) :: layerTags 0x0531) [0x0530] []
def sPixCommit := cmd 0x0504 notBoot true [(0x0540, 1), (0x0541, 8)] [0x0540] []
def sMonConfigure := cmd 0x0901 notBoot false [(0x0901, 1), (0x0902, 32)] [0x0901, 0x0902] []
def sMonStart := cmd 0x0902 notBoot false [] [] []
def sMonStop := cmd 0x0903 notBoot false [] [] []
def sMonLayer := cmd 0x0904 notBoot false
  ((0x0910, 1) :: (0x091E, 8) :: (0x091F, 1) :: layerTags 0x0911) [0x0910] []
def sMonCommit := cmd 0x0905 notBoot false [(0x0920, 4)] [0x0920] []

def sTimeStatus := cmd 0x0601 notBoot false [] [] []
def sTimeConfigure := cmd 0x0602 [.ready, .service, .dormant] false [(0x0610, 2), (0x0611, 2)] [] []
def sTimeSelect := cmd 0x0603 notBoot false [(0x0601, 1)] [0x0601] []
def sTimeIo := cmd 0x0604 [.ready, .service, .dormant] false [(0x0620, 1), (0x0621, 1)] [] []
def sFabStatus := cmd 0x0701 notBoot false [] [] []
def sFabPort := cmd 0x0702 notBoot false [(0x0710, 1), (0x0711, 1)] [0x0710, 0x0711] []
def sFabPriority := cmd 0x0703 notBoot false [(0x0720, 1)] [0x0720] []
def sFabRoute := cmd 0x0704 notBoot false [(0x0730, 4060), (0x0731, 4)] [] [0x0730]
def sProtConfigure := cmd 0x0801 [.ready, .operate] true
  [(0x0801, 1), (0x0802, 2), (0x0803, 2), (0x0804, 2), (0x0805, 1), (0x0806, 1), (0x0807, 8)]
  [0x0801, 0x0802, 0x0803, 0x0804, 0x0805, 0x0806] []
def sProtStatus := cmd 0x0802 notBoot true [] [] []
def sProtHandover := cmd 0x0803 notBoot true [(0x0820, 2), (0x0821, 8)] [0x0820, 0x0821] []
def sProtDissolve := cmd 0x0804 [.ready, .operate] true [] [] []
def sProtJoin := cmd 0x0805 notBoot true [(0x0830, 48), (0x0831, 2)] [0x0830, 0x0831] []
def sProtSetting := cmd 0x0806 notBoot true
  [(0x0210, 8), (0x0211, 8), (0x0213, 4), (0x021B, 2), (0x0223, 12), (0x0824, 8)] [0x0824] []
def sAudPort := cmd 0x0A01 notBoot false [(0x0A01, 1), (0x0A02, 16)] [0x0A01, 0x0A02] []
def sAudStart := cmd 0x0A02 notBoot false [(0x0A03, 1), (0x0A04, 8), (0x0A05, 1)] [0x0A03] []
def sAudStop := cmd 0x0A03 notBoot false [(0x0A03, 1)] [0x0A03] []
def sAudRoute := cmd 0x0A04 notBoot false [(0x0A06, 8)] [0x0A06] [0x0A06]
def sAudStatus := cmd 0x0A05 notBoot false [(0x0A01, 1)] [0x0A01] []
def sHlthStatus := cmd 0x0B01 notBoot false [] [] []
def sHlthFaults := cmd 0x0B02 notBoot false [(0x0B10, 4)] [] []
def sHlthSelftest := cmd 0x0B03 [.service] false [(0x0B20, 4)] [0x0B20] []
def sHlthThresh := cmd 0x0B04 notBoot false [(0x0B30, 8)] [0x0B30] []
def sFwInfo := cmd 0x0C01 notBoot false [] [] []
def sFwWrite := cmd 0x0C02 [.service] false [(0x0C10, 1), (0x0C11, 4)] [0x0C10, 0x0C11] []
def sFwActivate := cmd 0x0C03 allModes false [(0x0C10, 1)] [0x0C10] []
def sFwRollback := cmd 0x0C04 [.service] false [(0x0C02, 1)] [0x0C02] []
def sFwBootflag := cmd 0x0C05 notBoot false [(0x0C20, 1)] [0x0C20] []

/-- Every opcode of revision 3. -/
def allCmds : List CmdSpec :=
  [sDevInfo, sDevMode, sDevCapacity, sDevLedger, sDevAlloc, sDevFree, sDevRestart, sDevReset, sDevMgmt,
   sDevPort, sDevGpio, sChanConfigure, sChanStart, sChanStop, sChanModify, sChanClear, sChanStatus,
   sChanKey, sInConfigure, sInClear, sInStatus, sInPolice, sOutConfigure, sOutClear, sOutStatus] ++
  [sPixConfigure, sPixLoad, sPixLayer, sPixCommit, sMonConfigure, sMonStart, sMonStop, sMonLayer,
   sMonCommit, sTimeStatus, sTimeConfigure, sTimeSelect, sTimeIo, sFabStatus, sFabPort, sFabPriority,
   sFabRoute] ++
  [sProtConfigure, sProtStatus, sProtHandover, sProtDissolve, sProtJoin, sProtSetting, sAudPort,
   sAudStart, sAudStop, sAudRoute, sAudStatus, sHlthStatus, sHlthFaults, sHlthSelftest, sHlthThresh,
   sFwInfo, sFwWrite, sFwActivate, sFwRollback, sFwBootflag]

/-- The opcodes that revision 2 lacks (R144). -/
def rev3Only : List Nat := [0x0104, 0x0B04]

/-- The row of an opcode, if it is known at a revision. -/
def specOf (rev op : Nat) : Option CmdSpec :=
  if rev = 2 ∧ rev3Only.contains op = true then none else allCmds.find? fun c => c.opcode = op

/-- The opcodes on which CHECK_ONLY is accepted (R114). -/
def checkable : List Nat := [0x0201, 0x0204, 0x0301, 0x0401, 0x0801]

/-- Which opcodes a path may issue (R132). -/
def mayIssue (p : Path) (op : Nat) : Bool :=
  match p with
  | .host => !([0x0704, 0x0805, 0x0806].contains op)
  | .management =>
    !([0x0105, 0x0106, 0x0108, 0x0109, 0x0704, 0x0805, 0x0806, 0x0C04].contains op)
  | .fabric =>
    [0x0101, 0x0103, 0x0206, 0x0303, 0x0403, 0x0601, 0x0701, 0x0704, 0x0802, 0x0803, 0x0805, 0x0806,
     0x0A05, 0x0B01, 0x0C01].contains op

/-! ### The checks of R117 -/

/-- The interface revisions of this firmware (R143). -/
def revHigh : Nat := 3
def revLow : Nat := 2

/-- CHECK_ONLY (R114). -/
def checkOnly (r : Req) : Bool := r.flags.getLsbD 1

/-- Whether the flags of a request are refused (R114, R144). The spec does not refuse MORE in a request: it is accepted
(DESIGN CHOICE, assumption log 82). -/
def flagsBad (c : CmdSpec) (r : Req) : Bool :=
  r.flags.getLsbD 0 || decide (8 ≤ r.flags.toNat) ||
    (checkOnly r && (decide (r.rev = 2) || !checkable.contains c.opcode))

/-- The tag without its optional bit (R115). -/
def baseTag (t : Nat) : Nat := t % 0x8000

/-- The optional bit. -/
def isOpt (t : Nat) : Bool := bitAt t 15

/-- A known TLV's size. -/
def sizeOf? (c : CmdSpec) (t : Tlv) : Option Nat :=
  (c.tags.find? fun e => e.1 = baseTag t.tag).map Prod.snd

/-- Whether one TLV is refused after the tags already seen (R115, R116). An unknown TLV with OPT set is ignored however
often it stands (DESIGN CHOICE, assumption log 82). -/
def tlvBad (c : CmdSpec) (seen : List Nat) (t : Tlv) : Bool :=
  decide (bitsAt t.tag 12 3 ≠ 0) || decide (65536 ≤ t.tag) ||
    match sizeOf? c t with
    | some n => decide (t.len ≠ n) || decide (256 ^ n ≤ t.val) ||
        (seen.contains (baseTag t.tag) && !c.rep.contains (baseTag t.tag))
    | none => !isOpt t.tag

/-- The tag of the first TLV that is refused. -/
def firstBadTlv (c : CmdSpec) : List Nat → List Tlv → Option Nat
  | _, [] => none
  | seen, t :: ts =>
    if tlvBad c seen t then some t.tag else firstBadTlv c (baseTag t.tag :: seen) ts

/-- The value of a TLV, if the request carries it. -/
def getTlv (r : Req) (tag : Nat) : Option Nat :=
  (r.tlvs.find? fun t => baseTag t.tag = tag).map Tlv.val

/-- The value of a TLV, or a default. -/
def tlvD (r : Req) (tag d : Nat) : Nat := (getTlv r tag).getD d

/-- The values of a repeatable TLV, in order. -/
def tlvAll (r : Req) (tag : Nat) : List Nat :=
  (r.tlvs.filter fun t => baseTag t.tag = tag).map Tlv.val

def hasTlv (r : Req) (tag : Nat) : Bool := (getTlv r tag).isSome

/-- The first required TLV that the request lacks. -/
def missingTlv (c : CmdSpec) (r : Req) : Option Nat := c.req.find? fun t => !hasTlv r t

/-- Whether the header's channel field fits the opcode (R113). -/
def channelBad (c : CmdSpec) (r : Req) : Bool :=
  if c.names then decide (64 ≤ r.channel) else decide (r.channel ≠ 0xFFFF)

/-- The detail of a header field at an offset (R118). -/
def headerAt (o : Nat) : Nat := 0x80000000 + o

/-- The form of the header and the TLVs: the detail of the first fault. -/
def formBad (c : CmdSpec) (r : Req) : Option Nat :=
  if flagsBad c r then some (headerAt 2)
  else if channelBad c r then some (headerAt 8)
  else match firstBadTlv c [] r.tlvs with
    | some t => some t
    | none => missingTlv c r

/-- The detail of ST_STATE: mode code and channel state code or 0xFF (R118). -/
def stateDetail (s : State) (ch : Nat) : Nat := modeCode s.modes.mode * 256 + ch

/-- Channel state code for the detail of an opcode. -/
def stateOfReq (c : CmdSpec) (r : Req) (s : State) : Nat :=
  if c.names then stateCode (chan s r.channel).state else 0xFF

/-- The scope that stands in the self-test field while the self-test of every device reset runs (R504);
HLTH.SELFTEST names scopes below it (DEDUCED, assumption log 41). -/
def bootTest : Nat := 4294967296

/-- Whether HLTH.SELFTEST runs (DEDUCED, assumption log 41). -/
def testing (s : State) : Bool :=
  match s.flt.selftest with
  | some n => decide (n < bootTest)
  | none => false

/-- Whether firmware holds the cells: the self-test that runs covers them (R331, R504; DEDUCED, assumption log 41). -/
def cellsHeld (s : State) : Bool :=
  match s.flt.selftest with
  | some n => decide (n = bootTest) || bitAt n 0
  | none => false

/-- The checks of R117 up to the device mode, in order: the first failing status and detail. While HLTH.SELFTEST runs,
every other command but HLTH.STATUS and HLTH.FAULTS is busy (R503), and DEV.MODE to READY lacks its condition (R49; DEDUCED,
assumption log 41). -/
def precheck (c : CmdSpec) (r : Req) (s : State) : Option (Nat × Nat) :=
  if r.rev ≠ revHigh ∧ r.rev ≠ revLow then some (stVersion, revHigh * 256 + revLow)
  else if (specOf r.rev c.opcode).isNone then some (stBadOpcode, 0)
  else if !mayIssue r.path c.opcode then some (stAuth, 0)
  else match formBad c r with
    | some d => some (stBadParam, d)
    | none =>
      if testing s = true ∧ c.opcode = 0x0102 ∧ tlvD r 0x0109 0 = 3 ∧ s.modes.mode = .service then
        some (stState, stateDetail s 0xFF)
      else if testing s = true ∧ c.opcode ≠ 0x0B01 ∧ c.opcode ≠ 0x0B02 then some (stBusy, 0)
      else if !c.modes.contains s.modes.mode then some (stState, stateDetail s (stateOfReq c r s))
      else none

/-! ### Answers (R110, R113, R116) -/

/-- The outcome of a command's work: done with response TLVs (and MORE), refused, or waiting on a peer. -/
inductive Verdict where
  | ok (s : State) (tlvs : List Tlv) (more : Bool)
  | err (status detail : Nat) (tlvs : List Tlv)
  | wait (s : State)
  deriving DecidableEq, Repr

/-- A response TLV. -/
def tlv (tag len val : Nat) : Tlv := { tag := tag, len := len, val := val }

/-- A response TLV from bytes. -/
def tlvB (tag : Nat) (bs : List Nat) : Tlv := { tag := tag, len := bs.length, val := ofLe bs }

/-- The tags that were ignored (R116). -/
def ignoredTags (c : CmdSpec) (r : Req) : List Nat :=
  (r.tlvs.filter fun t => (sizeOf? c t).isNone && isOpt t.tag).map Tlv.tag

/-- The IGNORED TLV, when there is anything to list. -/
def ignoredTlv (c : CmdSpec) (r : Req) : List Tlv :=
  match ignoredTags c r with
  | [] => []
  | ts => [tlvB 0x00FF (ts.map u16).flatten]

/-- The command in work for a request. -/
def workOf (r : Req) (s : State) : Option InWork :=
  s.mbx.inWork.find? fun w => r.slot.map Fin.val = some w.slot

/-- The acceptance time of a request: when firmware took it (R113). -/
def acceptedAt (r : Req) (s : State) : Nat :=
  match workOf r s with
  | some w => w.accepted
  | none => nowNs s

/-- The response to a request; a version refusal is at the firmware's own revision (R143), and
revision 2 has no acceptance time (R144). -/
def respOf (op : Nat) (r : Req) (status detail : Nat) (tlvs : List Tlv) (more : Bool) (s : State) :
    Resp :=
  let rev := if status = stVersion then revHigh else r.rev
  { slot := r.slot, path := r.path, node := r.node, opcode := op, seq := r.seq, channel := r.channel,
    rev := rev, status := status, detail := detail, more := more,
    accepted := if rev = 2 then 0 else acceptedAt r s, tlvs := tlvs }

/-- Answers a request: its response waits for delivery, and it is no longer in work (DEDUCED, assumption log 7).
-/
def answer (op : Nat) (r : Req) (status detail : Nat) (tlvs : List Tlv) (more : Bool) (s : State) :
    State :=
  { s with mbx := { s.mbx with
      resps := s.mbx.resps ++ [respOf op r status detail tlvs more s]
      inWork := s.mbx.inWork.filter fun w => r.slot.map Fin.val ≠ some w.slot } }

/-- Carries out a request: the checks in the order of R117, then the work. Where no firmware runs, no command is
carried out. CHECK_ONLY answers as the work would and changes nothing; one that waits for the manager is answered so once
the manager has answered (DEDUCED, assumption log 7). -/
def serve (c : CmdSpec) (r : Req) (work : Req → State → Verdict) (s : State) : State :=
  if !s.ctl.fwRunning then s
  else match precheck c r s with
    | some (st, d) => answer c.opcode r st d (ignoredTlv c r) false s
    | none =>
      match work r s with
      | .ok s' tlvs more =>
        answer c.opcode r stOk 0 (tlvs ++ ignoredTlv c r) more (if checkOnly r then s else s')
      | .err st d tlvs => answer c.opcode r st d (tlvs ++ ignoredTlv c r) false s
      | .wait s' => s'

/-- The first tag whose check fails; `true` marks a fault. -/
def firstBad : List (Bool × Nat) → Option Nat
  | [] => none
  | (b, t) :: cs => if b then some t else firstBad cs

/-- Refuses with ST_BAD_PARAM at the first failing check, else goes on. -/
def paramsThen (cs : List (Bool × Nat)) (k : Verdict) : Verdict :=
  match firstBad cs with
  | some t => .err stBadParam t []
  | none => k

/-- ST_STATE with the channel's state in the detail. -/
def badState (s : State) (h : Nat) : Verdict :=
  .err stState (stateDetail s (stateCode (chan s h).state)) []

/-- ST_STATE with no channel named. -/
def badMode (s : State) : Verdict := .err stState (stateDetail s 0xFF) []

/-- ST_NO_CAPACITY with a failing check (R118). -/
def noRoom (check : Nat) : Verdict := .err stNoCapacity check []

/-! ### Layouts of TLV values -/

/-- FORMAT, R175. -/
def formatOf (v : Nat) : Format :=
  { width := fieldAt v 0 2, height := fieldAt v 2 2, rateNum := fieldAt v 4 4, rateDen := fieldAt v 8 4,
    sampling := fieldAt v 12 1, depth := fieldAt v 13 1, scan := fieldAt v 14 1,
    colorimetry := fieldAt v 15 1, refOffset := signed 4 (fieldAt v 16 4) }

/-- Whether a FORMAT value lies outside R175. -/
def formatBad (kind v : Nat) : Bool :=
  let f := formatOf v
  f.width = 0 || f.height = 0 || f.rateNum = 0 || (f.rateDen ≠ 1 && f.rateDen ≠ 1001) ||
    f.sampling < 2 || 4 < f.sampling || (f.depth ≠ 10 && f.depth ≠ 12) || 2 < f.scan ||
    3 < f.colorimetry || fieldAt v 20 4 ≠ 0 || (2 ≤ kind && f.refOffset ≠ 0)

/-- FLOW, R187. -/
def flowOf (v : Nat) : Flow :=
  { leg := fieldAt v 0 1, role := fieldAt v 1 1, iface := fieldAt v 2 1, pt := fieldAt v 3 1,
    dstIp := BitVec.ofNat 32 (fieldAt v 4 4), srcIp := BitVec.ofNat 32 (fieldAt v 8 4),
    dstPort := fieldAt v 12 2, srcPort := fieldAt v 14 2, ssrc := BitVec.ofNat 32 (fieldAt v 16 4),
    vlan := fieldAt v 20 2, flags := fieldAt v 22 2 }

def flowBad (f : Flow) : Bool :=
  1 < f.leg || 2 < f.role || 7 < f.iface || 127 < f.pt || f.dstPort = 0 ||
    (4094 < f.vlan && f.vlan ≠ 0xFFFF) || 1 < f.flags

/-- LEG, R410. -/
def legOf (v : Nat) : Leg :=
  { leg := fieldAt v 0 1, iface := fieldAt v 1 1, dscp := fieldAt v 2 1, ttl := fieldAt v 3 1,
    dstIp := BitVec.ofNat 32 (fieldAt v 4 4), dstPort := fieldAt v 8 2, srcPort := fieldAt v 10 2,
    ssrc := BitVec.ofNat 32 (fieldAt v 12 4), pt := fieldAt v 16 1,
    mtu := if fieldAt v 18 2 = 0 then 1500 else fieldAt v 18 2,
    mac := none, arpAt := none, late := 0, lateMax := 0, secLate := 0, secMax := 0, discards := 0, depthMax := 0,
    queue := 0 }

def legBad (kind v : Nat) : Bool :=
  let l := legOf v
  1 < l.leg || 7 < l.iface || 63 < l.dscp || l.ttl = 0 || l.dstPort = 0 || l.srcPort = 0 ||
    (kind ≠ 6 && (l.pt < 96 || 127 < l.pt)) || fieldAt v 17 1 ≠ 0 || l.mtu < 576 || 1500 < l.mtu ||
    fieldAt v 20 4 ≠ 0

/-- Whether an IPv4 address is a multicast group. -/
def isMulticast (ip : Word32) : Bool := decide (0xE0000000 ≤ ip.toNat ∧ ip.toNat ≤ 0xEFFFFFFF)

/-- The Ethernet address of a multicast destination (RFC 1112, R411). -/
def multicastMac (ip : Word32) : BitVec 48 := BitVec.ofNat 48 (0x01005E000000 + ip.toNat % 0x800000)

/-- POLICER, R426; its buckets start full. Tokens are counted in bits per 10^9. -/
def policerOf (v now : Nat) : Policer :=
  { mode := fieldAt v 0 1, aware := fieldAt v 1 1 = 1, yellowDrop := fieldAt v 2 1 = 1,
    redDrop := fieldAt v 3 1 = 1, cbs := fieldAt v 4 4, cir := fieldAt v 8 8, pir := fieldAt v 16 8,
    ebs := fieldAt v 24 4, tokC := fieldAt v 4 4 * 8000000000, tokE := fieldAt v 24 4 * 8000000000,
    last := now, green := 0, yellow := 0, red := 0, yellowDropped := 0, redDropped := 0 }

def policerBad (v mtu : Nat) : Bool :=
  let p := policerOf v 0
  2 < p.mode || 1 < fieldAt v 1 1 || 1 < fieldAt v 2 1 || 1 < fieldAt v 3 1 || fieldAt v 28 4 ≠ 0 ||
    (p.mode = 1 && p.pir ≠ 0) || (p.mode = 2 && p.pir < p.cir) ||
    (p.mode ≠ 0 && (p.cbs < mtu + 18 || p.ebs < mtu + 18))

/-- TIMING, R479. -/
def timingOf (v : Nat) : Timing :=
  { width := fieldAt v 0 2, height := fieldAt v 2 2, rateNum := fieldAt v 4 4, rateDen := fieldAt v 8 4,
    depth := fieldAt v 12 1, dither := fieldAt v 13 1, colorimetry := fieldAt v 14 1,
    range := fieldAt v 15 1, offset := signed 4 (fieldAt v 16 4),
    background := BitVec.ofNat 32 (fieldAt v 20 4), drawCap := fieldAt v 24 4,
    gfxWhite := fieldAt v 28 2 }

/-- The fields of a rectangle: x, y, width, height, each u16. -/
def rectOf (v : Nat) : List Nat := [fieldAt v 0 2, fieldAt v 2 2, fieldAt v 4 2, fieldAt v 6 2]

/-- A staged layer after the layer TLVs of a request, whose first tag is `t` (R217, R218). -/
def layerFrom (r : Req) (t : Nat) (l : Layer) : Layer :=
  let acq := getTlv r (t + 10)
  let rel := getTlv r (t + 11)
  { l with
    enable := match getTlv r t with | some v => decide (v = 1) | none => l.enable
    buf := tlvD r (t + 1) l.buf
    offset := tlvD r (t + 2) l.offset
    format := tlvD r (t + 3) l.format
    pitch := tlvD r (t + 4) l.pitch
    src := match getTlv r (t + 5) with | some v => rectOf v | none => l.src
    dst := match getTlv r (t + 6) with | some v => rectOf v | none => l.dst
    blend := tlvD r (t + 7) l.blend
    alpha := tlvD r (t + 8) l.alpha
    fill := match getTlv r (t + 9) with | some v => BitVec.ofNat 32 v | none => l.fill
    acqFence := match acq with | some v => fieldAt v 0 2 | none => l.acqFence
    acqTarget := match acq with | some v => BitVec.ofNat 32 (fieldAt v 4 4) | none => l.acqTarget
    relFence := match rel with | some v => fieldAt v 0 2 | none => l.relFence
    relValue := match rel with | some v => BitVec.ofNat 32 (fieldAt v 4 4) | none => l.relValue
    scalerSet := tlvD r (t + 12) l.scalerSet }

end Sys2Proof.Machine
end

