-- ==== Sys2Proof/Machine/Admission.lean ====
section
/-! DEFINITION. Machine/Admission.lean: what CHAN.CONFIGURE derives and checks (R27, R137, R194, R205,
R208, R229 to R249, R279 to R307, R356, R409 to R425): the configuration with its defaults, the minimum
delay, unit caps and guards, processing paths, shaper rates and budgets. -/

namespace Sys2Proof.Machine

/-! ### Codes -/

def roleOf (n : Nat) : Role :=
  if n = 0 then .encode else if n = 1 then .gateway else if n = 2 then .transcode else .shadow

def codecOf (n : Nat) : Codec :=
  if n = 0 then .hevc else if n = 1 then .vvc else if n = 2 then .avc else .jpegxs

def codecCode : Codec → Nat
  | .hevc => 0
  | .vvc => 1
  | .avc => 2
  | .jpegxs => 3

def latencyOf (n : Nat) : Latency :=
  if n = 0 then .ripple else if n = 1 then .slice else if n = 2 then .frame else .lookahead

/-- HEVC and VVC. -/
def isHv (c : Codec) : Bool := decide (c = .hevc ∨ c = .vvc)

/-- A role that reads a coded input. -/
def decodes (r : Role) : Bool := decide (r = .gateway ∨ r = .transcode)

/-- The ports that an input uses. -/
def inputPorts (i : Input) : List PortRef :=
  if i.kind ≤ 1 then (bitList 8 i.sdiPorts).map fun n => .sdi (Fin.ofNat 8 n)
  else i.flows.map fun f => .media (Fin.ofNat 2 (f.iface / 4))

/-- The ports that an output uses. -/
def outputPorts (o : Output) : List PortRef :=
  if o.kind ≤ 1 then (bitList 8 o.ports).map fun n => .sdi (Fin.ofNat 8 n)
  else o.legs.map fun l => .media (Fin.ofNat 2 (l.iface / 4))

/-- Whether any of some ports is in port-off. -/
def anyOff (s : State) (ps : List PortRef) : Bool := ps.any fun p => s.modes.portsOff.contains p

/-- A role with rate control of its own. -/
def encodes (r : Role) : Bool := decide (r = .encode ∨ r = .transcode ∨ r = .shadow)

/-! ### Emission units (R279, R281, R295) -/

/-- CTU rows of a channel's coded picture. -/
def rowsOf (c : ChanCfg) : Nat := ceilDiv (picHeight c) (ctuLines c.codec)

/-- Emission units per picture (R279). -/
def unitsOf (c : ChanCfg) : Nat :=
  match c.latency with
  | .ripple => rowsOf c
  | .slice => c.slices
  | .frame => 1
  | .lookahead => 1

/-- The encode work of a channel. -/
def encodeWork (c : ChanCfg) : Work :=
  { kind := if c.role = .gateway then 1 else 0, codec := c.codec, width := c.width,
    height := picHeight c, num := picNum c, den := c.rateDen, slices := c.slices }

/-- The group size of a channel's coding work. -/
def cfgGroup (c : ChanCfg) : Nat := (groupOf (encodeWork c) c.groupSize).getD 1

/-- CTU rows of each slice of a picture, top to bottom (R238). -/
def cfgSlices (c : ChanCfg) : List Nat := (sliceRows (encodeWork c) (cfgGroup c)).flatten

/-- CTU rows of each emission unit. -/
def unitRows (c : ChanCfg) : List Nat :=
  match c.latency with
  | .ripple => List.replicate (rowsOf c) 1
  | .slice => cfgSlices c
  | .frame => [rowsOf c]
  | .lookahead => [rowsOf c]

/-- Grid units: den × 10^9 ns in 2^-16 ns. -/
def gridUnit (q : Nat × Nat) : Nat := q.2 * 1000000000 * 65536

/-- The grid instant of a number, in 2^-16 ns (R166). -/
def gridTime (q : Nat × Nat) (n : Nat) : Nat := n * gridUnit q / q.1

/-- Picture period in 2^-16 ns units, rounded down. -/
def periodT (c : ChanCfg) : Nat := c.rateDen * 1000000000 * 65536 / picNum c

/-- Offset of unit `u` in 2^-16 ns (R279). -/
def unitOffset (c : ChanCfg) (u : Nat) : Nat :=
  if unitsOf c ≤ 1 then 0 else u * c.rateDen * 1000000000 * 65536 / (picNum c * unitsOf c)

/-- Launch time of packet `k` of `n` of unit `u`: c + D + o_u + k × s / n, exact but for the last rounding (R281, R415,
R169). -/
def launchTime (c : ChanCfg) (capture u k n : Nat) : Nat :=
  capture + ns c.delayNs +
    (u * n + k) * c.rateDen * 1000000000 * 65536 / (picNum c * max 1 (unitsOf c) * max 1 n)

/-- End of a picture's last emission slot: c + D + P. -/
def slotEnd (c : ChanCfg) (capture : Nat) : Nat := capture + ns c.delayNs + periodT c

/-- The emission unit that holds a slice; in ripple mode its first row (R279). -/
def unitOfSlice (f : ChanCfg) (i : Nat) : Nat :=
  match f.latency with
  | .ripple => ((cfgSlices f).take i).sum
  | .slice => i
  | .frame => 0
  | .lookahead => 0

/-- The slices that the first `u` units of a picture hold in full. -/
def slicesIn (f : ChanCfg) (u : Nat) : Nat :=
  match f.latency with
  | .ripple => ((starts 0 (cfgSlices f)).filter fun p => decide (p.1 + p.2 ≤ u)).length
  | .slice => u
  | .frame => if u = 0 then 0 else f.slices
  | .lookahead => if u = 0 then 0 else f.slices

/-- Bits of a JPEG XS picture at a rate: floor(rate × P / 8) bytes (R300). -/
def jxsPicBytes (c : ChanCfg) (rate : Nat) : Nat := rate * c.rateDen / (picNum c * 8)

/-- Bytes of a JPEG XS unit of `n` 16-line slices from slice `a`: equal shares, the first slices taking
the remainder. -/
def jxsUnitBytes (c : ChanCfg) (rate a n : Nat) : Nat :=
  (((deal (jxsPicBytes c rate) (rowsOf c)).drop a).take n).sum

/-- The unit cap in bits (R295, R300). -/
def unitCap (c : ChanCfg) : Nat :=
  if c.codec = .jpegxs then
    8 * (((starts 0 (unitRows c)).map fun p => jxsUnitBytes c c.maxBitrate p.1 p.2).foldl max 0)
  else c.peak * c.maxBitrate * c.rateDen / (8 * picNum c * unitsOf c)

/-- Skip-fill bound of one CTU (R302). -/
def skipBits : Codec → Nat
  | .avc => 8
  | _ => 16

/-- CTUs in one CTU row. -/
def ctusPerRow (c : ChanCfg) : Nat := ceilDiv c.width (ctuLines c.codec)

/-- Overheads of unit `u` of `n` (R303). -/
def overhead (n u : Nat) : Nat :=
  512 + (if u = 0 then 8192 else 0) + if u + 1 = n then 1024 else 0

/-- In ripple mode, rows of row `u`'s slice not yet coded at its start, its own included. -/
def rippleRows (c : ChanCfg) (u : Nat) : Nat :=
  match (starts 0 (cfgSlices c)).find? fun p => decide (p.1 ≤ u ∧ u < p.1 + p.2) with
  | some p => p.1 + p.2 - u
  | none => 0

/-- The guard of unit `u` (R307). -/
def unitGuard (c : ChanCfg) (u rows : Nat) : Nat :=
  skipBits c.codec * (rows * ctusPerRow c) + overhead (unitsOf c) u +
    if c.latency = .ripple then 32 * rippleRows c u else 0

/-- Whether some unit's cap is below its guard (R307). -/
def guardBad (c : ChanCfg) : Bool :=
  (List.range (unitsOf c)).any fun u => decide (unitCap c < unitGuard c u ((unitRows c).getD u 0))

/-! ### Minimum delay (R286) -/

/-- The receive window W in ns: LINK × 100 us for network inputs, 200 us for SDI (R190, R286). -/
def windowNs (i : Option Input) : Nat :=
  match i with
  | some i => if i.kind ≤ 1 then 200000 else (if i.link = 0 then 2 else i.link) * 100000
  | none => 200000

/-- The largest of t_u - o_u over the units, as a numerator over num × H × N, in ns (R286 term A). -/
def termA (c : ChanCfg) : Nat :=
  let h := picHeight c
  let n := unitsOf c
  let lines := (starts 0 (unitRows c)).map fun p => min h ((p.1 + p.2) * ctuLines c.codec)
  ((List.range n).map fun u =>
    1000000000 * c.rateDen * (lines.getD u 0 * n - u * h)).foldl max 0

/-- Luma samples of the picture's largest unit. -/
def largestUnit (c : ChanCfg) : Nat :=
  ((starts 0 (unitRows c)).map fun p => lumaOf (encodeWork c) p.1 (p.1 + p.2)).foldl max 0

/-- Minimum D of an encode as a numerator over num × H × N × 48, in ns (R286). -/
def encodeMinNum (c : ChanCfg) (w : Nat) : Nat :=
  let d := picNum c * picHeight c * unitsOf c * 48
  let p := 1000000000 * c.rateDen * picHeight c * unitsOf c * 48
  let cTerm := largestUnit c * factor4 c.codec 0 * 5 * (picNum c * picHeight c * unitsOf c)
  match c.latency with
  | .ripple => w * d + termA c * 48 + cTerm + 10000 * d
  | .slice => w * d + termA c * 48 + cTerm + 100000 * d
  | .frame => p * 3 / 2 + w * d - 200000 * d
  | .lookahead => p * 3 / 2 + c.lookahead * p + w * d - 200000 * d

/-- The minimum D in ns, rounded up to a multiple of 100 us; SYNC bit 0 adds P (R286). -/
def minDelay (c : ChanCfg) (i : Option Input) : Nat :=
  let w := windowNs i
  let d := picNum c * picHeight c * unitsOf c * 48
  let p := 1000000000 * c.rateDen * picHeight c * unitsOf c * 48
  let sync := match i with
    | some i => if bitAt i.sync 0 then p else 0
    | none => 0
  let base := match c.role with
    | .encode => encodeMinNum c w
    | .shadow => encodeMinNum c w
    | .gateway => p + w * d
    | .transcode => p + encodeMinNum c w
  ceilDiv (base + sync) (d * 100000) * 100000

/-- Pictures of its input ring that a channel keeps (R287). -/
def keptK (c : ChanCfg) : Nat :=
  if c.latency = .lookahead then 1 else ceilDiv (c.delayNs * picNum c) (c.rateDen * 1000000000) + 1

/-- The pictures that a mini-GOP holds. -/
def miniGop (c : ChanCfg) : Nat := 2 ^ c.gop

/-! ### The configuration of a request (R137, R246, R258, R261, R293, R298) -/

/-- The configuration that a CHAN.CONFIGURE names, with every default resolved. -/
def cfgOf (r : Req) (s : State) : ChanCfg :=
  let role := roleOf (tlvD r 0x0201 0)
  let codec := codecOf (tlvD r 0x0202 0)
  let latency := latencyOf (tlvD r 0x020B 0)
  let width := tlvD r 0x0205 0
  let height := tlvD r 0x0206 0
  let num := tlvD r 0x0207 0
  let den := tlvD r 0x0208 0
  let input := tlvD r 0x0214 0
  let known := match tabGet? s.inputs input with
    | some i => i.format <|> i.coded
    | none => none
  let inter := match known with
    | some f => decide (f.scan = 1)
    | none => false
  let gop := tlvD r 0x0241 0
  let m0 := tlvD r 0x0211 0
  let pn := if inter then 2 * num else num
  let tier := tlvD r 0x0240 1
  let level := tlvD r 0x0204 0
  let profile := tlvD r 0x0203 0
  let onePic := ceilDiv (m0 * den) pn
  let cpbD := match latency with
    | .ripple => onePic
    | .slice => onePic
    | .frame => ceilDiv (4 * m0 * den) pn
    | .lookahead => min (Config.levelLimit (codecCode codec) level tier profile).2.2.2 (ceilDiv m0 2)
  let subFrame := decide (latency = .ripple ∨ latency = .slice)
  let hash := decide (tlvD r 0x0246 (if 1920 < width ∧ codec ≠ .jpegxs then 1 else 0) = 1)
  { role := role, codec := codec, inCodec := codecOf (tlvD r 0x021C (codecCode codec)),
    profile := profile, level := level, width := width, height := height, rateNum := num,
    rateDen := den, chroma := tlvD r 0x0209 0, bitDepth := tlvD r 0x020A 0, latency := latency,
    delayNs := tlvD r 0x020C 0, slices := tlvD r 0x020D (defaultSlices height),
    groupSize := tlvD r 0x020E 0, rcVbr := decide (tlvD r 0x020F 0 = 1),
    bitrate := tlvD r 0x0210 0, maxBitrate := m0, cpbBits := tlvD r 0x0212 cpbD,
    keyPeriod := tlvD r 0x0213 (if latency = .ripple then 0 else roundUp (ceilDiv pn den) (2 ^ gop)),
    input := input, outputs := tlvAll r 0x0215, detClass := tlvD r 0x0217 s.hif.detClass,
    lookahead := tlvD r 0x021A 0,
    refreshPeriod := tlvD r 0x021B (max 2 (ceilDiv pn (2 * den))),
    tier := tier, gop := gop, refFrames := tlvD r 0x0242 2, keyType := tlvD r 0x0243 0,
    sceneKey := decide (tlvD r 0x0244 0 = 1), keyGpi := tlvD r 0x0245 0xFF, hashSearch := hash,
    hashGrid := tlvD r 0x0247 (if 3840 < width then 8 else 4), hashUnits := tlvD r 0x0248 0,
    aq := tlvD r 0x0249 2, deblock := tlvD r 0x024A 0, sao := tlvD r 0x024B 0, alf := tlvD r 0x024C 0,
    sei := tlvD r 0x024D 15, hdrStatic := getTlv r 0x024E, picHash := tlvD r 0x024F 0,
    paramSets := tlvD r 0x0250 0, qpMin := tlvD r 0x0280 0,
    qpMax := tlvD r 0x0281 (if codec = .vvc then 63 else 51),
    peak := tlvD r 0x0282 (if subFrame then 16 else 32),
    fillerOut := decide (tlvD r 0x0283 0 = 1), interlaced := inter,
    inFormat := if role = .transcode then known else none }

/-- Whether the profile does not allow a combination (R229, R230; assumption log 11 for decodes). -/
def profileBad (role : Role) (c : Codec) (p chroma depth : Nat) : Bool :=
  let okE : Bool := match c, p with
    | .hevc, 2 => chroma = 1 && (depth = 8 || depth = 10)
    | .hevc, 4 => chroma = 2 && depth = 10
    | .vvc, 1 => chroma = 1 && (depth = 8 || depth = 10)
    | .vvc, 33 => chroma = 2 && depth = 10
    | .avc, 100 => chroma = 1 && depth = 8
    | .avc, 110 => chroma = 1 && (depth = 8 || depth = 10)
    | .avc, 122 => chroma = 2 && depth = 10
    | .jpegxs, 1 => chroma = 2 && depth = 10
    | _, _ => false
  let okD : Bool := match c, p with
    | .hevc, 4 => (chroma = 1 || chroma = 2) && (depth = 8 || depth = 10)
    | .vvc, 33 => (chroma = 1 || chroma = 2) && (depth = 8 || depth = 10)
    | .avc, 122 => (chroma = 1 || chroma = 2) && (depth = 8 || depth = 10)
    | .avc, 77 => chroma = 1 && depth = 8
    | .avc, 66 => chroma = 1 && depth = 8
    | _, _ => false
  !(okE || (role = .gateway && okD))

/-- The limits of a level: largest picture, luma sample rate, bit rate and coded-picture buffer. The luma rate of AVC
level 5.2 is that of 2,073,600 macroblocks of 256 samples (R230). -/
def levelLimits (c : ChanCfg) : Nat × Nat × Nat × Nat :=
  let l := Config.levelLimit (codecCode c.codec) c.level c.tier c.profile
  if c.codec = .avc ∧ c.level = 156 then (l.1, 2073600 * 256, l.2.2) else l

/-- Whether the configuration exceeds the limit of its level and tier (R230). -/
def levelBad (c : ChanCfg) : Bool :=
  if c.codec = .jpegxs then c.level ≠ 0
  else
    let l := levelLimits c
    (if c.codec = .avc then decide (156 < c.level) else decide (186 < c.level)) ||
      decide (l.1 < c.width * picHeight c) ||
      decide (l.2.1 * c.rateDen < c.width * picHeight c * picNum c) ||
      decide (l.2.2.1 < c.maxBitrate) || decide (l.2.2.2 < c.cpbBits)

/-- Whether a coding tool that the request carries does not apply to the codec or mode (R246; DEDUCED,
assumption log 37). -/
def toolBad (r : Req) (c : ChanCfg) : Option Nat :=
  let jx := c.codec = .jpegxs
  firstBad
    ([(jx && hasTlv r 0x0240 || (hasTlv r 0x0240 && (!isHv c.codec || 1 < c.tier)), 0x0240),
      (hasTlv r 0x0241 && (jx || 3 < c.gop ||
        (0 < c.gop && (c.latency ≠ .lookahead || c.lookahead < miniGop c))), 0x0241),
      (hasTlv r 0x0242 && (jx || c.refFrames < 1 || 4 < c.refFrames), 0x0242),
      (hasTlv r 0x0243 && (jx || 1 < c.keyType || (c.keyType = 1 && !isHv c.codec)), 0x0243),
      (hasTlv r 0x0244 && (jx || 1 < tlvD r 0x0244 0 || (c.sceneKey && c.latency ≠ .lookahead)), 0x0244),
      (hasTlv r 0x0245 && (jx || (31 < c.keyGpi && c.keyGpi ≠ 0xFF)), 0x0245),
      (hasTlv r 0x0246 && (jx || 1 < tlvD r 0x0246 0), 0x0246),
      (hasTlv r 0x0247 && (jx || (c.hashGrid ≠ 4 && c.hashGrid ≠ 8)), 0x0247),
      (hasTlv r 0x0248 && (jx || !([0, 1, 2, 4, 8, 16, 32, 64, 128].contains c.hashUnits)), 0x0248),
      (hasTlv r 0x0249 && (jx || 3 < c.aq), 0x0249),
      (hasTlv r 0x024A && (jx || 1 < c.deblock), 0x024A)] ++
     [(hasTlv r 0x024B && (!isHv c.codec || 1 < c.sao), 0x024B),
      (hasTlv r 0x024C && (c.codec ≠ .vvc || 1 < c.alf), 0x024C),
      (hasTlv r 0x024D && (jx || 15 < c.sei), 0x024D),
      (hasTlv r 0x024E && jx, 0x024E),
      (hasTlv r 0x024F && (!isHv c.codec || 3 < c.picHash), 0x024F),
      (hasTlv r 0x0250 && (jx || 1 < c.paramSets), 0x0250)])

/-! ### Outputs that a channel names (R409) -/

/-- Frame rate a / b equals num / den. -/
def rateIs (num den a b : Nat) : Bool := decide (num * b = a * den)

/-- The lowest link code of R178, other than 0 and 3, whose formats include a format. -/
def linkFor (w h num den : Nat) (interlaced : Bool) : Option Nat :=
  let low := rateIs num den 24000 1001 || rateIs num den 24 1 || rateIs num den 25 1 ||
    rateIs num den 30000 1001 || rateIs num den 30 1
  let high := rateIs num den 50 1 || rateIs num den 60000 1001 || rateIs num den 60 1
  let top := rateIs num den 100 1 || rateIs num den 120000 1001 || rateIs num den 120 1
  let i := rateIs num den 25 1 || rateIs num den 30000 1001 || rateIs num den 30 1
  if w = 1920 ∧ h = 1080 then
    if interlaced then (if i then some 1 else none)
    else if low then some 1 else if high then some 2 else none
  else if interlaced then none
  else if w = 1280 ∧ h = 720 then (if high then some 1 else none)
  else if w = 3840 ∧ h = 2160 then (if low then some 4 else if high then some 5 else none)
  else if w = 7680 ∧ h = 4320 then (if low || high then some 6 else if top then some 7 else none)
  else none

/-- Whether an output's kind suits a channel (R409). -/
def kindFits (kind : Nat) (c : ChanCfg) : Bool :=
  let enc := c.role ≠ .gateway
  let link := linkFor c.width c.height c.rateNum c.rateDen c.interlaced
  match kind with
  | 0 => c.role = .gateway && (match link with | some l => decide (l ≤ 5) | none => false)
  | 1 => c.role = .gateway && (match link with | some l => decide (6 ≤ l) | none => false)
  | 2 => c.role = .gateway
  | 3 => enc && c.codec = .jpegxs
  | 4 => enc && c.codec = .hevc
  | 5 => enc && c.codec = .vvc
  | 6 => enc && c.codec ≠ .jpegxs
  | 7 => enc
  | _ => false

/-- The channel that names an output, but for one handle. -/
def namerBut (s : State) (h o : Nat) : Option Nat :=
  handles.find? fun i => i ≠ h && match (chan s i).cfg with
    | some c => c.outputs.contains o
    | none => false

/-- The channel that names an output. -/
def namer (s : State) (o : Nat) : Option Nat :=
  handles.find? fun i => match (chan s i).cfg with
    | some c => c.outputs.contains o
    | none => false

def outputOf (s : State) (o : Nat) : Option Output := tabGet? s.outputs o

/-- Whether an OUTPUT that a channel names is refused (DEDUCED, assumption log 37). -/
def outputBad (s : State) (h : Nat) (c : ChanCfg) (o : Nat) : Bool :=
  match outputOf s o with
  | none => true
  | some x => (namerBut s h o).isSome || s.mon.route = o || !kindFits x.kind c

/-- Whether a channel has an MPEG-2 TS output. -/
def hasTs (s : State) (c : ChanCfg) : Bool :=
  c.outputs.any fun o => match outputOf s o with
    | some x => decide (x.kind = 6)
    | none => false

/-- Output legs of a channel: an SDI output counts as one (R356). -/
def legCount (s : State) (c : ChanCfg) : Nat :=
  (c.outputs.map fun o => match outputOf s o with
    | some x => if x.kind ≤ 1 then 1 else x.legs.length
    | none => 0).sum

/-- Channel pairs of each PID of a TS output (R445): the channels routed are those of the audio routes with a kind 4 sink on
the output. -/
def tsPairs (s : State) (o : Nat) : Nat × Nat :=
  let chs := s.aud.routes.filterMap fun r =>
    if bitsAt r.sink.toNat 0 8 = 4 ∧ bitsAt r.sink.toNat 8 8 = o then some (bitsAt r.sink.toNat 16 8)
    else none
  let pairs (lo : Nat) : Nat :=
    ((chs.filterMap fun x => if lo ≤ x ∧ x < lo + 8 then some (x - lo + 1) else none).foldl max 0 + 1) / 2
  (pairs 0, pairs 8)

/-- TS packets of a PES packet of so many audio frames of some pairs (R445). -/
def audioPackets (frames pairs : Nat) : Nat := if pairs = 0 then 0 else ceilDiv (18 + frames * pairs * 7) 184

/-- Audio slots per picture of each PID of a TS output (R445): ceil((18 + ceil(P × 48,000) × pairs × 7) / 184). -/
def tsAudioPids (s : State) (c : ChanCfg) (o : Nat) : Nat × Nat :=
  let n := ceilDiv (48000 * c.rateDen) (picNum c)
  let p := tsPairs s o
  (audioPackets n p.1, audioPackets n p.2)

/-- Audio slots per picture of both PIDs. -/
def tsAudioSlots (s : State) (c : ChanCfg) (o : Nat) : Nat := (tsAudioPids s c o).1 + (tsAudioPids s c o).2

/-- Whether every emission unit of a channel, at its cap, fits in the slots of its own emission slot when a picture has `n`
TS packets: those at or after its launch time and before the next unit's, beside PAT, PMT and the audio slots (R418,
R419). -/
def tsFits (s : State) (c : ChanCfg) (o n : Nat) : Bool :=
  let us := unitsOf c
  let taken := 2 + tsAudioSlots s c o
  (List.range us).all fun u =>
    decide (Config.tsVideo (ceilDiv (unitCap c) 8) u ≤ ceilDiv ((u + 1) * n) us - max taken (ceilDiv (u * n) us))

/-- The first number from `m` up that passes a test; `fuel` bounds the search. -/
def leastFrom (ok : Nat → Bool) : Nat → Nat → Nat
  | 0, m => m
  | fuel + 1, m => if ok m then m else leastFrom ok fuel (m + 1)

/-- TS_MIN of a channel's output (R419): the least multiple of 7 that fits. As many slots for every unit as the largest
unit and the reserved slots take together are enough. -/
def tsMin (s : State) (c : ChanCfg) (o : Nat) : Nat :=
  let us := unitsOf c
  let most := ((List.range us).map (Config.tsVideo (ceilDiv (unitCap c) 8))).foldl max 0
  7 * leastFrom (fun m => tsFits s c o (7 * m)) (us * (most + 4 + tsAudioSlots s c o)) 1

/-- The TS packets per picture of an output. -/
def tsPacketsOf (s : State) (c : ChanCfg) (o : Nat) (x : Output) : Nat :=
  x.tsPackets.getD (tsMin s c o)

/-! ### Shapers (R416, R419, R422, R425) -/

def mniIf (s : State) (n : Nat) : MniIf := tabGet MniIf.reset s.mni n

/-- Line overhead above the payload: 4 more bytes with a VLAN tag. -/
def vlanExtra (s : State) (n : Nat) : Nat := if (mniIf s n).vlanEn then 4 else 0

/-- Bytes of a whole pixel group (RFC 4175) by sampling and depth. -/
def pixelGroup (chroma depth : Nat) : Nat :=
  match chroma, depth with
  | 1, 8 => 6
  | 1, 10 => 15
  | 1, _ => 9
  | 2, 8 => 4
  | 2, 10 => 5
  | 2, _ => 6
  | _, 8 => 3
  | _, 10 => 15
  | _, _ => 9

/-- Payload bytes of a full packet of an uncompressed picture: whole pixel groups (R420). -/
def rawPayload (c : ChanCfg) (mtu : Nat) : Nat :=
  (mtu - 40) / pixelGroup c.chroma c.bitDepth * pixelGroup c.chroma c.bitDepth

/-- Bytes of the pixels of a picture, without padding. -/
def rawBytes (c : ChanCfg) : Nat :=
  let spp2 := if c.chroma = 1 then 3 else if c.chroma = 2 then 4 else 6
  ceilDiv (c.width * picHeight c * spp2 * c.bitDepth) 16

/-- The line rate in kb/s of `bytes` of pixels a picture in packets of at most `cap` payload bytes: over the whole
period, or for sender type N over its active part (R425). -/
def rawRate (bytes cap v num den height : Nat) (gapped : Bool) : Nat :=
  let line := bytes + ceilDiv bytes cap * (78 + v)
  if gapped then ceilDiv (8 * line * num * 65536) (den * 1000 * Config.rActive height)
  else ceilDiv (8 * line * num) (den * 1000)

/-- The default shaper rate of a leg in kb/s. -/
def defaultRate (s : State) (c : ChanCfg) (o : Nat) (x : Output) (l : Leg) : Nat :=
  let v := vlanExtra s l.iface
  match x.kind with
  | 2 =>
    rawRate (rawBytes c) (rawPayload c l.mtu) v (picNum c) c.rateDen (picHeight c) (x.senderType = some 0)
  | 3 | 4 | 5 =>
    let cap := ceilDiv (unitCap c) 8
    let x := 8 * (cap + (ceilDiv cap (l.mtu - 43) + 16) * (81 + v))
    ceilDiv (x * picNum c * unitsOf c) (c.rateDen * 1000)
  | 6 => ceilDiv (8 * (tsPacketsOf s c o x / 7) * (1394 + v) * picNum c) (c.rateDen * 1000)
  | k => Config.shaperDefault k

/-- The default burst of a leg: four packets. -/
def defaultBurst (s : State) (l : Leg) : Nat := 4 * (l.mtu + 38 + vlanExtra s l.iface)

/-- The shaper of a leg: what SHAPER sets, or the defaults. -/
def legRate (s : State) (c : ChanCfg) (o : Nat) (x : Output) (l : Leg) : Nat :=
  if x.shaperRate = 0 then defaultRate s c o x l else x.shaperRate

def legBurst (s : State) (x : Output) (l : Leg) : Nat :=
  if x.shaperBurst = 0 then defaultBurst s l else x.shaperBurst

/-- The rate limit of an interface in kb/s (R422). -/
def ifaceLimit (s : State) (n : Nat) : Nat :=
  match tabGet .absent s.mediaMode (n / 4) with
  | .breakout => 24250000
  | .absent => if n % 4 = 0 then 97000000 else 24250000
  | _ => if n % 4 = 0 then 97000000 else 24250000

/-- The shaper rates booked on an interface by queues, but for those of some outputs. -/
def ifaceRateBut (s : State) (skip : List Nat) (n : Nat) : Nat :=
  (s.outputs.map fun e =>
    if skip.contains e.1 then 0
    else ((e.2.legs.filter fun l => l.iface = n).map fun l =>
      (tabGet Queue.reset s.tmg.queues l.queue).rateKbps).sum).sum

/-- The shaper rates of a channel's own legs on an interface. -/
def ownRate (s : State) (c : ChanCfg) (n : Nat) : Nat :=
  (c.outputs.map fun o => match outputOf s o with
    | some x => ((x.legs.filter fun l => l.iface = n).map (legRate s c o x)).sum
    | none => 0).sum

/-- Whether the rates on some interface would exceed its limit (R422). -/
def ratesBad (s : State) (c : ChanCfg) : Bool :=
  (List.range 8).any fun n =>
    decide (0 < ownRate s c n) && decide (ifaceLimit s n < ifaceRateBut s c.outputs n + ownRate s c n)

/-- Whether a set shaper rate is below the default (R425). -/
def shaperBad (s : State) (c : ChanCfg) : Bool :=
  c.outputs.any fun o => match outputOf s o with
    | some x => x.legs.any fun l => decide (x.shaperRate ≠ 0 ∧ x.shaperRate < defaultRate s c o x l)
    | none => false

/-- Tokens of one line byte. -/
def tokScale : Nat := 524288000000

/-- Sets the queues of a channel's legs to their shapers. -/
def setShapers (s : State) (c : ChanCfg) : State :=
  c.outputs.foldl (fun s o => match outputOf s o with
    | some x => x.legs.foldl (fun s l =>
        { s with tmg := { s.tmg with queues := tabMod Queue.reset s.tmg.queues l.queue fun q =>
            { q with rateKbps := legRate s c o x l, burst := legBurst s x l,
                     tokens := legBurst s x l * tokScale, tokAt := s.tim.now } } }) s
    | none => s) s

/-! ### Processing paths (R205, R216) -/

/-- PIX.CONFIGURE with every default (R216). -/
def pixDefault (f : Option Format) : PixCfg :=
  { outColour := match f with | some f => f.colorimetry | none => 0, convert := 0, lut := 0,
    crop := match f with | some f => [0, 0, f.width, f.height] | none => [0, 0, 0, 0],
    scalerSet := 0, dither := 0, outRange := 0, insert := false, gfxWhite := 203, pathReq := 0xFF,
    path := none, share := 0 }

/-- The chroma code of an input's sampling: 4:2:0 (in a coded stream alone), 4:2:2, else 4:4:4. -/
def chromaOf (sampling : Nat) : Nat := if sampling = 1 then 1 else if sampling = 2 then 2 else 3

/-- Whether a channel uses a processing path (R205, R175). -/
def usesPath (c : ChanCfg) (f : Option Format) (p : PixCfg) : Bool :=
  match f with
  | none => p.convert ≠ 0 || p.lut ≠ 0 || p.outRange ≠ 0 || p.insert
  | some f =>
    p.convert ≠ 0 || p.lut ≠ 0 || p.outRange ≠ 0 || p.insert || p.outColour ≠ f.colorimetry ||
      chromaOf f.sampling ≠ c.chroma || f.sampling = 4 || f.depth ≠ c.bitDepth ||
      p.crop ≠ [0, 0, f.width, f.height] || p.crop.getD 2 0 ≠ c.width || p.crop.getD 3 0 ≠ c.height

/-- A channel's share of a path in samples per second of the 8.0 G that a path reads (R205). -/
def pathShare (c : ChanCfg) (f : Option Format) : Nat :=
  let inRate := match f with
    | some f => ceilDiv (f.width * f.height * f.rateNum) f.rateDen
    | none => 0
  max inRate (2 * ceilDiv (c.width * c.height * c.rateNum) c.rateDen)

/-- The share of a path that other booked channels use. -/
def pathUsedBut (s : State) (h p : Nat) : Nat :=
  ((handles.filter fun i => i ≠ h && booked (chan s i).state).map fun i =>
    match (chan s i).pix with
    | some x => if x.path = some p then x.share else 0
    | none => 0).sum

/-- The path a share takes: the one named, or the lowest whose remaining share fits. -/
def choosePath (s : State) (h share req : Nat) : Option Nat :=
  let fits (p : Nat) : Bool := decide (pathUsedBut s h p + share ≤ 8000000000)
  if req = 0xFF then (List.range 4).find? fits else if fits req then some req else none

/-- The processing with its path and share: the outer none says that no path fits. -/
def placePath (s : State) (h : Nat) (c : ChanCfg) (f : Option Format) (p : PixCfg) : Option PixCfg :=
  if usesPath c f p then
    match choosePath s h (pathShare c f) p.pathReq with
    | some q => some { p with path := some q, share := pathShare c f }
    | none => none
  else some { p with path := none, share := 0 }

/-! ### Budgets (R356) -/

/-- Bytes of one ring picture (R194). -/
def ringBytes (f : Format) : Nat :=
  packedBytes f.width (if f.scan = 1 then f.height / 2 else f.height) (chromaOf f.sampling) f.depth

/-- Bytes of a picture that a channel decodes, packed under R194: in a transcode the input's, else its own. -/
def decodedBytes (c : ChanCfg) (f : Option Format) : Nat :=
  match c.role, f with
  | .transcode, some f => ringBytes f
  | _, _ => packedBytes c.width (picHeight c) c.chroma c.bitDepth

/-- The maximum bit rate of a codec's stream limit (R194). -/
def streamBps (c : Codec) : Nat :=
  (Config.levelLimit (codecCode c) (if c = .avc then 156 else 186) 1 0).2.2.1

/-- Bytes per second of a coded input: its numerator over RATE_DEN × 8. -/
def codedInNum (c : ChanCfg) : Nat :=
  let k := if c.role = .transcode then c.inCodec else c.codec
  if k = .jpegxs then 8 * picNum c * decodedBytes c c.inFormat
  else streamBps k * c.rateDen

/-- The ingest budget of a channel (R356). -/
def ingestBudgetOf (c : ChanCfg) (i : Option Input) (p : PixCfg) : Nat :=
  match i with
  | none => 0
  | some i =>
    match i.format with
    | some f =>
      let src := packedBytes c.width (picHeight c) c.chroma c.bitDepth
      let g := if p.insert then 4 * c.width * picHeight c * 4 else 0
      let per := ringBytes f + if p.path.isSome then ringBytes f + src + g else 0
      budgetOf (picNum c * per) c.rateDen
    | none => budgetOf (codedInNum c) (8 * c.rateDen)

/-- The coding budget of a channel: both works of a transcode. -/
def codingBudgetOf (c : ChanCfg) (f : Option Format) : Nat :=
  let sIn := match f with
    | some f => ringBytes f
    | none => packedBytes c.width (picHeight c) c.chroma c.bitDepth
  let k := if c.role = .transcode then c.inCodec else c.codec
  let z := decodeSize c f
  let bits := if k = .jpegxs then 8 * z.num * decodedBytes c f else streamBps k * z.den
  let ch := match c.role, f with
    | .transcode, some f => chromaOf f.sampling
    | _, _ => c.chroma
  let dec := decodeBudget z.width z.height ch z.num z.den bits
  match c.role with
  | .encode => encodeBudget c sIn
  | .shadow => encodeBudget c sIn
  | .gateway => dec
  | .transcode => dec + encodeBudget c sIn

/-- The egress budget of a channel. -/
def egressOf (s : State) (c : ChanCfg) : Nat :=
  if c.role = .gateway then gatewayEgress c (legCount s c) else egressBudgetOf c (legCount s c)

/-- The relay budget of R457: 1.25 times the packed lines of the coded picture, with the header and CRC
of each packet of 1,024 bytes. -/
def relayBudgetOf (c : ChanCfg) : Nat :=
  let b := packedBytes c.width (picHeight c) c.chroma c.bitDepth
  budgetOf (picNum c * (b + 20 * ceilDiv b 1024)) c.rateDen

end Sys2Proof.Machine
end

