-- ==== Sys2Proof/Machine/Crypto.lean ====
section
/-! DEFINITION. Machine/Crypto.lean: the standards' algorithms that the spec names: SHA-256, SHA-384, HMAC-SHA-256 and
ECDSA P-384 verification, over bytes as numbers (R81, R90, R122). The spec names the algorithms and leaves their text to
the published standards (PRESUMED, assumption log 9). -/

namespace Sys2Proof.Machine

/-! ### SHA-2 -/

/-- A number from big-endian bytes. -/
def ofBe (bs : List Nat) : Nat := bs.foldl (fun n b => n * 256 + b % 256) 0

/-- Big-endian bytes of a number. -/
def beBytes : Nat → Nat → List Nat
  | 0, _ => []
  | n + 1, v => beBytes n (v / 256) ++ [v % 256]

/-- Round constants of SHA-256. -/
def sha256Rounds : List Nat :=
  [0x428A2F98, 0x71374491, 0xB5C0FBCF, 0xE9B5DBA5, 0x3956C25B, 0x59F111F1, 0x923F82A4, 0xAB1C5ED5,
   0xD807AA98, 0x12835B01, 0x243185BE, 0x550C7DC3, 0x72BE5D74, 0x80DEB1FE, 0x9BDC06A7, 0xC19BF174,
   0xE49B69C1, 0xEFBE4786, 0x0FC19DC6, 0x240CA1CC, 0x2DE92C6F, 0x4A7484AA, 0x5CB0A9DC, 0x76F988DA,
   0x983E5152, 0xA831C66D, 0xB00327C8, 0xBF597FC7, 0xC6E00BF3, 0xD5A79147, 0x06CA6351, 0x14292967] ++
  [0x27B70A85, 0x2E1B2138, 0x4D2C6DFC, 0x53380D13, 0x650A7354, 0x766A0ABB, 0x81C2C92E, 0x92722C85,
   0xA2BFE8A1, 0xA81A664B, 0xC24B8B70, 0xC76C51A3, 0xD192E819, 0xD6990624, 0xF40E3585, 0x106AA070,
   0x19A4C116, 0x1E376C08, 0x2748774C, 0x34B0BCB5, 0x391C0CB3, 0x4ED8AA4A, 0x5B9CCA4F, 0x682E6FF3,
   0x748F82EE, 0x78A5636F, 0x84C87814, 0x8CC70208, 0x90BEFFFA, 0xA4506CEB, 0xBEF9A3F7, 0xC67178F2]

/-- Starting hash of SHA-256. -/
def sha256Start : List Nat :=
  [0x6A09E667, 0xBB67AE85, 0x3C6EF372, 0xA54FF53A, 0x510E527F, 0x9B05688C, 0x1F83D9AB, 0x5BE0CD19]

/-- Round constants of SHA-384. -/
def sha512Rounds : List Nat :=
  [0x428A2F98D728AE22, 0x7137449123EF65CD, 0xB5C0FBCFEC4D3B2F, 0xE9B5DBA58189DBBC,
   0x3956C25BF348B538, 0x59F111F1B605D019, 0x923F82A4AF194F9B, 0xAB1C5ED5DA6D8118,
   0xD807AA98A3030242, 0x12835B0145706FBE, 0x243185BE4EE4B28C, 0x550C7DC3D5FFB4E2,
   0x72BE5D74F27B896F, 0x80DEB1FE3B1696B1, 0x9BDC06A725C71235, 0xC19BF174CF692694,
   0xE49B69C19EF14AD2, 0xEFBE4786384F25E3, 0x0FC19DC68B8CD5B5, 0x240CA1CC77AC9C65,
   0x2DE92C6F592B0275, 0x4A7484AA6EA6E483, 0x5CB0A9DCBD41FBD4, 0x76F988DA831153B5,
   0x983E5152EE66DFAB, 0xA831C66D2DB43210, 0xB00327C898FB213F, 0xBF597FC7BEEF0EE4,
   0xC6E00BF33DA88FC2, 0xD5A79147930AA725, 0x06CA6351E003826F, 0x142929670A0E6E70,
   0x27B70A8546D22FFC, 0x2E1B21385C26C926, 0x4D2C6DFC5AC42AED, 0x53380D139D95B3DF,
   0x650A73548BAF63DE, 0x766A0ABB3C77B2A8, 0x81C2C92E47EDAEE6, 0x92722C851482353B] ++
  [0xA2BFE8A14CF10364, 0xA81A664BBC423001, 0xC24B8B70D0F89791, 0xC76C51A30654BE30,
   0xD192E819D6EF5218, 0xD69906245565A910, 0xF40E35855771202A, 0x106AA07032BBD1B8,
   0x19A4C116B8D2D0C8, 0x1E376C085141AB53, 0x2748774CDF8EEB99, 0x34B0BCB5E19B48A8,
   0x391C0CB3C5C95A63, 0x4ED8AA4AE3418ACB, 0x5B9CCA4F7763E373, 0x682E6FF3D6B2B8A3,
   0x748F82EE5DEFB2FC, 0x78A5636F43172F60, 0x84C87814A1F0AB72, 0x8CC702081A6439EC,
   0x90BEFFFA23631E28, 0xA4506CEBDE82BDE9, 0xBEF9A3F7B2C67915, 0xC67178F2E372532B,
   0xCA273ECEEA26619C, 0xD186B8C721C0C207, 0xEADA7DD6CDE0EB1E, 0xF57D4F7FEE6ED178,
   0x06F067AA72176FBA, 0x0A637DC5A2C898A6, 0x113F9804BEF90DAE, 0x1B710B35131C471B,
   0x28DB77F523047D84, 0x32CAAB7B40C72493, 0x3C9EBE0A15C9BEBC, 0x431D67C49C100D4C,
   0x4CC5D4BECB3E42B6, 0x597F299CFC657E2A, 0x5FCB6FAB3AD6FAEC, 0x6C44198C4A475817]

/-- Starting hash of SHA-384. -/
def sha384Start : List Nat :=
  [0xCBBB9D5DC1059ED8, 0x629A292A367CD507, 0x9159015A3070DD17, 0x152FECD8F70E5939,
   0x67332667FFC00B31, 0x8EB44A8768581511, 0xDB0C2E0D64F98FA7, 0x47B5481DBEFA4FA4]

/-- What tells the two sizes of SHA-2 apart: the word in bits, the round constants, and the rotations of the four sigma
functions (the last figure of a small one is a shift). -/
structure Sha2 where
  width : Nat
  rounds : List Nat
  big0 : List Nat
  big1 : List Nat
  small0 : List Nat
  small1 : List Nat
  deriving DecidableEq, Repr

def sha256Kind : Sha2 :=
  { width := 32, rounds := sha256Rounds, big0 := [2, 13, 22], big1 := [6, 11, 25], small0 := [7, 18, 3],
    small1 := [17, 19, 10] }

def sha384Kind : Sha2 :=
  { width := 64, rounds := sha512Rounds, big0 := [28, 34, 39], big1 := [14, 18, 41], small0 := [1, 8, 7],
    small1 := [19, 61, 6] }

/-- A word turned right. -/
def turnRight (w n x : Nat) : Nat := (x >>> n ||| x <<< (w - n)) % 2 ^ w

/-- A big sigma function: three turns. -/
def sigmaBig (w : Nat) (r : List Nat) (x : Nat) : Nat :=
  turnRight w (r.getD 0 0) x ^^^ turnRight w (r.getD 1 0) x ^^^ turnRight w (r.getD 2 0) x

/-- A small sigma function: two turns and a shift. -/
def sigmaSmall (w : Nat) (r : List Nat) (x : Nat) : Nat :=
  turnRight w (r.getD 0 0) x ^^^ turnRight w (r.getD 1 0) x ^^^ x >>> r.getD 2 0

/-- The message schedule: so many further words from the last 16. -/
def shaWords (k : Sha2) : Nat → List Nat → List Nat
  | 0, win => win
  | n + 1, win =>
    let x := sigmaSmall k.width k.small1 (win.getD 14 0) + win.getD 9 0 +
      sigmaSmall k.width k.small0 (win.getD 1 0) + win.getD 0 0
    win.getD 0 0 :: shaWords k n (win.drop 1 ++ [x % 2 ^ k.width])

/-- One round on the eight working words. -/
def shaRound (k : Sha2) (v : List Nat) (kw : Nat × Nat) : List Nat :=
  let m := 2 ^ k.width
  let g (i : Nat) : Nat := v.getD i 0
  let choose := (g 4 &&& g 5) ^^^ ((m - 1 - g 4) &&& g 6)
  let t1 := (g 7 + sigmaBig k.width k.big1 (g 4) + choose + kw.1 + kw.2) % m
  let major := (g 0 &&& g 1) ^^^ (g 0 &&& g 2) ^^^ (g 1 &&& g 2)
  let t2 := sigmaBig k.width k.big0 (g 0) + major
  [(t1 + t2) % m, g 0, g 1, g 2, (g 3 + t1) % m, g 4, g 5, g 6]

/-- Bytes of a block. -/
def shaBlockBytes (k : Sha2) : Nat := k.width * 2

/-- The hash after a block. -/
def shaBlock (k : Sha2) (h block : List Nat) : List Nat :=
  let wb := k.width / 8
  let ws := (List.range 16).map fun i => ofBe ((block.drop (i * wb)).take wb)
  let v := (k.rounds.zip (shaWords k (k.rounds.length - 16) ws)).foldl (shaRound k) h
  (h.zip v).map fun e => (e.1 + e.2) % 2 ^ k.width

/-- The hash after so many blocks. -/
def shaBlocks (k : Sha2) : Nat → List Nat → List Nat → List Nat
  | 0, h, _ => h
  | n + 1, h, bs => shaBlocks k n (shaBlock k h (bs.take (shaBlockBytes k))) (bs.drop (shaBlockBytes k))

/-- A message with its padding: a one bit, zeros and the length in bits. -/
def shaPad (k : Sha2) (bs : List Nat) : List Nat :=
  let b := shaBlockBytes k
  let lenBytes := k.width / 4
  let used := (bs.length + 1 + lenBytes) % b
  bs ++ [0x80] ++ List.replicate (if used = 0 then 0 else b - used) 0 ++ beBytes lenBytes (8 * bs.length)

/-- All words of the hash of a message, as bytes. -/
def shaBytes (k : Sha2) (start bs : List Nat) : List Nat :=
  let p := shaPad k bs
  (shaBlocks k (p.length / shaBlockBytes k) start p).flatMap (beBytes (k.width / 8))

/-- SHA-256: 32 bytes. -/
def sha256 (bs : List Nat) : List Nat := shaBytes sha256Kind sha256Start bs

/-- SHA-384: 48 bytes. -/
def sha384 (bs : List Nat) : List Nat := (shaBytes sha384Kind sha384Start bs).take 48

/-- HMAC-SHA-256 under a key of at most 64 bytes. -/
def hmacSha256 (key msg : List Nat) : List Nat :=
  let pad (b : Nat) : List Nat := (key ++ List.replicate (64 - key.length) 0).map fun x => x ^^^ b
  sha256 (pad 0x5C ++ sha256 (pad 0x36 ++ msg))

/-! ### ECDSA on P-384 -/

/-- The field of P-384. -/
def curveP : Nat := 2 ^ 384 - 2 ^ 128 - 2 ^ 96 + 2 ^ 32 - 1

/-- The order of its base point. -/
def curveN : Nat := 0xFFFFFFFFFFFFFFFFFFFFFFFFFFFFFFFFFFFFFFFFFFFFFFFFC7634D81F4372DDF581A0DB248B0A77AECEC196ACCC52973

/-- The curve's constant; the other is -3. -/
def curveB : Nat := 0xB3312FA7E23EE7E4988E056BE3F82D19181D9C6EFE8141120314088F5013875AC656398D8A2ED19D2A85C8EDD3EC2AEF

/-- A point in Jacobian coordinates; z = 0 is the point at infinity. -/
structure CurvePoint where
  x : Nat
  y : Nat
  z : Nat
  deriving DecidableEq, Repr

def curveBase : CurvePoint :=
  { x := 0xAA87CA22BE8B05378EB1C71EF320AD746E1D3B628BA79B9859F741E082542A385502F25DBF55296C3A545E3872760AB7,
    y := 0x3617DE4A96262C6F5D9E98BF9292DC29F8F41DBD289A147CE9DA3113B5F0B8C00A60B1CE1D7E819D7A431D7C90EA0E5F,
    z := 1 }

/-- A difference in the field. -/
def fieldSub (a b : Nat) : Nat := (a + curveP - b % curveP) % curveP

/-- Twice a point. -/
def doublePoint (q : CurvePoint) : CurvePoint :=
  let d := q.z * q.z % curveP
  let g := q.y * q.y % curveP
  let b := q.x * g % curveP
  let a := 3 * (fieldSub q.x d * (q.x + d) % curveP) % curveP
  let x := fieldSub (a * a) (8 * b)
  { x := x, y := fieldSub (a * fieldSub (4 * b) x) (8 * g * g), z := 2 * q.y * q.z % curveP }

/-- The sum of two points. -/
def addPoint (q r : CurvePoint) : CurvePoint :=
  if q.z = 0 then r
  else if r.z = 0 then q
  else
    let zq := q.z * q.z % curveP
    let zr := r.z * r.z % curveP
    let u1 := q.x * zr % curveP
    let u2 := r.x * zq % curveP
    let s1 := q.y * zr * r.z % curveP
    let s2 := r.y * zq * q.z % curveP
    if u1 = u2 then (if s1 = s2 then doublePoint q else { x := 1, y := 1, z := 0 })
    else
      let h := fieldSub u2 u1
      let t := fieldSub s2 s1
      let hh := h * h % curveP
      let v := u1 * hh % curveP
      let x := fieldSub (t * t) (hh * h + 2 * v)
      { x := x, y := fieldSub (t * fieldSub v x) (s1 * hh * h), z := h * q.z * r.z % curveP }

/-- A multiple of a point, by the top `n` bits of a number of that width. -/
def timesPoint (k : Nat) (q : CurvePoint) : Nat → CurvePoint
  | 0 => { x := 1, y := 1, z := 0 }
  | n + 1 =>
    let r := doublePoint (timesPoint (k / 2) q n)
    if k % 2 = 1 then addPoint r q else r

/-- A power modulo a number, by the low `n` bits of the exponent. -/
def powMod (m b e : Nat) : Nat → Nat
  | 0 => 1 % m
  | n + 1 =>
    let r := powMod m b (e / 2) n
    if e % 2 = 1 then r * r * b % m else r * r % m

/-- Whether an ECDSA P-384 signature with SHA-384 (r then s, 48 bytes each) over bytes verifies under a public key in SEC 1
uncompressed form (97 bytes). -/
def ecdsaOk (key sig msg : List Nat) : Bool :=
  let qx := ofBe ((key.drop 1).take 48)
  let qy := ofBe ((key.drop 49).take 48)
  let r := ofBe (sig.take 48)
  let s := ofBe ((sig.drop 48).take 48)
  if key.length ≠ 97 ∨ key.headD 0 ≠ 4 ∨ sig.length ≠ 96 ∨ curveP ≤ qx ∨ curveP ≤ qy ∨ r = 0 ∨ s = 0 ∨ curveN ≤ r ∨
      curveN ≤ s ∨ qy * qy % curveP ≠ fieldSub (qx * qx * qx + curveB) (3 * qx) then false
  else
    let w := powMod curveN s (curveN - 2) 384
    let e := ofBe (sha384 msg)
    let q : CurvePoint := { x := qx, y := qy, z := 1 }
    let t := addPoint (timesPoint (e * w % curveN) curveBase 384) (timesPoint (r * w % curveN) q 384)
    let zz := t.z * t.z % curveP
    decide (t.z ≠ 0) && (decide (t.x = r * zz % curveP) ||
      (decide (r + curveN < curveP) && decide (t.x = (r + curveN) * zz % curveP)))

/-! ### CRC-32C -/

/-- One bit of CRC-32C, least significant first. -/
def crcBit (c : Nat) : Nat := if c % 2 = 1 then (c / 2) ^^^ 0x82F63B78 else c / 2

/-- CRC-32C of bytes (R92, R511, R512). -/
def crc32c (bs : List Nat) : Nat :=
  (bs.foldl (fun c b => (List.range 8).foldl (fun c _ => crcBit c) (c ^^^ (b % 256))) 0xFFFFFFFF) ^^^ 0xFFFFFFFF

end Sys2Proof.Machine
end

