-- ==== Sys2Proof/Machine/Ledger.lean ====
section
/-! DEFINITION. Machine/Ledger.lean: activity numbers (R31), the ledger's records of use (R39) and the budgets of
activities in a period (R32, R36, R37). -/

namespace Sys2Proof.Machine

/-- Activity numbers of a channel. -/
def actIngest (h : Nat) : Nat := 4 * h
def actCoding (h : Nat) : Nat := 4 * h + 1
def actEgress (h : Nat) : Nat := 4 * h + 2
def actMirror (h : Nat) : Nat := 4 * h + 3

/-- Monitor, host, firmware, and retry and takeover work. -/
abbrev actMonitor : Nat := 256
abbrev actHost : Nat := 257
abbrev actFirmware : Nat := 258
abbrev actRetry : Nat := 259

/-- Changes the record of an activity. -/
def modRec (a : Nat) (f : LedgerRec → LedgerRec) (s : State) : State :=
  { s with ledger := { s.ledger with recs := tabMod LedgerRec.zero s.ledger.recs a f } }

def addCycles (a n : Nat) (s : State) : State := modRec a (fun r => { r with cycles := r.cycles + n }) s

def addFabBytes (a n : Nat) (s : State) : State := modRec a (fun r => { r with fabBytes := r.fabBytes + n }) s

def addMemBytes (a n : Nat) (s : State) : State := modRec a (fun r => { r with memBytes := r.memBytes + n }) s

/-- A request or packet of an activity is held for want of budget. -/
def noteThrottle (a : Nat) (s : State) : State := modRec a (fun r => { r with throttledNow := true }) s

/-- A held request or packet of an activity is admitted after a time in ns. -/
def noteHold (a t : Nat) (s : State) : State := modRec a (fun r => { r with holdMax := max r.holdMax t }) s

/-- The memory budget of an activity in bytes per period (R36). -/
def memBudget (s : State) (a : Nat) : Nat :=
  if a = actMonitor then 4194304
  else if a = actHost then 1048576
  else if a = actFirmware then 524288
  else if a = actRetry then retryBudget s
  else
    let c := chan s (a / 4)
    match a % 4 with
    | 0 => c.ingestBudget
    | 1 => c.codingBudget
    | 2 => c.egressBudget
    | _ => c.mirrorBudget

end Sys2Proof.Machine
end

