-- ==== Sys2Proof/Machine/Periods.lean ====
section
/-! DEFINITION. Machine/Periods.lean: the tables of the dispatchers and cells, and what closes at the end of a ledger
period: ledger records (R39), the observations of TSK and CEL (R331) and of the egress queues (R429), and the bytes of the drawing engine (R497). -/

namespace Sys2Proof.Machine

/-! ### Dispatchers, cells and blocks (R310, R331) -/

def regionOf (s : State) (r : Nat) : Dispatcher := tabGet Dispatcher.reset s.tsk.regions r

def setRegion (r : Nat) (d : Dispatcher) (s : State) : State :=
  { s with tsk := { s.tsk with regions := tabSet s.tsk.regions r d } }

def taskAt (s : State) (r k : Nat) : Task := tabGet Task.free (regionOf s r).tasks k

def setTask (r k : Nat) (t : Task) (s : State) : State :=
  setRegion r { regionOf s r with tasks := tabSet (regionOf s r).tasks k t } s

def joinAt (s : State) (r k : Nat) : Join := tabGet Join.free (regionOf s r).joins k

def setJoin (r k : Nat) (j : Join) (s : State) : State :=
  setRegion r { regionOf s r with joins := tabSet (regionOf s r).joins k j } s

def cellAt (s : State) (c : Nat) : Cell := tabGet Cell.reset s.tsk.cells c

def setCell (c : Nat) (x : Cell) (s : State) : State :=
  { s with tsk := { s.tsk with cells := tabSet s.tsk.cells c x } }

/-- STATE of CEL_STATUSn: a retired cell, and one that the part lacks, reads 3 (R2, R6, R331). -/
def celState (s : State) (c : Nat) : Nat :=
  if absentUnit s (.cell (Fin.ofNat 1024 c)) || isRetired s (.cell (Fin.ofNat 1024 c)) then 3
  else (cellAt s c).state

def blockAt (s : State) (b : Nat) : Block := tabGet Block.reset s.tsk.blocks b

def setBlock (b : Nat) (x : Block) (s : State) : State :=
  { s with tsk := { s.tsk with blocks := tabSet s.tsk.blocks b x } }

/-- Every task with its home region and slot. -/
def allTasks (s : State) : List (Nat × Nat × Task) :=
  ((List.range 8).map fun r => (regionOf s r).tasks.map fun e => (r, e.1, e.2)).flatten

/-- The region in whose ready lists a task stands. -/
def listRegion (home : Nat) (t : Task) : Nat := t.lent.getD home

/-- The ready tasks of a region, its own and those lent to it. -/
def readyIn (s : State) (r : Nat) : List (Nat × Nat × Task) :=
  (allTasks s).filter fun e => e.2.2.inList && decide (listRegion e.1 e.2.2 = r)

/-- Notes the depths of a region's ready lists (R331). -/
def noteDepth (r : Nat) (s : State) : State :=
  let d := regionOf s r
  let depth (k : Nat) : Nat := min 65535 ((readyIn s r).filter fun e => e.2.2.desc.cls.val = k).length
  setRegion r { d with curDepths := (List.range 4).map fun k => max (d.curDepths.getD k 0) (depth k) } s

/-! ### The end of a period (R30, R39, R331, R429) -/

/-- A record at the end of a period: its counts become those of the last period. -/
def closeRec (r : LedgerRec) : LedgerRec :=
  { LedgerRec.zero with
    lastMem := r.memBytes, lastCycles := r.cycles, lastFab := r.fabBytes, lastHold := r.holdMax
    throttled := r.throttled + r.throttledNow.toNat }

/-- The ledger at the boundary: a new period with nothing used. -/
def closeLedger (start : Nat) (l : Ledger) : Ledger :=
  { periodStart := start, lastPeriodStart := l.periodStart, recs := l.recs.map fun e => (e.1, closeRec e.2)
    mcUsed := [], portUsed := [], vc0Used := [], lineUsed := [] }

/-- The observations of a region's dispatcher. -/
def closeDispatcher (start : Nat) (d : Dispatcher) : Dispatcher :=
  { d with period := start, depths := d.curDepths, curDepths := [0, 0, 0, 0], hist := d.curHist
           curHist := List.replicate 16 0 }

/-- Time that a cell has spent in the period on the attempt it runs. -/
def runningTime (s : State) (x : Cell) : Nat :=
  if x.task.isSome then s.tim.now - max x.startedAt (ns s.ledger.periodStart) else 0

/-- The observations of a cell. -/
def closeCell (s : State) (x : Cell) : Cell :=
  { x with busy := x.curBusy + runningTime s x, curBusy := 0, corrected := x.curCorrected, curCorrected := 0 }

/-- TSK and CEL at the boundary. -/
def closeTsk (s : State) : State :=
  let t := s.tsk
  let s1 := { s with tsk := { t with
      regions := t.regions.map fun e => (e.1, closeDispatcher s.ledger.periodStart e.2)
      cells := t.cells.map fun e => (e.1, closeCell s e.2), lent := t.curLent, curLent := 0 } }
  (t.regions.map Prod.fst).foldl (fun s r => noteDepth r s) s1

/-- The observation fields of a queue saturate at 2^32 - 1. -/
def sat32 (n : Nat) : Nat := min n 4294967295

/-- TMG_QOBS of a queue. -/
def closeQueue (q : Queue) : Queue :=
  let d := queuedBytes q.entries
  { q with resMax := sat32 q.curRes, lateMax := sat32 q.curLate, depthEnd := sat32 d, depthMax := sat32 q.curDepth
           curRes := 0, curLate := 0, curDepth := d }

/-- The largest depth of a leg's queue since the last OUT.STATUS. -/
def legDepth (t : Tab Queue) (l : Leg) : Leg :=
  { l with depthMax := max l.depthMax (tabGet Queue.reset t l.queue).depthMax }

/-- TMG at the boundary. -/
def closeTmg (s : State) : State :=
  let qs := s.tmg.queues.map fun e => (e.1, closeQueue e.2)
  { s with tmg := { s.tmg with queues := qs, period := s.ledger.periodStart }
           outputs := s.outputs.map fun e => (e.1, { e.2 with legs := e.2.legs.map (legDepth qs) }) }

/-- What closes when a ledger period ends and the next starts at an instant (ns): records and observations. -/
def closePeriod (start : Nat) (s : State) : State :=
  let s1 := closeTmg (closeTsk s)
  { s1 with ledger := closeLedger start s.ledger, mon := { s1.mon with drawUsed := 0 } }

end Sys2Proof.Machine
end

