-- ==== Sys2Proof/Machine/Clock.lean ====
section
/-! DEFINITION. Machine/Clock.lean: device time and the two PTP domains: selection, slewing, the one step, Syncs,
Announces and delay measurement (R146 to R157). -/

namespace Sys2Proof.Machine

/-! ### Domains -/

def domOf (s : State) (k : Nat) : Domain := s.tim.domains.getD k (Domain.reset 0 0)

def setDom (k : Nat) (d : Domain) (s : State) : State :=
  { s with tim := { s.tim with domains := s.tim.domains.set k d } }

/-- A domain's state changes: EV_TIME_DOMAIN (R158). -/
def setDomState (k st : Nat) (s : State) : State :=
  let d := domOf s k
  if d.state = st then s
  else raise evTimeDomain noChan (u8 k ++ u8 d.state ++ u8 st) (setDom k { d with state := st } s)

/-- A domain starts to acquire: its estimate is yet to be set (R152). -/
def acquire (k : Nat) (s : State) : State :=
  let s1 := setDomState k 2 s
  setDom k { domOf s1 k with good := 0, bad := 0, lastSync := none, syncPend := none } s1

/-! ### Selection (R153 to R157) -/

/-- The locked slot of lower PRIORITY, slot 0 on a tie. -/
def bestLocked (s : State) : Option Nat :=
  let l (k : Nat) : Bool := decide ((domOf s k).state = 3)
  if l 0 ∧ (l 1 = false ∨ (domOf s 0).priority ≤ (domOf s 1).priority) then some 0
  else if l 1 then some 1 else none

/-- The offset of a domain from device time in whole ns. -/
def aheadNs (d : Domain) : Int := d.ahead / 4294967296

/-- Whether an offset is below 1 ns. -/
def belowNs (x : Int) : Bool := decide (x.natAbs < 4294967296)

/-- Entry to holdover and its end. -/
def holdover (on : Bool) (s : State) : State :=
  raise evTimeHoldover noChan (u8 on.toNat)
    { s with tim := { s.tim with state := if on then 2 else s.tim.state,
                                 holdover := if on then 1 else 0 } }

/-- Device time follows a domain, at the frequency of its estimate: locked, or slewing while the offset is 1 ns or
more (R146, R154). -/
def follow (k : Nat) (s : State) : State :=
  { s with tim := { s.tim with selected := some k, holdover := 0, freq := (domOf s k).freq
                               state := if belowNs (domOf s k).ahead then 1 else 3 } }

/-- Selects under R153, with the cause that EV_TIME_SELECT gives. While device time free-runs nothing is
selected, and during a restart nothing changes but a loss enters holdover (R157; DEDUCED, assumption log 42).
-/
def reselect (cause : Nat) (s : State) : State :=
  let t := s.tim
  if t.state = 0 then s
  else
    let lostSel : Bool := match t.selected with
      | some k => decide ((domOf s k).state ≠ 3)
      | none => true
    if s.ctl.restart.active then
      if lostSel ∧ t.state ≠ 2 then
        holdover true s
      else s
    else
      let man := t.manual.filter fun k => (domOf s k).state = 3
      let s1 := { s with tim := { t with manual := man } }
      match man.or (bestLocked s1) with
      | none => if t.state = 2 then s1 else holdover true s1
      | some k =>
        let s2 := if t.state = 2 then holdover false s1 else s1
        if t.selected = some k then (if t.state = 2 then follow k s2 else s2)
        else
          let c := if lostSel ∧ t.state ≠ 2 then 2 else cause
          raise evTimeSelect noChan
            (u8 (t.selected.getD 0xFF) ++ u8 k ++ u8 c ++ [0] ++ u32 (twos 4 (aheadNs (domOf s2 k))))
            (follow k s2)

/-! ### The one step of device time (R156) -/

/-- Times that measure a duration since or until an instant move with the step, so that no timer sees it
(assumption log 15). -/
def shiftTimers (d : Int) (s : State) : State :=
  let mv (t : Nat) : Nat := ((t : Int) + d).toNat
  let mv16 (t : Nat) : Nat := ((t : Int) + d * 65536).toNat
  { s with
    ctl := { s.ctl with wdogLast := mv s.ctl.wdogLast
                        restart := { s.ctl.restart with
                          startedAt := mv s.ctl.restart.startedAt
                          mismatchTimes := s.ctl.restart.mismatchTimes.map mv } }
    flt := { s.flt with counts := s.flt.counts.map fun e => (e.1, mv e.2)
                        due := s.flt.due.map fun e => (e.1, e.2.1, mv e.2.2) }
    tim := { s.tim with refEdges := s.tim.refEdges.map mv16 }
    tsk := { s.tsk with
      regions := s.tsk.regions.map fun e => (e.1, { e.2 with tasks := e.2.tasks.map fun t =>
        (t.1, { t.2 with ready := t.2.ready.map mv16, entered := mv16 t.2.entered }) })
      cells := s.tsk.cells.map fun e =>
        (e.1, { e.2 with takeAt := mv16 e.2.takeAt, startedAt := mv16 e.2.startedAt })
      blocks := s.tsk.blocks.map fun e => (e.1, { e.2 with relockFrom := e.2.relockFrom.map mv16 }) }
    mem := { s.mem with mcs := s.mem.mcs.map fun e => (e.1, { e.2 with queue := e.2.queue.map fun x =>
      { x with arrived := mv16 x.arrived, admitted := x.admitted.map mv16 } }) }
    pipes := s.pipes.map fun e => (e.1, { e.2 with held := e.2.held.map fun x => (x.1, mv16 x.2) })
    evt := { s.evt with lastVector := s.evt.lastVector.map mv }
    mbx := { s.mbx with peerWaits := s.mbx.peerWaits.map fun w =>
      { w with since := mv w.since, limit := mv w.limit } }
    inputs := s.inputs.map fun e =>
      (e.1, { e.2 with lastPacket := mv e.2.lastPacket, absentAt := mv e.2.absentAt })
    policers := s.policers.map fun e => (e.1, { e.2 with last := mv e.2.last })
    pix := { s.pix with wrote := s.pix.wrote.map fun e => (e.1, mv16 e.2.1, e.2.2)
                        releases := s.pix.releases.map fun e => (e.1, e.2.1, mv16 e.2.2) }
    mon := { s.mon with drawAt := mv16 s.mon.drawAt }
    tmg := { s.tmg with queues := s.tmg.queues.map (fun e => (e.1, { e.2 with tokAt := mv16 e.2.tokAt }))
                        ifBusyUntil := s.tmg.ifBusyUntil.map fun e => (e.1, mv16 e.2) }
    fab := { s.fab with
      cands := s.fab.cands.map fun c => { c with heardAt := mv c.heardAt, advancedAt := mv c.advancedAt }
      selfSince := s.fab.selfSince.map mv
      lostSince := s.fab.lostSince.map fun e => (e.1, mv e.2)
      bookingSince := mv s.fab.bookingSince
      ports := s.fab.ports.map fun e =>
        (e.1, { e.2 with ackedAt := mv e.2.ackedAt, powerAt := mv e.2.powerAt,
                         vcq := e.2.vcq.map fun x => { x with since := mv16 x.since, heldAt := x.heldAt.map mv16 },
                         timeT1 := ((e.2.timeT1 : Int) + d * 4).toNat }) }
    prt := { s.prt with
      witnesses := s.prt.witnesses.map fun e =>
        (e.1, { e.2 with heard := e.2.heard.map mv, heardAt := mv e.2.heardAt,
                         shadowHeardAt := mv e.2.shadowHeardAt, silentSince := e.2.silentSince.map mv,
                         released := e.2.released.map mv, renewedAt := e.2.renewedAt.map mv })
      croakAt := s.prt.croakAt.map mv
      groups := s.prt.groups.map fun e =>
        (e.1, { e.2 with activeHeard := e.2.activeHeard.map mv, shadowHeard := e.2.shadowHeard.map mv,
                         witnessHeard := e.2.witnessHeard.map mv, leaseReq := e.2.leaseReq.map mv,
                         suspectAt := e.2.suspectAt.map mv }) }
    outputs := s.outputs.map fun e =>
      (e.1, { e.2 with legs := e.2.legs.map fun l => { l with arpAt := l.arpAt.map mv } }) }

/-- The first multiple of 100,000 ns after an instant of device time. -/
def nextPeriod (t : Nat) : Nat := (t / ns 100000 + 1) * 100000

/-- Device time steps to a domain's time: the ledger period ends, and the next starts at the first multiple of 100,000 ns
after it; every domain's offset falls by the step, pending domains are locked, and the selection follows (DESIGN CHOICE,
assumption log 15). -/
def stepTo (k : Nat) (s : State) : State :=
  let a := (domOf s k).ahead
  let whole := ((s.tim.now * 65536 + s.tim.phase : Nat) + a : Int).toNat
  let s1 := shiftTimers (a / 4294967296) (closePeriod (nextPeriod (whole / 65536)) s)
  let mv16 (t : Nat) : Nat := ((t : Int) + a / 65536).toNat
  let mvNs (t : Nat) : Nat := ((t : Int) + a / 4294967296).toNat
  let dom (d : Domain) : Domain :=
    { d with ahead := d.ahead - a, lastAnnounce := mvNs d.lastAnnounce,
             heard := d.heard.map fun h => { h with at_ := mvNs h.at_ },
             lastSync := d.lastSync.map fun m => { m with stamp := mv16 m.stamp },
             syncPend := d.syncPend.map fun m => { m with stamp := mv16 m.stamp },
             reqT3 := d.reqT3.map mv16, lastReq := d.lastReq.map mvNs,
             fabSync := d.fabSync.map fun e => (e.1, { e.2 with stamp := mv16 e.2.stamp }) }
  let s2 := { s1 with tim := { s1.tim with
      now := whole / 65536, phase := whole % 65536, freq := (domOf s k).freq, state := 1, selected := some k, holdover := 0,
      domains := s1.tim.domains.map dom } }
  let s3 := [0, 1].foldl (fun s j => if j = k ∨ (domOf s j).state = 5 then setDomState j 3 s else s) s2
  reselect 0 s3

/-- The step that a pending domain waits for, once no channel is active; to the other locked domain when the pending one
has been lost meanwhile. -/
def tryStep (s : State) : State :=
  if s.tim.state ≠ 0 ∨ 0 < activeCount s then s
  else match ([0, 1].find? fun k => (domOf s k).state = 5) <|> ([0, 1].find? fun k => (domOf s k).state = 3) with
    | some k => stepTo k s
    | none => s

def execTimeStep (s : State) : Out := .next (tryStep s)

/-- The 16th Sync below 100 ns (R152, R156; DEDUCED, assumption log 42). -/
def domainLocks (k : Nat) (s : State) : State :=
  if s.tim.state = 0 then
    if (domOf s (1 - k)).state = 5 then setDomState k 3 s
    else if 0 < activeCount s then setDomState k 5 s else stepTo k s
  else reselect 0 (setDomState k 3 s)

/-- A domain is lost: a manual choice of it ends, and device time goes to the other or holds over. -/
def domainLost (k : Nat) (s : State) : State :=
  let s1 := setDomState k 4 s
  let s2 := { s1 with tim := { s1.tim with manual := s1.tim.manual.filter fun j => j ≠ k } }
  reselect 2 s2

/-! ### Syncs (R150 to R152) -/

/-- A domain's measured offset from its master in 2^-32 ns: its estimate at the Sync's stamp against the
master's time there. -/
def offsetOf (d : Domain) (p : SyncMsg) : Int :=
  let master : Int := (p.origin * 65536 + p.correction + d.pathDelay : Nat)
  ((p.stamp : Int) - master) * 65536 + d.ahead

/-- 100 ns and 10 us in 2^-32 ns. -/
def lim100 : Nat := 100 * 4294967296
def lim10us : Nat := 10000 * 4294967296

/-- Device time follows the selected domain: its frequency word is the domain's, and an offset of 1 ns or
more is slewed (R146, R154). -/
def steer (k : Nat) (s : State) : State :=
  if s.tim.selected = some k ∧ (s.tim.state = 1 ∨ s.tim.state = 3) then follow k s else s

/-- The servo's correction of an estimate: free, but one that leaves an offset above 10 us above it for 16 Syncs (R152;
DEDUCED, assumption log 42). -/
def servoStep (off : Int) (pathDelay : Nat) : Int :=
  let c := Config.servo off pathDelay
  if off.natAbs ≤ lim10us then c
  else
    let m : Int := ((off.natAbs - lim10us) / 16 : Nat)
    max (-m) (min m c)

/-- A complete Sync of a domain's master: it corrects the estimate and its frequency (DEDUCED, assumption log 42). -/
def measure (k : Nat) (p : SyncMsg) (s : State) : State :=
  let d0 := domOf s k
  let s0 := if d0.state = 1 ∨ d0.state = 4 then acquire k s else s
  let d := domOf s0 k
  let off := offsetOf d p
  let first := d.state = 2 ∧ d.lastSync.isNone = true
  let d1 := { d with lastSync := some p, freq := Config.freqWord off d.freq }
  if d.state = 2 then
    if first ∨ lim100 ≤ off.natAbs then
      setDom k { d1 with ahead := d.ahead - off, good := if first then 1 else 0 } s0
    else
      let s1 := setDom k { d1 with good := d.good + 1 } s0
      if 16 ≤ d.good + 1 then domainLocks k s1 else s1
  else
    let bad := if off.natAbs ≤ lim10us then 0 else d.bad + 1
    let s1 := steer k (setDom k { d1 with bad := bad, ahead := d.ahead - servoStep off d.pathDelay } s0)
    if 16 ≤ bad then domainLost k s1 else s1

/-- Whether a media port receives. -/
def mediaHears (s : State) (p : Nat) : Bool :=
  mediaOn s p && !s.modes.portsOff.contains (.media (Fin.ofNat 2 p))

/-- The domain slots with a number. -/
def slotsOf (s : State) (n : Nat) : List Nat := [0, 1].filter fun k => (domOf s k).number = n

/-- A Sync from a media port: of the selected master, a two-step one waits for its Follow_Up. -/
def mediaSync (p : SyncMsg) (k : Nat) (s : State) : State :=
  let d := domOf s k
  if d.identity = p.identity ∧ d.source = p.source.val ∧ d.heard ≠ [] then
    if p.twoStep then setDom k { d with syncPend := some p } s else measure k p s
  else s

/-- The Sync intervals that the device accepts (R150). -/
def syncOk (p : SyncMsg) : Bool := decide (-7 ≤ p.logInterval ∧ p.logInterval ≤ -1)

/-- A Sync as a domain slot holds it, its stamp in 2^-16 ns. -/
def stamped (p : SyncMsg) : SyncMsg := { p with stamp := stampTime p.stamp }

def execPtpSyncRx (p : SyncMsg) (s : State) : Out :=
  if s.modes.mode = .boot ∨ 2 ≤ p.source.val ∨ mediaHears s p.source.val = false ∨ syncOk p = false then .next s
  else .next ((slotsOf s p.domain).foldl (fun s k => mediaSync (stamped p) k s) s)

/-- The Follow_Up of a two-step Sync gives its origin time (R150). -/
def followUp (source seq origin correction k : Nat) (s : State) : State :=
  let d := domOf s k
  match d.syncPend with
  | some p =>
    if p.source.val = source ∧ p.seq = seq then
      measure k { p with origin := origin, correction := p.correction + correction }
        (setDom k { d with syncPend := none } s)
    else s
  | none => s

def execPtpFollowUpRx (domain : Nat) (source : Fin 3) (seq origin correction : Nat) (s : State) : Out :=
  if s.modes.mode = .boot ∨ 2 ≤ source.val ∨ mediaHears s source.val = false then .next s
  else .next ((slotsOf s domain).foldl (fun s k => followUp source.val seq origin correction k s) s)

/-! ### Announces (R150, R151) -/

/-- Nanoseconds of a message interval of 2^n s. -/
def intervalNs (n : Int) : Nat :=
  if 0 ≤ n then 1000000000 * 2 ^ n.toNat else 1000000000 / 2 ^ (-n).toNat

/-- The order of best master selection: the dataset of IEEE 1588, then stepsRemoved, then MP0. -/
def announceKey (a : AnnounceMsg) : List Nat :=
  [a.priority1, a.clockClass, a.accuracy, a.variance, a.priority2, a.identity, a.stepsRemoved, a.port.val]

/-- Whether one list of numbers comes before another. -/
def before : List Nat → List Nat → Bool
  | a :: as, b :: bs => decide (a < b) || (decide (a = b) && before as bs)
  | _, _ => false

/-- The best of the announces heard. -/
def bestHeard : List Heard → Option Heard
  | [] => none
  | h :: hs => match bestHeard hs with
    | some b => if before (announceKey b.msg) (announceKey h.msg) then some b else some h
    | none => some h

/-- announceReceiptTimeout of a master: 3 by default (R150). -/
def receiptTimeout (a : AnnounceMsg) : Nat := a.receiptTimeout.getD 3

/-- How long after its last Announce a master is gone. -/
def receiptNs (a : AnnounceMsg) : Nat := receiptTimeout a * intervalNs a.logInterval

/-- The announces that have not timed out. -/
def freshHeard (now : Nat) (hs : List Heard) : List Heard :=
  hs.filter fun h => decide (now < h.at_ + receiptNs h.msg)

/-- Whether the device accepts an Announce's interval and timeout. -/
def announceOk (a : AnnounceMsg) : Bool :=
  decide (-3 ≤ a.logInterval ∧ a.logInterval ≤ 1 ∧ 2 ≤ receiptTimeout a ∧ receiptTimeout a ≤ 10)

/-- An Announce in a domain slot: the master is selected anew, and a slot that listens or is lost starts to
acquire. -/
def hear (a : AnnounceMsg) (k : Nat) (s : State) : State :=
  let d := domOf s k
  let now := nowNs s
  let others := (freshHeard now d.heard).filter fun h => h.msg.identity ≠ a.identity ∨ h.msg.port ≠ a.port
  let hs := others ++ [{ msg := a, at_ := now }]
  match bestHeard hs with
  | none => s
  | some b =>
    let last := ((hs.filter fun h => h.msg.identity = b.msg.identity).map Heard.at_).foldl max 0
    let s1 := setDom k { d with heard := hs, source := b.msg.port.val, clockClass := b.msg.clockClass,
                                identity := b.msg.identity, lastAnnounce := last,
                                timeoutNs := receiptNs b.msg } s
    if d.state = 1 ∨ d.state = 4 then acquire k s1 else s1

def execPtpAnnounceRx (a : AnnounceMsg) (s : State) : Out :=
  if s.modes.mode = .boot ∨ announceOk a = false ∨ mediaHears s a.port.val = false then .next s
  else .next ((slotsOf s a.domain).foldl (fun s k => hear a k s) s)

/-- The limit after which a domain fed by the fabric alone is lost: three announce intervals of 250 ms
(assumption log 16). -/
def fabTimeoutNs : Nat := 750000000

/-- Announce receipt timeout of a slot's selected master (DEDUCED, assumption log 42). -/
def execAnnounceTimeout (slot : Fin 2) (s : State) : Out :=
  let d := domOf s slot.val
  let lim := if d.source = 2 then fabTimeoutNs else d.timeoutNs
  if (d.state = 2 ∨ d.state = 3 ∨ d.state = 5) ∧ d.lastAnnounce + lim ≤ nowNs s then
    .next (domainLost slot.val
      (setDom slot.val { d with heard := d.heard.filter fun h => h.msg.identity ≠ d.identity } s))
  else .next s

/-! ### Delay measurement (R150) -/

/-- Whether a slot tracks a master on a media port. -/
def tracksMedia (d : Domain) : Bool :=
  decide ((d.state = 2 ∨ d.state = 3 ∨ d.state = 5) ∧ d.source < 2)

/-- Whether a Delay_Req is due: at the rate that the master's Delay_Resp gave. -/
def reqDue (d : Domain) (now : Nat) : Bool :=
  match d.lastReq with
  | some t => decide (t + intervalNs d.reqInterval ≤ now)
  | none => true

/-- A Delay_Req leaves, stamped at t3 in quarter ns. -/
def execPtpDelayReqSend (slot : Fin 2) (t3 : Nat) (s : State) : Out :=
  let d := domOf s slot.val
  if tracksMedia d ∧ s.modes.mode ≠ .boot ∧ mediaHears s d.source = true ∧ reqDue d (nowNs s) = true then
    .next (setDom slot.val { d with
      reqT3 := some (stampTime t3), lastReq := some (nowNs s), reqs := d.reqs + 1 } s)
  else .next s

/-- A Delay_Resp completes the measurement: the mean of the two directions. `t3` names the request by its stamp, `t4` is
the master's stamp in 2^-16 ns. A media port in port-off receives nothing (R53). -/
def delayResp (t3 t4 : Nat) (logInterval : Int) (k : Nat) (s : State) : State :=
  let d := domOf s k
  match d.lastSync with
  | some p =>
    if d.reqT3 = some t3 ∧ mediaHears s d.source = true then
      let t1 := p.origin * 65536 + p.correction
      let sum : Int := ((p.stamp : Int) - t1) + ((t4 : Int) - t3)
      setDom k { d with pathDelay := (sum / 2).toNat, reqInterval := logInterval, reqT3 := none } s
    else s
  | none => s

def execPtpDelayRespRx (domain : Nat) (t3 t4 : Nat) (logInterval : Int) (s : State) : Out :=
  if s.modes.mode = .boot then .next s
  else .next ((slotsOf s domain).foldl (fun s k => delayResp (stampTime t3) t4 logInterval k s) s)

/-! ### Time from the fabric (R160, R161) -/

/-- Whether a domain slot is heard on a media port in service. -/
def heardOnMedia (s : State) (k : Nat) : Bool :=
  (freshHeard (nowNs s) (domOf s k).heard).any fun h => mediaHears s h.msg.port.val

/-- A slot takes fabric time. -/
def useFabric (p : SyncMsg) (k : Nat) (s : State) : State :=
  if heardOnMedia s k then s
  else measure k p (setDom k { domOf s k with
    source := 2, identity := p.identity, pathDelay := 0, lastAnnounce := nowNs s } s)

/-- A Sync from a source node: a two-step one waits for its Follow_Up. -/
def fabricSync (node : Nat) (p : SyncMsg) (k : Nat) (s : State) : State :=
  if p.twoStep then setDom k { domOf s k with fabSync := tabSet (domOf s k).fabSync node p } s else useFabric p k s

/-- The Follow_Up of a source node's Sync. -/
def fabricFollow (node identity seq origin correction k : Nat) (s : State) : State :=
  let d := domOf s k
  match tabGet? d.fabSync node with
  | some p =>
    if p.identity = identity ∧ p.seq = seq then
      useFabric { p with origin := origin, correction := p.correction + correction } k
        (setDom k { d with fabSync := tabErase d.fabSync node } s)
    else s
  | none => s

end Sys2Proof.Machine
end

