-- ==== Sys2Proof/Machine/Frames.lean ====
section
/-! DEFINITION. Machine/Frames.lean: symbols, columns and frames of a fabric link, and the bytes of packets and link frames
(R357, R360 to R362, R384, R387, R392, R399). -/

namespace Sys2Proof.Machine

/-! ### Packets (R384, R387, R392) -/

/-- A packet's 16-byte header. -/
def pktHeader (k : FabPkt) : List Nat :=
  le 16 (k.dest % 512 + k.src % 512 * 2 ^ 9 + k.vc.val * 2 ^ 18 + k.type % 64 * 2 ^ 20 + k.length % 2048 * 2 ^ 26 +
    k.seq % 65536 * 2 ^ 37 + k.hops % 32 * 2 ^ 53 + k.mcast.toNat * 2 ^ 58 + k.resent.toNat * 2 ^ 59 +
    k.first.toNat * 2 ^ 60 + k.last.toNat * 2 ^ 61 + k.cls.val * 2 ^ 62 + k.dr.toNat * 2 ^ 63 + k.group % 4096 * 2 ^ 64 +
    k.level % 16 * 2 ^ 76 + k.tag % 256 * 2 ^ 80 + k.arg % 2 ^ 32 * 2 ^ 96)

/-- A HELLO's 32 bytes. -/
def helloBytes (h : HelloMsg) : List Nat :=
  u64 h.uid ++ u64 h.candUid ++ u32 h.candEpoch ++ u16 h.node ++ u16 h.ifRevMax ++ u8 h.priority ++ u8 h.candPriority ++
    u8 h.candDistance ++ u8 h.level ++ u8 h.mode ++ u8 h.port ++ u8 h.office.toNat ++ [0]

/-- A payload: a HELLO, the path of a directed route in bytes 0 to 30 with the ports of arrival from byte 32 on, or bytes
that their type gives (assumption log 59). -/
def payloadBytes (k : FabPkt) : List Nat :=
  match k.body with
  | .hello h => helloBytes h
  | .bytes bs => bs
  | _ =>
    let bs := Config.fabPayload k.src k.type k.seq k.length
    if k.dr then (k.route ++ List.replicate (31 - k.route.length) 0).take 31 ++ [0] ++ k.back ++ bs.drop (32 + k.back.length)
    else bs

/-- A packet whose bytes the CRC of its link covers, with the link sequence before them. -/
def numberedBytes (seq : Nat) (k : FabPkt) : List Nat := u16 seq ++ pktHeader k ++ payloadBytes k

/-! ### Symbols and frames (R360, R361) -/

/-- A symbol: a data byte, or one of the control symbols K28.5, K27.7, K28.1, K29.7, K23.7 and K28.3. -/
inductive Symbol where
  | data (b : Nat)
  | idl
  | sop
  | tmr
  | eop
  | pad
  | aln
  deriving DecidableEq, Repr

/-- Whether a packet travels as a timed packet: heartbeat frames and PTP event messages (R393). -/
def timedType (t : Nat) : Bool := decide (t = 1 ∨ t = 3)

/-- The frame of a packet with its link sequence. -/
def packetFrame (seq : Nat) (k : FabPkt) : List Symbol :=
  let bs := numberedBytes seq k
  (if timedType k.type then [.tmr, .data 0] else [.sop]) ++ (bs ++ u32 (crc32c bs)).map .data ++ [.eop]

/-- A link frame: its kind, 15 bytes of body and their CRC-32C. -/
def linkFrame (kind : Nat) (body : List Nat) : List Symbol :=
  .tmr :: ((kind :: body ++ u32 (crc32c (kind :: body))).map .data ++ [.eop])

/-- A frame on `n` lanes, filled with PAD to the end of its last column. -/
def inColumns (n : Nat) (f : List Symbol) : List Symbol := f ++ List.replicate (roundUp f.length n - f.length) .pad

/-- The symbols of a frame that the `i`-th active lane of `n` carries. -/
def onLane (n i : Nat) (f : List Symbol) : List Symbol :=
  (List.range (f.length / n)).map fun c => (inColumns n f).getD (c * n + i) .pad

/-- The descriptor of a lane, with the bitmap of active lanes (R362). -/
def laneDescriptor (lane active : Nat) : Nat := lane % 4 + 16 * (active % 16)

/-- The pair that every active lane sends once in 2,048 of its symbols. -/
def alnPair (lane active : Nat) : List Symbol := [.aln, .data (laneDescriptor lane active)]

/-! ### Link frame bodies (R361, R368, R372, R376, R399) -/

/-- The body of a link frame: its fields, then zeros up to 15 bytes. -/
def linkBody (bs : List Nat) : List Nat := bs ++ List.replicate (15 - bs.length) 0

/-- The eight 12-bit counts of a credit return, packed from bit 0 upwards in 12 bytes. -/
def creditBytes (counts : List Nat) : List Nat :=
  le 12 ((List.range 8).map fun i => counts.getD i 0 % 4096 * 4096 ^ i).sum

/-! ### What a line carries (R36, R357, R362, R372) -/

/-- Positions that the frame of a packet takes on `n` lanes: SOP or TMR with its kind, link sequence, header, payload, CRC and
EOP, to the end of the column. -/
def framePositions (n : Nat) (k : FabPkt) : Nat :=
  roundUp ((if timedType k.type then 2 else 1) + 2 + 16 + k.length + 4 + 1) n

/-- Symbols that a port's lanes carry in a period of 100 us, without the alignment pairs: 2 Gsymbol/s on each active lane,
and 125 Msymbol/s on one lane in keep-alive. -/
def lineSymbols (lanes : Nat) (keepAlive : Bool) : Nat :=
  (if keepAlive then 12500 else 200000 * lanes) * 2046 / 2048

end Sys2Proof.Machine
end

