-- ==== Sys2Proof/Machine/Fabric.lean ====
section
/-! DEFINITION. Machine/Fabric.lean: what fabric ports and the router share: transmission under credits and the
ledger, the hand-back of packets, and the routing of R387 and R392 to R401. -/

namespace Sys2Proof.Machine

def modFport (p : Nat) (f : FPort → FPort) (s : State) : State := setFport p (f (fport s p)) s

/-- A port in port-off, absent or retired (R4, R363, R506). -/
def portIsOff (s : State) (p : Nat) : Bool := (fport s p).hostOff || !fabOn s p

/-- The state of R363: a port that is not off starts its bring-up at once after a device reset. -/
def portState (s : State) (p : Nat) : Nat :=
  if portIsOff s p then 0 else if (fport s p).state = 0 then 1 else (fport s p).state

/-- A port in UP or KEEPALIVE. -/
def linkUp (s : State) (p : Nat) : Bool := decide (portState s p = 4 ∨ portState s p = 5)

/-- Bitmap of the active lanes. -/
def activeMap (f : FPort) : Nat := bitmap 4 fun i => (f.lanes.getD i Lane.reset).active

/-- The protocol level of a link: the lower of the two ends' (R391); before the first HELLO this module's. -/
def linkLevel (f : FPort) : Nat := if f.peerLevel = 0 then 2 else min 2 f.peerLevel

/-! ### Packets (R392, R393, R396) -/

/-- Header, payload and CRC. -/
def wireBytes (k : FabPkt) : Nat := 20 + k.length

/-- Credits that a packet uses. -/
def creditsOf (k : FabPkt) : Nat := ceilDiv (wireBytes k) 64

/-- The place of a VC and class among the eight credit counts. -/
def creditIx (vc : Fin 4) (cls : Nat) : Nat := vc.val * 2 + cls

/-- The virtual channel of a packet type. -/
def vcOfType (t : Nat) : Option Nat :=
  if 1 ≤ t ∧ t ≤ 6 then some 0
  else if t = 8 ∨ t = 9 then some 1
  else if t = 16 then some 2
  else if t = 24 ∨ t = 25 then some 3
  else none

/-- A header that R393 or R394 discards, whatever the link. -/
def headerBad (k : FabPkt) : Bool :=
  decide (vcOfType k.type ≠ some k.vc.val) || decide (1024 < k.length) || decide (k.received ≠ k.length) ||
    k.reservedSet

/-- Whether this module originates a packet. -/
def isOrigin (s : State) (k : FabPkt) : Bool := decide (k.src = s.fab.node) && !k.dr

/-! ### Counts of discarded packets (R400) -/

def countBadHdr (s : State) : State :=
  { s with fab := { s.fab with badHdr := rcAdd 65535 1 s.fab.badHdr } }

def countHopDrop (s : State) : State :=
  { s with fab := { s.fab with hopDrop := rcAdd 65535 1 s.fab.hopDrop } }

def countDupDrop (s : State) : State :=
  { s with fab := { s.fab with dupDrop := rcAdd 65535 1 s.fab.dupDrop } }

def countUnroutable (dest : Nat) (s : State) : State :=
  { s with fab := { s.fab with
      unroutable := rcAdd 65535 1 s.fab.unroutable
      secUnroutable := s.fab.secUnroutable + 1
      firstUnroutable := if s.fab.secUnroutable = 0 then dest else s.fab.firstUnroutable } }

/-! ### Transmission (R32, R36, R375, R396 to R399) -/

/-- An activity's bytes per port and period (R36, R38). -/
def fabActBudget (s : State) (a : Nat) : Nat :=
  if a = actFirmware then 8192
  else if a % 4 = 3 ∧ a < 256 then (chan s (a / 4)).fabBudget
  else 0

/-- The limit of VC0 on a port (R36). -/
def vc0Limit : Nat := 16000

/-- The replay buffer in bytes (R375; DEDUCED, assumption log 55). -/
def replayBytes : Nat := 65536

/-- Bytes of a frame as the replay buffer holds it: the link sequence and the packet. -/
def frameBytes (k : FabPkt) : Nat := 2 + wireBytes k

/-- The number of lanes of a set. -/
def laneCount (m : Nat) : Nat := ((List.range 4).filter (bitAt m)).length

/-- Lanes of a port's line that carry frames. -/
def lineLanes (s : State) (p : Nat) : Nat := if portState s p = 5 then 1 else laneCount (activeMap (fport s p))

/-- Whether a port's line has room for a packet's frame in the period: a narrowed port sends what its lanes carry (R357,
R370, R372; DESIGN CHOICE, assumption log 70). -/
def lineRoom (s : State) (p : Nat) (k : FabPkt) : Bool :=
  decide (tabGet 0 s.ledger.lineUsed p + framePositions (lineLanes s p) k ≤
    lineSymbols (lineLanes s p) (decide (portState s p = 5)))

/-- A frame takes its positions of the line. -/
def useLine (p : Nat) (k : FabPkt) (s : State) : State :=
  { s with ledger := { s.ledger with
      lineUsed := tabMod 0 s.ledger.lineUsed p (· + framePositions (lineLanes s p) k) } }

/-- Whether a port takes packets of a VC from the router: in keep-alive, and from the FAB.PORT that asks for it, only those
of VC0 (R372). -/
def portTakes (s : State) (vc : Fin 4) (p : Nat) : Bool :=
  decide (portState s p = 4 ∧ (fport s p).powerWant ≠ some 1) || (decide (vc = 0) && linkUp s p)

/-- Whether a packet's port state, line, buffer and credits let it go now (DESIGN CHOICE, assumption log 70). -/
def sendable (s : State) (p : Nat) (k : FabPkt) : Bool :=
  let f := fport s p
  portTakes s k.vc p && lineRoom s p k &&
    decide ((f.replay.map fun e => frameBytes e.2).sum + frameBytes k ≤ replayBytes) &&
    decide (creditsOf k ≤ f.credits.getD (creditIx k.vc k.cls.val) 0)

/-- Whether the budget of its activity, or the limit of VC0, holds a packet. -/
def overBudget (s : State) (p : Nat) (k : FabPkt) : Bool :=
  if k.vc = 0 then decide (vc0Limit < tabGet 0 s.ledger.vc0Used p + wireBytes k)
  else isOrigin s k &&
    decide (fabActBudget s k.activity < tabGet 0 s.ledger.portUsed (p * 1024 + k.activity) + wireBytes k)

/-- Whether a packet is one of an activity of this module, whose bytes a port counts (R32). -/
def counted (s : State) (k : FabPkt) : Bool := isOrigin s k && decide (k.vc ≠ 0)

/-- The first packet of each VC and class among those that no budget holds, and the activities of which the port holds a
packet. An activity of which a packet is held stays held for the rest of the period (R34), and delays no packet of
another (R35). -/
def heads (s : State) (p : Nat) : List Nat → List Nat → List VcEntry → List VcEntry × List Nat
  | _, held, [] => ([], held)
  | seen, held, e :: es =>
    let i := creditIx e.pkt.vc e.pkt.cls.val
    if seen.contains i then heads s p seen held es
    else if counted s e.pkt && (held.contains e.pkt.activity || overBudget s p e.pkt) then
      heads s p seen (if held.contains e.pkt.activity then held else held ++ [e.pkt.activity]) es
    else
      let r := heads s p (i :: seen) held es
      (e :: r.1, r.2)

/-- Frees the buffer that a packet held, for the next credit-return frame (R399). -/
def freeBuffer (inp : Option Nat) (cls : Nat) (k : FabPkt) (s : State) : State :=
  match inp with
  | none => s
  | some q => modFport q (fun f => { f with
      freed := f.freed.modify (creditIx k.vc cls) fun n => (n + creditsOf k) % 4096 }) s

/-- Sends a frame: numbered, kept in the replay buffer, its credits and bytes counted. -/
def transmit (p : Nat) (e : VcEntry) (s : State) : State :=
  let k := e.pkt
  let n := wireBytes k
  let own := counted s k
  let s1 := modFport p (fun f => { f with
    vcq := f.vcq.erase e, txSeq := (f.txSeq + 1) % 65536, replay := f.replay ++ [(f.txSeq, k)]
    ackedAt := if f.replay.isEmpty then nowNs s else f.ackedAt
    credits := f.credits.modify (creditIx k.vc k.cls.val) fun c => c - creditsOf k }) s
  let s2 := { s1 with
    fab := { s1.fab with sentPkts := s1.fab.sentPkts ++ [(p, (fport s p).txSeq, k)] }
    ledger := { s1.ledger with
      vc0Used := if k.vc = 0 then tabMod 0 s1.ledger.vc0Used p (· + n) else s1.ledger.vc0Used
      portUsed := if own then tabMod 0 s1.ledger.portUsed (p * 1024 + k.activity) (· + n)
        else s1.ledger.portUsed } }
  let s3 := if own then
      noteHold k.activity ((s.tim.now - e.heldAt.getD s.tim.now) / 65536) (addFabBytes k.activity n s2)
    else s2
  freeBuffer e.inPort e.inCls k (useLine p k s3)

/-- Sends the next packet that may go: VC0 first, then the oldest of the others (R398). -/
def pumpOne (p : Nat) (s : State) : Option State :=
  let ok := (heads s p [] [] (fport s p).vcq).1.filter fun e => sendable s p e.pkt && !overBudget s p e.pkt
  match ok.find? fun e => e.pkt.vc = 0 with
  | some e => some (transmit p e s)
  | none => match ok with
    | e :: _ => some (transmit p e s)
    | [] => none

/-- Sends what may go, `fuel` packets at most. -/
def pumpN (p : Nat) : Nat → State → State
  | 0, s => s
  | fuel + 1, s => match pumpOne p s with
    | some t => pumpN p fuel t
    | none => s

/-- Notes the packets that the port holds for want of budget: their activities are throttled in the period (R34,
R39). -/
def noteHeld (p : Nat) (s : State) : State :=
  let held := (heads s p [] [] (fport s p).vcq).2
  let mark (e : VcEntry) : VcEntry :=
    if counted s e.pkt && held.contains e.pkt.activity then { e with heldAt := some (e.heldAt.getD s.tim.now) } else e
  if held = [] then s
  else modFport p (fun f => { f with vcq := f.vcq.map mark }) (held.foldl (fun s a => noteThrottle a s) s)

/-- Sends from a port's queues what may go now (DESIGN CHOICE, assumption log 70). -/
def pump (p : Nat) (s : State) : State := noteHeld p (pumpN p (fport s p).vcq.length s)

/-- Sends from every port. -/
def pumpAll (s : State) : State := (List.range 8).foldl (fun s p => pump p s) s

/-! ### Routing (R387, R395, R397, R400, R401) -/

/-- What a router does with a unicast packet. -/
inductive Hop where
  | deliver
  | out (p : Nat)
  | discard
  deriving DecidableEq, Repr

/-- The entry of the destination decides (R400). -/
def nextHop (s : State) (k : FabPkt) : Hop :=
  let e := tabGet 0 s.fab.ucast k.dest
  if bitAt e 13 then .deliver
  else if bitAt e 7 = false then .discard
  else if portTakes s k.vc (bitsAt e 0 3) then .out (bitsAt e 0 3)
  else if bitAt e 6 = true ∧ portTakes s k.vc (bitsAt e 3 3) = true then .out (bitsAt e 3 3)
  else .discard

/-- The port group of a port (R397). -/
def groupOfPort (s : State) (p : Nat) : Nat := bitsAt s.fab.group (2 * p) 2

/-- The class in which a packet leaves on a port (R397). -/
def outClass (s : State) (inp : Option Nat) (p : Nat) (cls : Fin 2) : Fin 2 :=
  if bitAt s.fab.dateline p then 1
  else match inp with
    | some q => if groupOfPort s q ≠ groupOfPort s p then 0 else cls
    | none => 0

/-- Enters a packet at the end of a port's queues, ahead of those that came in the same cycle on higher input ports (R40). -/
def enterOrder (e : VcEntry) : List VcEntry → List VcEntry
  | [] => [e]
  | x :: xs =>
    if x.since = e.since ∧ e.input < x.input ∧ x.pkt.resent = false then e :: x :: xs else x :: enterOrder e xs

/-- Enters a packet from a port in a port's queues, at its place or ahead of what waits, and sends what may go; `buffer` is
the port whose buffer it holds. -/
def queuePort (front : Bool) (inp buffer : Option Nat) (p : Nat) (k : FabPkt) (s : State) : State :=
  let e : VcEntry :=
    { pkt := { k with cls := outClass s inp p k.cls, level := linkLevel (fport s p) },
      input := inp.getD 8, inPort := buffer,
      inCls := k.cls.val, since := s.tim.now, heldAt := none }
  pump p (modFport p (fun f => { f with vcq := if front then e :: f.vcq else enterOrder e f.vcq }) s)

/-- Enters a packet that holds the buffer of the port it came from. -/
def enterPort (front : Bool) (inp : Option Nat) (p : Nat) (k : FabPkt) (s : State) : State :=
  queuePort front inp inp p k s

/-- A packet that goes on from one router to the next crosses it. -/
def crossed (inp : Option Nat) (k : FabPkt) : FabPkt :=
  if inp.isSome then { k with hops := k.hops + 1 } else k

/-- A notice of time sources (type 0x06, TAG 4): this module is a source of the domain numbers for which it names this
module's address (R161). -/
def nameSources (named : List (Nat × Nat)) (s : State) : State :=
  { s with tim := { s.tim with sources := (named.filter fun e => decide (e.2 = s.fab.node)).map Prod.fst } }

/-- The manager forgets one booking of a node for a destination and a number of bytes (R403). -/
def unbookRoute (node dest bytes : Nat) (s : State) : State :=
  match s.fab.bookings.find? fun b => decide (b.node = node ∧ b.dest = dest ∧ b.bytes = bytes) with
  | some b => { s with fab := { s.fab with bookings := s.fab.bookings.erase b } }
  | none => s

/-! ### Time packets (R159 to R161) -/

/-- The mean delay of a link in 2^-16 ns. -/
def linkDelay (f : FPort) : Nat := f.delays.sum * 8192 / max 1 f.delays.length

/-- A packet as it arrived on a port: a Sync has gained the delay of the link. -/
def afterLink (s : State) (inp : Option Nat) (k : FabPkt) : FabPkt :=
  match inp, k.body with
  | some q, .sync m r => { k with body := .sync { m with correction := m.correction + linkDelay (fport s q) } r }
  | _, _ => k

/-- The payload of a packet with the time that a Sync stays in this router. -/
def stayingBody (r : Nat) : FabBody → FabBody
  | .sync m _ => .sync m r
  | b => b

/-- A packet that goes on: a Sync has gained the time that it stays in this router. -/
def afterStay (inp : Option Nat) (k : FabPkt) : FabPkt :=
  match inp, k.body with
  | some _, .sync m r => { k with body := .sync { m with correction := m.correction + r } 0 }
  | _, _ => k

/-- A time packet serves the slots of its domain that no media port in service hears, once its link's delay is measured
(DEDUCED, assumption log 59). -/
def timeArrives (inp : Option Nat) (k : FabPkt) (s : State) : State :=
  match inp with
  | none => s
  | some q =>
    if (fport s q).delays.length < 16 then s
    else match k.body with
      | .sync m _ =>
        (slotsOf s m.domain).foldl (fun s n => fabricSync k.src (stamped { m with source := 2 }) n s) s
      | .followUp d id seq origin corr =>
        (slotsOf s d).foldl (fun s n => fabricFollow k.src id seq origin corr n s) s
      | _ => s

/-- Delivers a packet to this module; a unicast packet must be in sequence (R395; DESIGN CHOICE, assumption log
56; DEDUCED, assumption log 57). -/
def deliverPkt (inp : Option Nat) (k : FabPkt) (s : State) : State :=
  let s1 := freeBuffer inp k.cls.val k s
  let key := k.src * 4 + k.vc.val
  let keep (s : State) : State :=
    let t := { s with fab := { s.fab with delivered := s.fab.delivered ++ [k] } }
    match k.body with
    | .sources named => if k.type = 6 ∧ k.tag = 4 then nameSources named t else t
    | .unbook dest bytes => if k.type = 6 ∧ k.tag = 2 then unbookRoute k.src dest bytes t else t
    | _ => t
  if k.mcast || k.dr then keep s1
  else
    let n := (tabGet? s1.fab.rx key).getD k.seq
    if (k.seq + 65536 - n % 65536) % 65536 < 32768 then
      keep { s1 with fab := { s1.fab with rx := tabSet s1.fab.rx key ((k.seq + 1) % 65536) } }
    else countDupDrop s1

/-- Whether a packet is transit traffic that a module in DORMANT does not forward (R48; DEDUCED, assumption log 56). -/
def barred (s : State) (inp : Option Nat) (k : FabPkt) : Bool :=
  inp.isSome && decide (s.modes.mode = .dormant ∧ k.vc ≠ 0)

/-- Routes a unicast packet. -/
def routeUnicast (front : Bool) (inp : Option Nat) (k : FabPkt) (s : State) : State :=
  match nextHop s k with
  | .deliver => deliverPkt inp k s
  | .discard => countUnroutable k.dest (freeBuffer inp k.cls.val k s)
  | .out p =>
    if inp.isSome ∧ 31 ≤ k.hops then countHopDrop (freeBuffer inp k.cls.val k s)
    else if barred s inp k then countUnroutable k.dest (freeBuffer inp k.cls.val k s)
    else enterPort front inp p (crossed inp k) s

/-- Whether a link carries a multicast group: at protocol level 1 only groups 0 to 1,023 exist (R391). -/
def levelTakes (s : State) (p : Nat) (k : FabPkt) : Bool := decide (k.group < 1024 ∨ linkLevel (fport s p) = 2)

/-- Routes a multicast packet (R401; DESIGN CHOICE, assumption log 56). -/
def routeMulticast (inp : Option Nat) (k0 : FabPkt) (s : State) : State :=
  let k := afterLink s inp k0
  let e := tabGet 0 s.fab.mcast k.group
  let s1 := freeBuffer inp k.cls.val k s
  let s2 := if bitAt e 8 then timeArrives inp k (deliverPkt none k s1) else s1
  let outs := (List.range 8).filter fun p =>
    bitAt e p && decide (inp ≠ some p) && portTakes s k.vc p && !barred s inp k && levelTakes s p k
  if inp.isSome ∧ 31 ≤ k.hops then (if outs.isEmpty then s2 else countHopDrop s2)
  else outs.foldl (fun s p => queuePort false inp none p (crossed inp (afterStay inp k)) s) s2

/-- A blank packet on VC0. -/
def blankPkt : FabPkt :=
  { dest := 0, src := 0, vc := 0, type := 5, length := 0, seq := 0, hops := 0, mcast := false, resent := false,
    first := true, last := true, cls := 0, dr := false, group := 0, level := 2, tag := 0, arg := 0,
    received := 0, reservedSet := false, route := [], back := [], activity := actFirmware, body := .plain }

/-- The domain numbers that this module has locked on a media port. -/
def lockedOnMedia (s : State) : List Nat :=
  ([0, 1].filter fun k => decide ((domOf s k).state = 3 ∧ (domOf s k).source < 2)).map fun k => (domOf s k).number

/-- This module as a node of its own fabric, and what it answers a port request with (R388). -/
def selfReport (s : State) : NodeReport :=
  { uid := s.fuses.uid, valid := s.fab.valid, node := s.fab.node, level := 2,
    dormant := decide (s.modes.mode = .dormant), locked := lockedOnMedia s, path := [],
    ports := (List.range 8).map fun p =>
      let f := fport s p
      { state := portState s p, lanes := activeMap f, peerUid := f.peerUid, peerPort := f.peerPort } }

/-- Sends a directed-route packet of discovery along a path; the length of its payload is a free value. -/
def sendDirected (tag : Nat) (body : FabBody) (path : List Nat) (s : State) : State :=
  match path with
  | [] => s
  | p :: _ =>
    let (n, s1) := takeFree s
    let len := n % 1025
    if portTakes s1 0 p then
      enterPort false none p { blankPkt with tag := tag, dr := true, route := path, length := len,
                                             received := len, body := body } s1
    else s1

/-- Routes a directed-route packet (R387). A node that the path takes no further is its target, and answers a
port request along the path turned round. -/
def routeDirected (inp : Option Nat) (k : FabPkt) (s : State) : State :=
  if k.vc ≠ 0 ∨ (k.type ≠ 5 ∧ k.type ≠ 6) then countBadHdr (freeBuffer inp k.cls.val k s)
  else
    match inp with
    | none => match k.route with
      | p :: _ => if portTakes s k.vc p then enterPort false none p k s else s
      | [] => s
    | some q =>
      let back := k.back ++ [q]
      match k.route[k.hops + 1]? with
      | some o =>
        if 31 ≤ k.hops then countHopDrop (freeBuffer inp k.cls.val k s)
        else if portTakes s k.vc o then enterPort false inp o { k with hops := k.hops + 1, back := back } s
        else freeBuffer inp k.cls.val k s
      | none =>
        let s1 := deliverPkt inp { k with back := back } s
        if k.type = 5 ∧ k.tag = 2 then sendDirected 3 (.report (selfReport s1)) back.reverse s1 else s1

/-- Routes a packet that arrived on a port, or that this module injects. A HELLO goes one hop. -/
def routePacket (inp : Option Nat) (k : FabPkt) (s : State) : State :=
  let levelBad : Bool := match inp with
    | some q => decide (linkLevel (fport s q) < k.level)
    | none => false
  if headerBad k || levelBad then countBadHdr (freeBuffer inp k.cls.val k s)
  else if k.dr then routeDirected inp k s
  else if k.type = 5 ∧ k.tag = 1 ∧ inp.isSome = true then
    { freeBuffer inp k.cls.val k s with fab :=
        { (freeBuffer inp k.cls.val k s).fab with delivered := s.fab.delivered ++ [k] } }
  else if k.mcast then routeMulticast inp k s
  else routeUnicast false inp k s

/-- A packet that this module originates: numbered in its stream, from its own address; without an address only
directed routes go out (R382, R395). -/
def inject (k : FabPkt) (s : State) : State :=
  if k.dr then routePacket none { k with hops := 0, resent := false } s
  else if !s.fab.valid then s
  else
    let key := k.dest * 4 + k.vc.val
    let n := tabGet 0 s.fab.tx key
    let k1 := { k with src := s.fab.node, hops := 0, resent := false, seq := if k.mcast then k.seq else n }
    let s1 := if k.mcast then s else { s with fab := { s.fab with tx := tabSet s.fab.tx key ((n + 1) % 65536) } }
    routePacket none k1 s1

/-- Sends so many bytes in packets of at most 1,024, made after one of them; FIRST and LAST mark their ends. -/
def sendRun (k : FabPkt) (bytes : Nat) (s : State) : State :=
  let n := max 1 (ceilDiv bytes 1024)
  (List.range n).foldl (fun s i =>
    let len := min 1024 (bytes - 1024 * i)
    inject { k with length := len, received := len, first := k.first && decide (i = 0)
                    last := k.last && decide (i + 1 = n) } s) s

/-- Sends a message of so many bytes to a node in mailbox packets on VC3, which count for firmware's activity (R125). -/
def sendMessage (type dest bytes : Nat) (s : State) : State :=
  sendRun { blankPkt with type := type, vc := 3, dest := dest } bytes s

/-- Sends one packet of laid-out bytes to a node. -/
def sendBytes (type : Nat) (vc : Fin 4) (tag dest : Nat) (bs : List Nat) (s : State) : State :=
  inject { blankPkt with type := type, vc := vc, tag := tag, dest := dest, length := bs.length, received := bs.length
                         body := .bytes bs } s

/-- Tells the fabric manager, where one holds office, of a booking: a request for bytes to a destination, or the release of
one (R403; DESIGN CHOICE, assumption log 58). -/
def tellManager (b : FabBody) (bytes : Nat) (s : State) : State :=
  match s.fab.office with
  | some (node, _) => inject { blankPkt with type := 6, tag := 2, dest := node, arg := bytes, body := b } s
  | none => s

/-! ### Leaving UP (R371, R404) -/

/-- Routes packets again that a port hands back: unicast ones with RESENT set and ahead of what waits, the
others are discarded (DESIGN CHOICE, assumption log 56). -/
def handBack (ks : List FabPkt) (s : State) : State :=
  ((ks.filter fun k => !(k.mcast || k.dr || decide (k.type = 5))).reverse).foldl
    (fun s k => routeUnicast true none { k with resent := true } s) s

/-- Routes again the packets that wait at a port. -/
def reroute (es : List VcEntry) (s : State) : State :=
  es.foldl (fun s e =>
    if e.pkt.mcast || e.pkt.dr || decide (e.pkt.type = 5) then freeBuffer e.inPort e.inCls e.pkt s
    else match nextHop s e.pkt with
      | .out p => pump p (modFport p (fun f => { f with vcq := f.vcq ++ [e] }) s)
      | .deliver => deliverPkt e.inPort e.pkt s
      | .discard => countUnroutable e.pkt.dest (freeBuffer e.inPort e.inCls e.pkt s)) s

/-- A lane that carries nothing. -/
def idleLane (l : Lane) : Lane :=
  { l with active := false, deskewed := false, commaOk := false, lock := false, usable := false }

/-- A port leaves UP or KEEPALIVE for a state: its lanes fall idle, and its packets go to other ports. -/
def leaveLink (p st reason : Nat) (s : State) : State :=
  let f := fport s p
  let s1 := setFport p { f with
    state := st, reason := reason, lanes := f.lanes.map idleLane, ckLocked := false, replay := [], vcq := []
    resendsNoAck := 0, sinceAck := 0, delays := [], powerWant := none, peerUsable := 0 } s
  reroute f.vcq (handBack (f.replay.map Prod.snd) s1)

/-- The link is lost (R371). -/
def linkLost (p reason : Nat) (s : State) : State :=
  let n := (fport s p).replay.length
  raise evFabLinkLost noChan (u8 p ++ u8 reason ++ [0, 0] ++ u32 n) (leaveLink p 1 reason s)

/-- EV_FAB_LINK (DEDUCED, assumption log 55). -/
def evLink (p old new : Nat) (s : State) : State :=
  let f := fport s p
  raise evFabLink noChan (u8 p ++ u8 old ++ u8 new ++ u8 f.reason ++ u8 (activeMap f)) s

/-- Entry to UP: the link sequences and the credits start anew; frames that were not acknowledged are sent again
as new ones (DEDUCED, assumption log 55). -/
def enterUp (p : Nat) (s : State) : State :=
  let again (f : FPort) : List VcEntry := f.replay.map fun e =>
    { pkt := e.2, input := 8, inPort := none, inCls := 0, since := s.tim.now, heldAt := none }
  pump p (modFport p (fun f => { f with
    state := 4, txSeq := 0, rxSeq := 0, replay := [], resendsNoAck := 0, sinceAck := 0, credits := fullCredits
    freed := List.replicate 8 0, peerCounts := List.replicate 8 0, powerWant := none, clockLosses := 0
    vcq := again f ++ f.vcq }) s)

end Sys2Proof.Machine
end

