-- ==== Sys2Proof/Machine/Mbx.lean ====
section
/-! DEFINITION. Machine/Mbx.lean: the mailbox slots, doorbells and messages (R104 to R125, R145, R390). -/

namespace Sys2Proof.Machine

/-! ### Register access (R78, R545) -/

/-- The bus-matrix address of a register-space offset. -/
def regAddr (off : Nat) : BitVec 40 := BitVec.ofNat 40 (0x40000000 + off)

/-- Whether a master's requests reach the register space (R78); PCIe by BAR0. -/
def regPath (s : State) (m : Master) : Bool :=
  match m with
  | .cpuData => true
  | .pcie => true
  | .dma => true
  | .debug => s.ctl.debugUnlocked
  | _ => false

/-- Whether a master's requests reach the mailbox slots (R78). -/
def slotPath (s : State) (m : Master) : Bool := decide (m = .mirror) || regPath s m

/-! ### Vectors (R129, R542) -/

/-- Sends an MSI-X vector, or holds it pending while it is masked; nothing goes out while bus mastering or
MSI-X is off. -/
def sendVector (v : Nat) (s : State) : State :=
  let e := s.evt
  if !(e.busMaster && e.msixEn) then s
  else if e.masked.contains v then
    { s with evt := { e with pba := if e.pba.contains v then e.pba else e.pba ++ [v] } }
  else { s with evt := { e with sent := e.sent ++ [v] } }

/-! ### Messages as bytes (R113, R115) -/

/-- A TLV as bytes, padded to a multiple of 4. -/
def tlvBytes (t : Tlv) : List Nat :=
  u16 t.tag ++ u16 t.len ++ le t.len t.val ++ List.replicate (roundUp t.len 4 - t.len) 0

/-- The TLV payload of a message as bytes. -/
def payload (ts : List Tlv) : List Nat := (ts.map tlvBytes).flatten

/-- A response as bytes. -/
def respBytes (r : Resp) : List Nat :=
  let p := payload r.tlvs
  u16 r.opcode ++ u16 (1 + if r.more then 4 else 0) ++ u32 r.seq.toNat ++ u16 r.channel ++ u16 r.rev ++
    u16 p.length ++ u16 r.status ++ u32 r.detail ++ u32 0 ++ u64 r.accepted ++ p

/-- The TLVs of a payload, and the tag of one that the payload cuts short. Padding bytes are skipped whatever their value
(DESIGN CHOICE, assumption log 82). `fuel` bounds the TLVs. -/
def parseTlvs : Nat → List Nat → List Tlv × Option Nat
  | _, [] => ([], none)
  | 0, _ => ([], none)
  | fuel + 1, bs =>
    let tag := ofLe (bs.take 2)
    let len := ofLe ((bs.drop 2).take 2)
    let body := bs.drop 4
    if body.length < roundUp len 4 then ([], some tag)
    else
      let rest := parseTlvs fuel (body.drop (roundUp len 4))
      ({ tag := tag, len := len, val := ofLe (body.take len) } :: rest.1, rest.2)

/-- A field of a message header. -/
def hdrField (bs : List Nat) (o w : Nat) : Nat := ofLe ((bs.drop o).take w)

/-- The offset of the first header field from 0x0C up that a request may not carry so (R113). -/
def headerFault (bs : List Nat) : Option Nat :=
  let len := hdrField bs 0x0C 2
  firstBad
    [(decide (len % 4 ≠ 0 ∨ 4064 < len ∨ bs.length < 32 + len), 0x0C), (decide (hdrField bs 0x0E 2 ≠ 0), 0x0E),
     (decide (hdrField bs 0x10 4 ≠ 0), 0x10), (decide (hdrField bs 0x14 4 ≠ 0), 0x14),
     (decide (hdrField bs 0x18 8 ≠ 0), 0x18)]

/-- A message as a request on a path, with its opcode and the tag of a TLV that its payload cuts short. -/
def parseReq (p : Path) (slot : Option (Fin 32)) (node : Nat) (bs : List Nat) : Nat × Req × Option Nat :=
  let tl := parseTlvs 1024 ((bs.drop 32).take (hdrField bs 0x0C 2))
  (hdrField bs 0 2,
   { path := p, rev := hdrField bs 0x0A 2, flags := BitVec.ofNat 16 (hdrField bs 2 2),
     seq := BitVec.ofNat 32 (hdrField bs 4 4), channel := hdrField bs 8 2, slot := slot, node := node,
     tlvs := tl.1, sender := none },
   tl.2)

/-- The form of a message (R113 to R116): the detail of its first fault, header fields before TLVs. -/
def messageBad (c : CmdSpec) (r : Req) (bs : List Nat) (cut : Option Nat) : Option Nat :=
  if flagsBad c r then some (headerAt 2)
  else if channelBad c r then some (headerAt 8)
  else match headerFault bs with
    | some o => some (headerAt o)
    | none => firstBadTlv c [] r.tlvs <|> cut

/-! ### Slots (R105 to R112) -/

/-- A slot register's value with an OWNER field. -/
def slotValue (x : Slot) (owner : Nat) : Nat :=
  x.ownerNode * 65536 + x.gen * 256 + x.state * 16 + owner

/-- The owner's path code, 0 for none. -/
def ownerCode (x : Slot) : Nat := match x.owner with | some p => pathCode p | none => 0

/-- A claim by a path (R106): GEN rises, and a BUSY slot stays BUSY. -/
def claimSlot (p : Path) (node : Nat) (x : Slot) : Slot :=
  { x with owner := some p, ownerNode := if p = .fabric then node else 0, gen := (x.gen + 1) % 256,
           state := if x.state = 2 then 2 else 1 }

/-- Whether a master, for a fabric peer, owns a slot. -/
def owns (m : Master) (node : Nat) (x : Slot) : Bool :=
  decide (masterPath m ≠ none ∧ x.owner = masterPath m) &&
    (decide (m ≠ .mirror) || decide (x.ownerNode = node))

/-- A read of CTL_MBX_SLOTn by one master (R105, R106): what it reads, none for an error response, and the slot after
it. -/
def claimRead (n : Nat) (m : Master) (node : Nat) (s : State) : Option Nat × State :=
  let x := slotOf s n
  if !slotPath s m then (none, busError m false (regAddr (0x1000 + 8 * n)) s)
  else match masterPath m with
    | none => (some (slotValue x (ownerCode x)), s)
    | some p =>
      if x.owner.isNone then
        let y := claimSlot p node x
        (some (slotValue y 0), setSlot n y s)
      else (some (slotValue x (ownerCode x)), s)

/-- The order in which the claiming reads of one slot in a cycle are served: host, management, fabric, then masters that
carry no path (R40, R107). -/
def claimRank (m : Master) : Nat :=
  match masterPath m with
  | some p => pathCode p
  | none => 4

/-- The reads of a cycle in their order; peers keep the order in which their packets came. -/
def claimOrder (rs : List Claim) : List Claim :=
  [1, 2, 3, 4].flatMap fun k => rs.filter fun r => claimRank r.master = k

/-- A claiming read, noted with what it returned. -/
def noteClaim (n : Nat) (s : State) (r : Claim) : State :=
  let e := claimRead n r.master r.node.val s
  { e.2 with mbx := { e.2.mbx with
      claimReads := e.2.mbx.claimReads ++ [{ master := r.master, node := r.node.val, value := e.1 }] } }

/-- What a register read returned, or its error response. -/
def answered (v : Option Nat) (s : State) : State :=
  match v with
  | some v => returned v s
  | none => aborted s

/-- A read of CTL_MBX_SLOTn by a master, beside the reads of the same slot that arrive in the same cycle (R40, R105 to
R107). -/
def execCtlMbxSlotClaim (n : Fin 32) (first : Claim) (others : List Claim) (s : State) : Out :=
  let s1 := (claimOrder (first :: others)).foldl (noteClaim n.val)
    { s with mbx := { s.mbx with claimReads := [] } }
  let mine := s1.mbx.claimReads.find? fun c => decide (c.master = first.master ∧ c.node = first.node.val)
  .next (answered (mine.bind ClaimRead.value) s1)

/-- What a master reads in slot memory (R108): 0 unless it owns the slot or is the control processor data port. -/
def slotMemory (s : State) (m : Master) (node off len : Nat) : List Byte :=
  (List.range len).map fun i =>
    let a := off + i
    if m = .cpuData ∨ owns m node (slotOf s (a / 4096)) = true then memRead s.mbx.mem a else 0

/-- Writes bytes into slot memory. -/
def slotWrite (n off : Nat) (bs : List Byte) (s : State) : State :=
  { s with mbx := { s.mbx with mem := memWrites s.mbx.mem (n * 4096 + off) bs } }

/-- A write to slot memory (R108): accepted from the owner in CLAIMED or DONE, and from the control processor
data port in BUSY; else dropped and counted (R19). -/
def execMbxSlotMemoryWrite (m : Master) (node : Fin 512) (offset : Fin 131072) (data : List Byte)
    (s : State) : Out :=
  let n := offset.val / 4096
  let x := slotOf s n
  if !slotPath s m then .next (busError m true (BitVec.ofNat 40 (0x50000000 + offset.val)) s)
  else if (owns m node.val x = true ∧ (x.state = 1 ∨ x.state = 3)) ∨ (m = .cpuData ∧ x.state = 2) then
    .next (slotWrite n (offset.val % 4096) data s)
  else .next { s with mbx := { s.mbx with dropped := rcAdd 65535 1 s.mbx.dropped } }

/-- An ignored doorbell write (R109). -/
def bellIgnored (s : State) : State :=
  { s with mbx := { s.mbx with dbIgnored := rcAdd 255 1 s.mbx.dbIgnored } }

/-- Queues a doorbell behind those rung before; those of one cycle stand by path, then by slot (R28, R119). -/
def queueBell (b : Nat × Path × Nat) : List (Nat × Path × Nat) → List (Nat × Path × Nat)
  | [] => [b]
  | e :: es =>
    if e.2.2 = b.2.2 ∧ (pathCode b.2.1 < pathCode e.2.1 ∨ (b.2.1 = e.2.1 ∧ b.1 < e.1)) then b :: e :: es
    else e :: queueBell b es

/-- A slot becomes BUSY, and its doorbell queues (R109, R119). -/
def ringBell (n : Nat) (p : Path) (s : State) : State :=
  let x := slotOf s n
  let s1 := setSlot n { x with state := 2, bellGen := x.gen } s
  { s1 with mbx := { s1.mbx with bells := queueBell (n, p, s.tim.now) s1.mbx.bells } }

/-- A write to CTL_MBX_SLOTn: DOORBELL in bit 30, RELEASE in bit 31 (R105, R109, R111). -/
def slotRegWrite (n : Nat) (m : Master) (node : Nat) (v : Word32) (s : State) : State :=
  let x := slotOf s n
  let mine := owns m node x
  if !slotPath s m then busError m true (regAddr (0x1000 + 8 * n)) s
  else if v.getLsbD 30 then
    if v.getLsbD 31 then bellIgnored s
    else match masterPath m with
      | some p => if mine ∧ (x.state = 1 ∨ x.state = 3) then ringBell n p s else bellIgnored s
      | none => bellIgnored s
  else if v.getLsbD 31 ∧ mine then setSlot n (releaseSlot x) s
  else s

/-- R18, R19, R109. -/
def execDoorbell (n : Fin 32) (m : Master) (node : Fin 512) (v : Word32) (s : State) : Out :=
  .next (slotRegWrite n.val m node.val v s)

def execCtlMbxSlotRelease (n : Fin 32) (m : Master) (node : Fin 512) (v : Word32) (s : State) : Out :=
  .next (slotRegWrite n.val m node.val v s)

/-- A W1C write to CTL_MBX_DONE (R110). -/
def execCtlMbxDoneClear (m : Master) (v : Word32) (s : State) : Out :=
  if regPath s m then .next { s with mbx := { s.mbx with done := s.mbx.done &&& ~~~v } }
  else .next (busError m true (regAddr 0x1100) s)

/-! ### Completion (R110, R111) -/

/-- The tag of bytes that firmware sends: the first 16 bytes of their HMAC-SHA-256 under the key (R122, R124). -/
def tagOf (s : State) (bs : List Nat) : List Nat :=
  match s.mbx.key with
  | some k => (hmacSha256 (le 32 k.toNat) bs).take 16
  | none => []

/-- Sends a response as a datagram. -/
def sendResponse (ip : Word32) (port : Nat) (r : Resp) (s : State) : State :=
  { s with mbx := { s.mbx with
      datagrams := s.mbx.datagrams ++ [.response ip port r (tagOf s (respBytes r))] } }

/-- A response that leaves as a management datagram, to the source of the request that holds the slot; kept for a repeat
of its request while that is the last one taken from the source (R110, R123). -/
def sendMgmt (n : Nat) (r : Resp) (s : State) : State :=
  match s.mbx.mgmtSlots.find? fun e => decide (e.slot = n ∧ e.gen = (slotOf s n).gen) with
  | none => s
  | some e =>
    let s1 := sendResponse e.ip e.port r s
    { s1 with mbx := { s1.mbx with
        mgmtSlots := s1.mbx.mgmtSlots.filter fun x => decide (x.slot ≠ n)
        sources := s1.mbx.sources.map fun x =>
          if x.ip = e.ip ∧ x.port = e.port ∧ x.lastSeq = r.seq.toNat then { x with resp := some r } else x } }

/-- The mirror engine sends a response to a peer (R110, R125). -/
def sendFabResp (r : Resp) (s : State) : State :=
  sendMessage 0x19 r.node (respBytes r).length { s with mbx := { s.mbx with fabResps := s.mbx.fabResps ++ [r] } }

/-- Delivers a response to the owner of its slot. -/
def deliver (n : Nat) (r : Resp) (s : State) : State :=
  let x := slotOf s n
  if x.gen = x.bellGen then
    let s1 := slotWrite n 0 (natBytes (respBytes r)) s
    match x.owner with
    | some .host =>
      let s2 := setSlot n { x with state := 3 } s1
      sendVector n { s2 with mbx := { s2.mbx with done := s2.mbx.done ||| BitVec.ofNat 32 (2 ^ n) } }
    | some .management => setSlot n (releaseSlot { x with state := 3 }) (sendMgmt n r s1)
    | some .fabric =>
      setSlot n (releaseSlot { x with state := 3 }) (sendFabResp { r with node := x.ownerNode } s1)
    | none => setSlot n { x with state := 0 } s1
  else
    let s1 := { s with mbx := { s.mbx with respLost := rcAdd 255 1 s.mbx.respLost } }
    setSlot n { x with state := if x.owner.isSome then 1 else 0 } s1

/-- The response that waits for a slot. -/
def respFor (s : State) (n : Fin 32) : Option Resp := s.mbx.resps.find? fun r => r.slot = some n

/-- Completes the command of a slot: its response is delivered, or discarded when another path has claimed
the slot. With no answer waiting nothing happens. -/
def complete (n : Fin 32) (s : State) : State :=
  match respFor s n with
  | none => s
  | some r =>
    deliver n.val r { s with mbx := { s.mbx with resps := s.mbx.resps.erase r } }

/-- A command in a slot completes: its response is delivered (R109, R110; DEDUCED, assumption log 7). -/
def execMbxCommandComplete (n : Fin 32) (s : State) : Out := .next (complete n s)

/-! ### Taking commands (R113 to R121) -/

/-- Firmware takes the doorbell rung first: the message is read from its slot and checked, and it is
refused at once or goes into work with its acceptance time. -/
def takeCommand (s : State) : State :=
  match s.mbx.bells with
  | [] => s
  | (n, p, _) :: rest =>
    let x := slotOf s n
    let bs := byteNats (memReads s.mbx.mem (n * 4096) 4096)
    let (op, r, cut) := parseReq p (some (Fin.ofNat 32 n)) x.ownerNode bs
    let w : InWork := { slot := n, opcode := op, req := r, accepted := nowNs s, redo := false }
    let s1 := { s with mbx := { s.mbx with bells := rest, inWork := s.mbx.inWork ++ [w] } }
    if r.rev ≠ revHigh ∧ r.rev ≠ revLow then
      answer op r stVersion (revHigh * 256 + revLow) [] false s1
    else match specOf r.rev op with
      | none => answer op r stBadOpcode 0 [] false s1
      | some c =>
        match (if mayIssue p op then messageBad c r bs cut else none) with
        | some d => answer op r stBadParam d (ignoredTlv c r) false s1
        | none =>
          match precheck c r s1 with
          | some (st, d) => answer op r st d (ignoredTlv c r) false s1
          | none => s1

/-- Commands that a control restart interrupted are answered before another is taken (R101). How a command row relates to
COMMAND_TAKE and the response: DEDUCED, assumption log 7. -/
def execCommandTake (s : State) : Out :=
  .next (if s.ctl.fwRunning ∧ s.mbx.inWork.all (fun w => !w.redo) = true then takeCommand s else s)

/-! ### Requests from the network and from peers (R106, R122 to R125) -/

/-- The lowest FREE slot that no path owns. -/
def freeSlot (s : State) : Option Nat :=
  (List.range 32).find? fun n => (slotOf s n).state = 0 && (slotOf s n).owner.isNone

/-- Claims a slot for a path, writes the message and rings the bell. -/
def placeMsg (n : Nat) (p : Path) (node : Nat) (msg : List Byte) (s : State) : State :=
  ringBell n p (slotWrite n 0 msg (setSlot n (claimSlot p node (slotOf s n)) s))

/-- A discarded management datagram. -/
def discardDatagram (s : State) : State :=
  { s with mbx := { s.mbx with discards := s.mbx.discards + 1 } }

/-- The ST_BUSY answer to a request that gets no slot (R106, R124). -/
def busyResp (p : Path) (node : Nat) (bs : List Nat) : Resp :=
  { slot := none, path := p, node := node, opcode := hdrField bs 0 2,
    seq := BitVec.ofNat 32 (hdrField bs 4 4), channel := hdrField bs 8 2, rev := hdrField bs 0x0A 2,
    status := stBusy, detail := 0, more := false, accepted := 0, tlvs := [] }

/-- Places an authenticated management request in a slot, or answers ST_BUSY (R106, R124). -/
def takeDatagram (ip : Word32) (port seq : Nat) (msg : List Byte) (s : State) : State :=
  match freeSlot s with
  | none => sendResponse ip port (busyResp .management 0 (byteNats msg)) s
  | some n =>
    let s1 := placeMsg n .management 0 msg s
    let others := s1.mbx.sources.filter fun x => ¬(x.ip = ip ∧ x.port = port)
    let old := s1.mbx.mgmtSlots.filter fun x => decide (x.slot ≠ n)
    { s1 with mbx := { s1.mbx with
        mgmtSlots := old ++ [{ slot := n, gen := (slotOf s1 n).gen, ip := ip, port := port }]
        sources := others ++ [{ ip := ip, port := port, lastSeq := seq, resp := none }] } }

/-- A management datagram to the management address and port: discarded unless its length, tag and sequence pass. A
repeat of the last sequence gets the stored response, and nothing while there is none yet (R122, R123; DESIGN CHOICE,
assumption log 82). -/
def execMgmtDatagram (dst src : Endpoint) (msg : List Byte) (tag : BitVec 128) (s : State) : Out :=
  if !s.ctl.fwRunning ∨ dst.ip ≠ s.mbx.ipv4 ∨ dst.port ≠ s.mbx.udpPort then .next s
  else if s.mbx.key.isNone then .next (discardDatagram s)
  else
    let bs := byteNats msg
    let seq := hdrField bs 4 4
    if bs.length ≠ 32 + hdrField bs 0x0C 2 ∨ le 16 tag.toNat ≠ tagOf s bs then .next (discardDatagram s)
    else match s.mbx.sources.find? fun x => decide (x.ip = src.ip ∧ x.port = src.port) with
      | none => .next (takeDatagram src.ip src.port seq msg s)
      | some x =>
        if x.lastSeq < seq then .next (takeDatagram src.ip src.port seq msg s)
        else if seq = x.lastSeq then
          match x.resp with
          | some r => .next (sendResponse src.ip src.port r s)
          | none => .next s
        else .next (discardDatagram s)

/-- A fabric peer's request: the mirror engine places it in a slot, or answers ST_BUSY (R106, R125). -/
def execMailboxRequest (node : Fin 512) (msg : List Byte) (s : State) : Out :=
  match freeSlot s with
  | some n => .next (placeMsg n .fabric node.val msg s)
  | none => .next (sendFabResp (busyResp .fabric node.val (byteNats msg)) s)

/-! ### Requests to peers (R125, R145, R390) -/

/-- Sends a request to a peer, at the lower of this module's revision and the peer's. -/
def sendPeer (m : PeerMsg) (s : State) : State :=
  let rev := match tabGet? s.fab.peers m.dest with
    | some r => min revHigh r
    | none => revLow
  sendMessage 0x18 m.dest (32 + (payload m.tlvs).length)
    { s with prt := { s.prt with sentMbx := s.prt.sentMbx ++ [{ m with rev := rev }] } }

/-- How long a module waits for a peer's answer (R125). -/
def peerLimit : Nat := 100000000

/-- Waits for a peer's answer to a request, until a limit. -/
def awaitPeer (node opcode channel limit : Nat) (r : Option Req) (s : State) : State :=
  { s with mbx := { s.mbx with peerWaits := s.mbx.peerWaits ++
      [{ node := node, opcode := opcode, channel := channel, since := nowNs s, req := r, limit := limit }] } }

/-- Whether this module waits for a peer's DEV.INFO. -/
def infoAsked (s : State) (node : Nat) : Bool :=
  s.mbx.peerWaits.any fun w => decide (w.node = node ∧ w.opcode = 0x0101)

/-- DEV.INFO to a peer, before the first other command to it; at revision 2, which every firmware takes (R143, R390; DESIGN
CHOICE, assumption log 59). -/
def askInfo (node : Nat) (s : State) : State :=
  if infoAsked s node then s
  else awaitPeer node 0x0101 0xFFFF (nowNs s + peerLimit) none
    (sendPeer { dest := node, opcode := 0x0101, channel := 0xFFFF, rev := revLow, tlvs := [], sender := none } s)

/-- Sends a fabric-path request to a peer, once its DEV.INFO is known. -/
def sendMbxFor (x : Option HandoverCfg) (dest opcode ch : Nat) (tlvs : List Tlv) (s : State) : State :=
  let m : PeerMsg := { dest := dest, opcode := opcode, channel := ch, rev := revHigh, tlvs := tlvs, sender := x }
  if (tabGet? s.fab.peers dest).isSome then sendPeer m s
  else askInfo dest { s with mbx := { s.mbx with unsent := s.mbx.unsent ++ [m] } }

def sendMbx (dest opcode ch : Nat) (tlvs : List Tlv) (s : State) : State := sendMbxFor none dest opcode ch tlvs s

/-- A peer's DEV.INFO is answered, with its IF_REV_MAX (tag 0x0107) where the answer holds one: the requests kept for it go
out. -/
def infoAnswer (node : Nat) (tlvs : List Tlv) (s : State) : State :=
  match tlvs.find? fun t => decide (t.tag = 0x0107) with
  | none => { s with mbx := { s.mbx with unsent := s.mbx.unsent.filter fun m => decide (m.dest ≠ node) } }
  | some t =>
    let kept := s.mbx.unsent.filter fun m => decide (m.dest = node)
    kept.foldl (fun s m => sendPeer m s)
      { s with fab := { s.fab with peers := tabSet s.fab.peers node t.val }
               mbx := { s.mbx with unsent := s.mbx.unsent.filter fun m => decide (m.dest ≠ node) } }

end Sys2Proof.Machine
end

