-- ==== Sys2Proof/Machine/Lifecycle.lean ====
section
/-! DEFINITION. Machine/Lifecycle.lean: what every change of channel or device state brings with it:
ring writing (R177), the automatic mode transitions (R49, R55), the end of stops (R64 to R67), yields
(R468) and the end of protection groups (R469, R475). -/

namespace Sys2Proof.Machine

/-! ### Inputs in use (R177) -/

/-- The channels in STARTING, RUNNING, STOPPING or MIGRATING that name an input, lowest first. -/
def inputUsers (s : State) (i : Nat) : List Nat :=
  handles.filter fun h => active (chan s h).state && match (chan s h).cfg with
    | some c => decide (c.input = i)
    | none => false

/-- An input as ring writing starts: nothing written yet; a locked one passes its pictures directly. -/
def startRing (x : Input) (h : Nat) : Input :=
  { x with writing := true, charged := some h, asm := [], ring := [], passed := [], lastSlot := none,
           slotPic := none, since := [], syncing := !x.locked }

/-- Whether an input's ring is written, and which handle pays for it: the lowest user. When the user that
pays leaves, the charge moves at the next period boundary. -/
def syncInput (us : List Nat) (x : Input) : Input :=
  match us with
  | [] => { x with writing := false, charged := none, asm := [] }
  | h :: _ =>
    if !x.writing then startRing x h
    else match x.charged with
      | some p => if h < p then { x with charged := some h } else x
      | none => { x with charged := some h }

/-- Brings the ring writing of every input in line with the channels that run. -/
def syncInputs (s : State) : State :=
  { s with inputs := s.inputs.map fun e => (e.1, syncInput (inputUsers s e.1) e.2) }

/-! ### Release writes of layer states (R223) -/

/-- The release writes that layer states name become due at an instant. -/
def addReleases (ls : List Layer) (at_ : Nat) (s : State) : State :=
  { s with pix := { s.pix with
      releases := s.pix.releases ++ (ls.filter fun l => decide (l.relFence < 256)).map fun l =>
        (l.relFence, l.relValue, at_) } }

/-- A pending commit is discarded, and its release writes are due at once. -/
def dropCommit (h : Nat) (s : State) : State :=
  match (chan s h).layers.pending with
  | some m => addReleases (m.layers.map Prod.snd) s.tim.now
      (modChan h (fun c => { c with layers := { c.layers with pending := none } }) s)
  | none => s

/-- The shown states of a channel stop being shown. -/
def dropShown (h : Nat) (s : State) : State :=
  addReleases (((chan s h).layers.shown.map Prod.snd).filter Layer.enable) s.tim.now
    (modChan h (fun c => { c with layers := { c.layers with shown := [], hist := [] } }) s)

/-- The release writes that wait for a channel's compositions are due. -/
def flushWaiting (h : Nat) (p : Nat → Bool) (s : State) : State :=
  let due (e : Nat × Nat × Nat × Word32) : Bool := decide (e.1 = h) && p e.2.1
  { s with pix := { s.pix with
      waiting := s.pix.waiting.filter fun e => !due e
      releases := s.pix.releases ++ (s.pix.waiting.filter due).map fun e => (e.2.2.1, e.2.2.2, s.tim.now) } }

/-- Entry to IDLE. -/
def toIdle (h : Nat) (s : State) : State :=
  toState h .idle (dropShown h (dropCommit h (flushWaiting h (fun _ => true) s)))

/-! ### Automatic mode transitions (R49) -/

/-- Whether every channel is IDLE, CONFIGURED or FAULTED. -/
def allSettled (s : State) : Bool := handles.all fun h => !active (chan s h).state

/-- Clears every channel to IDLE, as a transition to SERVICE from DRAIN first does. -/
def clearAll (s : State) : State :=
  handles.foldl (fun s h => if (chan s h).state = .idle then s else toIdle h s) s

/-- The automatic transitions: READY to OPERATE, OPERATE to READY, and DRAIN to its target once every
channel has left. -/
def autoMode (s : State) : State :=
  match s.modes.mode with
  | .ready => if 0 < activeCount s then setModeNow .operate s else s
  | .operate => if activeCount s = 0 then setModeNow .ready s else s
  | .drain =>
    if allSettled s then
      let s1 := if s.modes.target = .service then clearAll s else s
      beginMode s1.modes.target s1
    else s
  | _ => s

/-- What follows every change of channel states. -/
def settle (s : State) : State := autoMode (syncInputs s)

/-! ### Protection groups as their members hold them -/

def group? (s : State) (h : Nat) : Option Group := tabGet? s.prt.groups h

def setGroup (h : Nat) (g : Group) (s : State) : State :=
  { s with prt := { s.prt with groups := tabSet s.prt.groups h g } }

def modGroup (h : Nat) (f : Group → Group) (s : State) : State :=
  match group? s h with
  | some g => setGroup h (f g) s
  | none => s

/-- The other coding member's node: the shadow for the active, the active for the shadow. -/
def peerOf (g : Group) : Nat := if g.role = 0 then g.shadow else g.active

/-- A group state change as this member holds it: EV_PROT_STATE (R452, R477). -/
def setGroupState (h st : Nat) (s : State) : State :=
  match group? s h with
  | some g =>
    if g.state = st then s
    else raise evProtState h (u8 g.state ++ u8 st ++ u8 g.role ++ [0] ++ u16 (peerOf g))
      (setGroup h { g with state := st, everProtected := g.everProtected || decide (st = 2) } s)
  | none => s

/-- The active's channel handle of a group held under a handle. -/
def activeHandle (h : Nat) (g : Group) : Nat := if g.role = 0 then h else g.peerChannel

/-- The shadow's channel handle. -/
def shadowHandle (h : Nat) (g : Group) : Nat := if g.role = 0 then g.peerChannel else h

/-- A lease or takeover message of a group (R461). -/
def leaseMsg (h : Nat) (g : Group) (slice reason timeA timeB : Nat) : LeaseMsg :=
  { activeNode := g.active, activeCh := activeHandle h g, shadowCh := shadowHandle h g,
    shadowNode := g.shadow, witness := g.witness, epoch := g.epoch, slice := slice, reason := reason,
    timeA := timeA, timeB := timeB }

/-- A lease message's 32 bytes (R461). -/
def leaseBytes (m : LeaseMsg) : List Nat :=
  u16 m.activeNode ++ u8 m.activeCh ++ u8 m.shadowCh ++ u16 m.shadowNode ++ u16 m.witness ++ u32 m.epoch ++ u16 m.slice ++
    u8 m.reason ++ [0] ++ u64 m.timeA ++ u64 m.timeB

/-- Sends a lease message of a tag to a node, in a packet of type 0x02 on VC0 (R461). -/
def sendLease (dest tag : Nat) (m : LeaseMsg) (s : State) : State :=
  sendBytes 2 0 tag dest (leaseBytes m)
    { s with prt := { s.prt with sentLease := s.prt.sentLease ++ [(dest, tag, m)] } }

/-- The mirror bookings of a channel are released, at the fabric manager too (R403, R449). -/
def dropMirror (h : Nat) (s : State) : State :=
  let n := (chan s h).fabBudget
  let s1 := modChan h (fun c => { c with mirrorBudget := 0, fabBudget := 0 }) s
  match group? s h with
  | some g => if g.role = 0 ∧ 0 < n then tellManager (.unbook g.shadow n) n s1 else s1
  | none => s1

/-- The end of a group on this member: UNPROTECTED, its mirror bookings released, its entry gone. -/
def endGroup (h : Nat) (s : State) : State :=
  let s1 := dropMirror h (setGroupState h 0 s)
  { s1 with prt := { s1.prt with groups := tabErase s1.prt.groups h } }

/-- RELEASE from an active to its witness (R461). -/
def sendRelease (h : Nat) (s : State) : State :=
  match group? s h with
  | some g => sendLease g.witness 9 (leaseMsg h g 0 0 0 0) s
  | none => s

/-- The group of a channel that stops (R67): the active's ends, and a copy of RELEASE tells the shadow the stop picture (ns;
0 for a stop with the abort flag); a shadow leaves it UNPROTECTED (DESIGN CHOICE, assumption log 81). -/
def stopGroup (h stop : Nat) (s : State) : State :=
  match group? s h with
  | some g =>
    if g.role = 0 then endGroup h (sendLease g.shadow 9 (leaseMsg h g 0 0 stop 0) (sendRelease h s)) else endGroup h s
  | none => s

/-! ### Pictures and stops (R64 to R67, R556) -/

/-- A capture time in whole ns. -/
def capNs (x : Nat) : Nat := x / 65536

/-- The capture time in ns of the last picture whose coding has begun, if any (R556). -/
def lastNs (c : Chan) : Option Nat := c.lastBegun.map capNs

/-- A channel that holds its configuration and nothing of a run. -/
def clearRun (c : Chan) : Chan :=
  { c with firstPic := none, lastBegun := none, begun := [], stopPic := none,
           unlaunched := 0, newestLaunched := none, lastLaunch := none, pending := none, pics := [],
           srcPics := [], keyReqs := [], lastRecon := none, refs := [], lookBuf := [],
           handoverPeer := none, handoverPic := 0,
           continueDue := false, layers := { c.layers with pending := none } }

/-- Bytes of an OUT_DEST value: output leg u16, 2 bytes 0, IPv4 address u32, UDP port u16, 2 bytes 0 (DEDUCED,
assumption log 13). -/
def destLeg (v : Nat) : Nat := fieldAt v 0 2
def destIp (v : Nat) : Word32 := BitVec.ofNat 32 (fieldAt v 4 4)
def destPort (v : Nat) : Nat := fieldAt v 8 2

/-- The legs of a channel in the order of its OUTPUT TLVs: output and place among its legs. OUT_DEST
numbers a channel's output legs so (assumption log 13). -/
def chanLegs (s : State) (c : ChanCfg) : List (Nat × Nat) :=
  (c.outputs.map fun o => match outputOf s o with
    | some x => (List.range x.legs.length).map fun i => (o, i)
    | none => []).flatten

/-- Gives one leg of a channel its new destination. -/
def bakeDest (c : ChanCfg) (m : PendingMod) (s : State) : State :=
  if m.index ≠ 0x23 then s
  else match (chanLegs s c)[destLeg m.value]? with
    | none => s
    | some (o, i) =>
      match outputOf s o with
      | none => s
      | some x =>
        let mac (l : Leg) := if isMulticast (destIp m.value) then some (multicastMac (destIp m.value))
          else if l.dstIp = destIp m.value then l.mac else none
        let ls := (List.range x.legs.length).zip x.legs |>.map fun e =>
          if e.1 = i then { e.2 with dstIp := destIp m.value, dstPort := destPort m.value, mac := mac e.2,
                                     arpAt := if e.2.dstIp = destIp m.value then e.2.arpAt else none } else e.2
        { s with outputs := tabSet s.outputs o { x with legs := ls } }

/-- The RTP sequence and the continuity counters of an output go on from the last packet launched (R71). -/
def rewind (s : State) (o : Nat) : State :=
  match outputOf s o with
  | some x => { s with outputs := tabSet s.outputs o { x with rtpSeq := x.launchedSeq, cc := x.launchedCc } }
  | none => s

/-- The end of a run: changed destinations stay with the outputs, and the run's records go. -/
def endRun (h : Nat) (s : State) : State :=
  let c := chan s h
  let s1 := match c.cfg with
    | some f => f.outputs.foldl rewind (c.applied.foldl (fun s m => bakeDest f m s) s)
    | none => s
  modChan h (fun c => { clearRun c with applied := c.applied.filter fun m => m.index ≠ 0x23 }) s1

/-- STOPPING ends: CONFIGURED, with EV_CHAN_STOPPED. A shadow reports 0 pictures (R64). -/
def finishStop (h : Nat) (s : State) : State :=
  let c := chan s h
  let n := match c.cfg with
    | some f => if f.role = .shadow then 0 else c.unlaunched
    | none => c.unlaunched
  let s1 := endRun h (toState h .configured s)
  settle (raise evChanStopped h (u32 n) s1)

/-- Whether a STOPPING channel has launched everything up to its stop picture, which has begun. -/
def stopReached (c : Chan) : Bool :=
  match c.stopPic with
  | none => true
  | some p =>
    c.begun.all (fun x => decide (p < capNs x)) &&
      match lastNs c with
      | some l => decide (p ≤ l)
      | none => decide (p < c.startTime)

/-- Ends STOPPING once everything up to the stop picture has launched. A shadow's STOPPING ends by its own
instant. -/
def checkStop (h : Nat) (s : State) : State :=
  let c := chan s h
  match c.cfg with
  | some f =>
    if c.state = .stopping ∧ (f.role ≠ .shadow ∨ c.lastBegun = none) ∧ stopReached c = true then
      finishStop h s
    else s
  | none => s

/-- Whether a capture time lies after the stop picture; with no stop picture everything does. -/
def afterStop (p : Option Nat) (x : Nat) : Bool :=
  match p with
  | some p => decide (p < capNs x)
  | none => true

/-- The stop picture of a request: the one named, raised to the newest picture with a launched packet, or
the last whose coding has begun (R64). None: nothing to launch. -/
def stopPick (c : Chan) (named : Option Nat) : Option Nat :=
  match c.lastBegun with
  | none => named
  | some l => some (match named with
    | some p => match c.newestLaunched with
      | some n => max p (capNs n)
      | none => p
    | none => capNs l)

/-- The channel stops at a picture: later pictures that have begun are discarded and counted (R64), and
a modification or key request for a later picture is dropped (R260, R299), and a pending commit is
discarded (R223). -/
def stopAt (h : Nat) (p : Option Nat) (s : State) : State :=
  let lateNs (x : Nat) : Bool := afterStop p (x * 65536)
  let s1 := modChan h (fun c => { c with
    stopPic := p, begun := c.begun.filter fun x => !afterStop p x,
    unlaunched := c.unlaunched + (c.begun.filter (afterStop p)).length,
    pics := c.pics.filter fun q => !afterStop p q.capture,
    keyReqs := c.keyReqs.filter fun k => !lateNs k.1,
    pending := c.pending.filter fun m => !lateNs m.effective })
    (toState h .stopping (dropCommit h s))
  checkStop h (settle (dropPackets (fun k => ofChan h k && afterStop p k.capture) s1))

/-- The stop with the abort flag (R65): every packet not yet launched is discarded, and the pictures begun
and not launched in full are counted. -/
def stopAbort (h : Nat) (s : State) : State :=
  let s1 := dropCommit h (if (chan s h).state = .stopping then s else toState h .stopping s)
  let s2 := modChan h (fun c => { c with
    unlaunched := c.unlaunched + c.begun.length, begun := [], pics := [],
    stopPic := none }) (dropPackets (ofChan h) s1)
  finishStop h s2

/-- A fault that no shadow can cover: FAULTED, and the group of an active or a shadow ends for want of a
channel (R59, R65). -/
def faultChan (h : Nat) (s : State) : State :=
  let s1 := match group? s h with
    | some g => if g.role = 0 then endGroup h (sendRelease h s) else endGroup h s
    | none => s
  settle (endRun h (chanFault h (dropCommit h s1)))

/-! ### Yields (R468) -/

/-- The picture with the lowest coding-order number. -/
def firstCoded : List Picture → Option Picture
  | [] => none
  | q :: qs => match firstCoded qs with
    | none => some q
    | some p => if p.codingNo < q.codingNo then some p else some q

/-- Whether a picture precedes the picture of a boundary capture time in coding order. -/
def precedes (c : Chan) (cap : Nat) (q : Picture) : Bool :=
  match c.pics.find? fun p => decide (p.capture = cap) with
  | some p => if p.ordered then q.ordered && decide (q.codingNo < p.codingNo)
    else q.ordered || decide (q.capture < cap)
  | none => decide (q.capture < cap)

/-- Whether an emission unit of a picture lies before a boundary slice: it holds nothing from the boundary on. -/
def unitBefore (c : Chan) (f : ChanCfg) (b : Nat × Nat) (q : Picture) (u : Nat) : Bool :=
  if q.capture = b.1 then decide (u < unitOfSlice f b.2) else precedes c b.1 q

/-- Sends YIELD once the record of the slice before the boundary has gone. -/
def checkYield (h : Nat) (s : State) : State :=
  match group? s h with
  | none => s
  | some g =>
    match g.boundary with
    | none => s
    | some (cap, slice) =>
      let c := chan s h
      let n := match c.cfg with | some f => f.slices | none => 0
      let done := c.pics.all fun q =>
        if q.capture = cap then decide (slice ≤ q.mirrored)
        else !precedes c cap q || decide (n ≤ q.mirrored)
      if g.role = 0 ∧ !g.yielded ∧ done then
        let m := leaseMsg h g slice g.grantKind (capNs cap) 0
        setGroup h { g with yielded := true } (sendLease g.shadow 6 m (sendLease g.witness 6 m s))
      else s

/-- The first slice that an active has not mirrored: of its first picture in coding order with such a slice,
else slice 0 of the first picture that is not in coding order yet, or of the next picture. -/
def firstUnmirrored (c : Chan) (f : ChanCfg) : Nat × Nat :=
  match firstCoded (c.pics.filter fun q => q.ordered && decide (q.mirrored < f.slices)) with
  | some q => (q.capture, q.mirrored)
  | none => match c.pics.find? fun q => !q.ordered with
    | some q => (q.capture, 0)
    | none => ((c.lastBegun.getD 0) + periodT f, 0)

/-- An active of a PROTECTED group yields: MIGRATING, with the boundary of its reason (1 retirement, 2 task
exhausted, 3 drain). -/
def startYield (h reason : Nat) (s : State) : State :=
  let c := chan s h
  match group? s h, c.cfg with
  | some g, some f =>
    let b := if reason = 3 then ((c.lastBegun.getD 0) + periodT f, 0) else firstUnmirrored c f
    let s1 := setGroup h { g with boundary := some b, grantKind := reason } s
    let s2 := toState h .migrating s1
    settle (checkYield h s2)
  | _, _ => s

/-- Whether a channel is the active of a PROTECTED group (R43). -/
def isProtected (s : State) (h : Nat) : Bool :=
  match group? s h with
  | some g => decide (g.role = 0 ∧ g.state = 2)
  | none => false

/-- Ends a former active after its yield or its planned handover: EV_CHAN_MIGRATED with the peer and the
peer's first picture (R59, R469, R474). -/
def finishMigration (h peer first : Nat) (st : ChanState) (s : State) : State :=
  let s1 := endGroup h (dropPackets (ofChan h) s)
  let s2 := endRun h s1
  let s3 := if st = .idle then toIdle h s2 else toState h st (dropCommit h s2)
  settle (raise evChanMigrated h (u16 peer ++ List.replicate 6 0 ++ u64 first) s3)

/-- A yield that is complete: every packet before the boundary has launched, and RELEASE goes out. -/
def checkRelease (h : Nat) (s : State) : State :=
  match group? s h with
  | none => s
  | some g =>
    match g.boundary with
    | none => s
    | some (cap, slice) =>
      let c := chan s h
      match c.cfg with
      | none => s
      | some f =>
        let open_ := c.pics.any fun q =>
          decide (q.unitsEnq < unitsOf f) && unitBefore c f (cap, slice) q q.unitsEnq
        let before (k : Pkt) : Bool :=
          match c.pics.find? fun q => decide (q.capture = k.capture) with
          | some q => unitBefore c f (cap, slice) q k.unit
          | none => decide (k.capture < cap)
        if g.role = 0 ∧ g.yielded ∧ c.state = .migrating ∧ !open_ ∧
            !hasPackets (fun k => ofChan h k && before k) s then
          finishMigration h g.shadow (capNs cap)
            (if g.grantKind = 3 then .configured else .idle) (sendRelease h s)
        else s

/-! ### CANCEL (R329) and exhausted work (R328) -/

/-- A task that CANCEL removes: its slot is free; one that runs goes on to its DONE, which frees nothing
more. -/
def cancelTask (ch : Nat) (t : Task) : Task :=
  if t.inUse ∧ t.desc.channel = ch then
    { t with inUse := false, submitted := false, inList := false, lent := none, cancelled := true }
  else t

def cancelJoin (ch : Nat) (j : Join) : Join :=
  if j.inUse ∧ j.channel = ch then { j with inUse := false, cancelled := true } else j

/-- CANCEL of a channel, in every region; band tokens of the channel that no pipeline has used go with its tasks (DESIGN
CHOICE, assumption log 76). -/
def cancelTasks (ch : Nat) (s : State) : State :=
  { s with tsk := { s.tsk with
      tokens := s.tsk.tokens.filter fun x => x.1 ≠ ch
      regions := s.tsk.regions.map fun e =>
      (e.1, { e.2 with tasks := e.2.tasks.map fun t => (t.1, cancelTask ch t.2)
                       joins := e.2.joins.map fun j => (j.1, cancelJoin ch j.2) }) } }

/-- Firmware's part for a channel whose work is exhausted: a protected channel in RUNNING yields, any other
that runs becomes FAULTED, and its tasks are cancelled. -/
def exhaustChan (h : Nat) (s : State) : State :=
  let c := chan s h
  let s1 := if !active c.state then s
    else if isProtected s h && decide (c.state = .running) then startYield h 2 s
    else faultChan h s
  cancelTasks h s1

end Sys2Proof.Machine
end

