-- ==== Sys2Proof/Machine/Tick.lean ====
section
/-! DEFINITION. Machine/Tick.lean: one 2 ns cycle of the TIM island (R146, R154). -/

namespace Sys2Proof.Machine

/-- 5 ppm of a 2 ns cycle, in 2^-32 ns. -/
def slewMax : Int := 42949

/-- How much faster than its frequency word device time runs in a cycle: nothing unless it slews, and then
towards the selected domain by at most 5 ppm (R154). -/
def slewStep (t : Tim) : Int :=
  if t.state = 3 then
    match t.selected with
    | none => 0
    | some k =>
      match t.domains[k]? with
      | none => 0
      | some d => max (-slewMax) (min slewMax d.ahead)
  else 0

/-- A local copy advances in its own island, by the time of a cycle at the rate that the time base last sent (R147). -/
def advanceCopy (c : TimeCopy) : TimeCopy :=
  let whole := c.value * 65536 + c.phase + (2 * 4294967296 + c.rate).toNat
  { c with value := whole / 65536, phase := whole % 65536 }

/-- Advances device time by one cycle, once the device is out of reset: 2 ns, the frequency word and the slew,
in units of 2^-32 ns with the part below 2^-16 ns kept in the phase accumulator; the domains' estimates run at their own
frequencies, and the local copies advance (R146, R147, R152; DESIGN CHOICE, assumption log 6). -/
def tick (s : State) : State :=
  let t := s.tim
  let step := slewStep t
  let adv := (2 * 4294967296 + t.freq + step).toNat
  let whole := t.now * 65536 + t.phase + adv
  if s.pwr.phase ≠ 3 then s
  else { s with tim := { t with
      now := whole / 65536, phase := whole % 65536
      copies := t.copies.map advanceCopy
      domains := t.domains.map fun d => { d with ahead := d.ahead + d.freq - t.freq - step } } }

end Sys2Proof.Machine
end

