-- ==== Sys2Proof/Machine/Time.lean ====
section
/-! DEFINITION. Machine/Time.lean: the local copies and the latches of device time, PPS and 10 MHz, and the TIME opcodes
(R147, R148, R150, R152 to R154, R162 to R164). -/

namespace Sys2Proof.Machine

/-! ### Slews, latches and copies (R147, R148, R154) -/

/-- The offset to the selected domain is below 1 ns: the slew ends. -/
def execSlewComplete (s : State) : Out :=
  match s.tim.selected with
  | some k =>
    if s.tim.state = 3 ∧ belowNs (domOf s k).ahead = true then
      .next { s with tim := { s.tim with state := 1 } }
    else .next s
  | none => .next s

/-- The update that an island receives: the value that left the time base one path delay before, to which the island
adds the delay that firmware measured at boot, and the rate (R147). -/
def updateCopy (t : Tim) (island : Nat) (c : TimeCopy) : TimeCopy :=
  { c with value := t.now - Config.pathDelay island + c.delay, phase := t.phase, rate := t.freq + slewStep t }

/-- The time base sends its value to every local copy (R16). -/
def execTimeCopyUpdate (s : State) : Out :=
  .next { s with tim := { s.tim with copies := s.tim.copies.mapIdx (updateCopy s.tim) } }

/-- Firmware measures the path delay to each island at boot (R147). -/
def measurePaths (s : State) : State :=
  { s with tim := { s.tim with copies := s.tim.copies.mapIdx fun i c => { c with delay := Config.pathDelay i } } }

/-- A read of TIM_NOW's first word latches the register. -/
def execTimNowLatch (m : Master) (s : State) : Out :=
  if regPath s m then
    .next (returned (s.tim.now % 4294967296)
      { s with tim := { s.tim with latched := s.tim.now, latchedState := s.tim.state } })
  else .next (aborted (busError m false (regAddr 0x20000) s))

/-- A read of TIM_PPS_IN's first word latches it. -/
def execTimPpsInLatch (m : Master) (s : State) : Out :=
  if regPath s m then
    .next (returned (s.tim.ppsAt % 4294967296)
      { s with tim := { s.tim with ppsLatch := s.tim.ppsAt, ppsLatchCount := s.tim.ppsCount } })
  else .next (aborted (busError m false (regAddr 0x20010) s))

/-! ### PPS and 10 MHz (R162 to R164) -/

/-- Whether a direction takes the input, and whether it drives the output. -/
def dirIn (d : Nat) : Bool := decide (d = 1 ∨ d = 3)
def dirOut (d : Nat) : Bool := decide (d = 2 ∨ d = 3)

/-- A rising edge on PPS_IN, stamped in quarter ns. -/
def execPpsInEdge (stamp : Nat) (s : State) : Out :=
  if dirIn s.tim.ppsDir then
    .next { s with tim := { s.tim with ppsAt := stampTime stamp, ppsCount := (s.tim.ppsCount + 1) % 65536 } }
  else .next s

/-- The whole second that device time is in. -/
def secondOf (s : State) : Nat := nowNs s / 1000000000 * 1000000000

/-- PPS_OUT rises at a whole second. -/
def execPpsOutPulse (s : State) : Out :=
  if dirOut s.tim.ppsDir then .next { s with tim := { s.tim with ppsRose := secondOf s } } else .next s

/-- The level of PPS_OUT: high for 100 ms from each pulse. -/
def ppsOut (s : State) : Bool :=
  dirOut s.tim.ppsDir && decide (s.tim.ppsRose ≤ nowNs s ∧ nowNs s < s.tim.ppsRose + 100000000)

/-- The level of REF10_OUT: a square wave that rises on every 100 ns multiple of device time (R163); low while it is off
(R162). -/
def refOut (s : State) : Bool := dirOut s.tim.refDir && decide (s.tim.now % ns 100 < ns 50)

/-- The offset of an edge from the nearest 100 ns multiple, in 0.25 ns. -/
def refPhaseOf (stamp : Nat) : Int :=
  let q := stamp % 400
  if q < 200 then (q : Int) else (q : Int) - 400

/-- A rising edge on REF10_IN, stamped in quarter ns; the edges of the last 100 us are kept for PRESENT. -/
def execRef10InEdge (stamp : Nat) (s : State) : Out :=
  if dirIn s.tim.refDir then
    let es := (s.tim.refEdges.filter fun e => decide (stampTime stamp < e + ns 100000)) ++ [stampTime stamp]
    .next { s with tim := { s.tim with refEdges := es, refPhase := refPhaseOf stamp } }
  else .next s

/-- PRESENT of TIM_REF10_IN. -/
def refPresent (s : State) : Bool :=
  decide (1000 ≤ (s.tim.refEdges.filter fun e => decide (s.tim.now < e + ns 100000)).length)

/-! ### The TIME opcodes -/

/-- The offset field of DOMAIN_STATE, saturating. -/
def satOffset (d : Domain) : Nat := twos 4 (max (-2147483648) (min 2147483647 (aheadNs d)))

/-- A DOMAIN_STATE value (R152). -/
def domainState (d : Domain) : List Nat :=
  u8 d.number ++ u8 d.state ++ u8 d.source ++ u8 d.clockClass ++ u32 (satOffset d) ++ u64 d.identity

def timeStatusWork (_ : Req) (s : State) : Verdict :=
  .ok s [tlv 0x0601 1 (s.tim.selected.getD 0xFF),
         tlvB 0x0602 (domainState (domOf s 0) ++ domainState (domOf s 1)),
         tlv 0x0603 1 s.tim.holdover] false

def execTimeStatus (r : Req) (s : State) : Out := .next (serve sTimeStatus r timeStatusWork s)

/-- A slot's new number and priority: another number starts the slot anew. -/
def renumber (k n p : Nat) (s : State) : State :=
  let d := domOf s k
  if d.number = n then setDom k { d with priority := p } s
  else
    let s1 := setDomState k 1 s
    setDom k { Domain.reset n p with state := 1 } s1

def timeConfigureWork (r : Req) (s : State) : Verdict :=
  let n (k : Nat) : Nat := match getTlv r 0x0610 with
    | some v => fieldAt v k 1
    | none => (domOf s k).number
  let p (k : Nat) : Nat := match getTlv r 0x0611 with
    | some v => fieldAt v k 1
    | none => (domOf s k).priority
  paramsThen [(decide (127 < n 0 ∨ 127 < n 1), 0x0610)]
    (let s1 := { s with tim := { s.tim with manual := none } }
     .ok (reselect 0 (renumber 1 (n 1) (p 1) (renumber 0 (n 0) (p 0) s1))) [] false)

def execTimeConfigure (r : Req) (s : State) : Out := .next (serve sTimeConfigure r timeConfigureWork s)

def timeSelectWork (r : Req) (s : State) : Verdict :=
  let k := tlvD r 0x0601 0
  if 1 < k then .err stBadParam 0x0601 []
  else if (domOf s k).state ≠ 3 then badMode s
  else .ok (reselect 1 { s with tim := { s.tim with manual := some k } }) [] false

def execTimeSelect (r : Req) (s : State) : Out := .next (serve sTimeSelect r timeSelectWork s)

def timeIoWork (r : Req) (s : State) : Verdict :=
  let a := tlvD r 0x0620 s.tim.ppsDir
  let b := tlvD r 0x0621 s.tim.refDir
  paramsThen [(decide (3 < a), 0x0620), (decide (3 < b), 0x0621)]
    (.ok { s with tim := { s.tim with ppsDir := a, refDir := b } } [] false)

def execTimeIo (r : Req) (s : State) : Out := .next (serve sTimeIo r timeIoWork s)

end Sys2Proof.Machine
end

