-- ==== Sys2Proof/Machine/Ctl.lean ====
section
/-! DEFINITION. Machine/Ctl.lean: resets, boot and the hitless control restart, the bus matrix, remap,
debug unlock and the DRAM windows (R73 to R103, R549). -/

namespace Sys2Proof.Machine

/-! ### Device reset (R112, R148, R503, R532, R549) -/

/-- A flash write in progress that a reset or power-down interrupts leaves its slot unverified (R532). -/
def breakWrite (f : Flash) : Flash := { f with writing := none, broken := false }

/-- CTL_RESTART after a device reset: MISMATCH_1H and ACTIVE are cleared, the rest is kept (R97). -/
def keptRestart (r : Restart) : Restart :=
  { r with active := false, startedAt := 0, mismatchTimes := [], recopy := false }

/-- REASON 7 on the ports that a reset takes out of UP (R378). -/
def resetPorts (t : Tab FPort) : Tab FPort :=
  (t.filter fun e => 4 ≤ e.2.state).map fun e => (e.1, { FPort.reset with reason := 7 })

/-- What a device reset leaves (R549): every device-domain and control-domain field at its reset value; the RWS
fields, the power-on domain, the flash, retirements, DRAM and what stands outside the device kept (DEDUCED,
assumption log 39). -/
def deviceReset (s : State) : State :=
  { State.reset with
    pending := s.pending, free := s.free, last := s.last, fuses := s.fuses, flash := breakWrite s.flash
    ctl := { Ctl.reset with restart := keptRestart s.ctl.restart }
    mbx := { Mbx.reset with mem := s.mbx.mem, datagrams := s.mbx.datagrams, fabResps := s.mbx.fabResps }
    evt := { Evt.reset with host := s.evt.host, sent := s.evt.sent }
    mediaMode := s.mediaMode, sdi := s.sdi
    tmg := { Tmg.reset with sent := s.tmg.sent }
    mem := { MemSys.reset with dram := s.mem.dram, poison := s.mem.poison,
                               stagedMask := s.mem.stagedMask, lost := s.mem.lost }
    fab := { Fab.reset with ports := resetPorts s.fab.ports, valid := s.fab.valid, node := s.fab.node,
                            priority := s.fab.priority, delivered := s.fab.delivered,
                            sentPkts := s.fab.sentPkts }
    prt := { Prt.reset with sentLease := s.prt.sentLease, sentCroak := s.prt.sentCroak,
                            sentMirror := s.prt.sentMirror, sentRelay := s.prt.sentRelay,
                            sentContinue := s.prt.sentContinue,
                            sentMbx := s.prt.sentMbx }
    aud := { Aud.reset with played := s.aud.played }
    flt := { Flt.reset with retired := s.flt.retired, log := s.flt.log.take s.flt.flashed,
                            flashed := s.flt.flashed, powerOns := s.flt.powerOns,
                            nextIndex := ((s.flt.log.take s.flt.flashed).map LogEntry.index).foldl max 0 + 1 }
    hlth := { Hlth.reset with volts := s.hlth.volts, voltsMin := s.hlth.volts, temps := s.hlth.temps,
                              tempsMax := s.hlth.temps, powerMw := s.hlth.powerMw }
    pwr := s.pwr, gpio := { Gpio.reset with inp := s.gpio.inp } }

/-! ### Boot (R90, R92 to R96, R336, R343, R511) -/

/-- A boot record's 16 bytes (R92). -/
def recordBytes16 (r : BootRecord) : List Nat :=
  let b := u32 0x52454342 ++ u32 r.seq ++ u8 r.preferred ++ u8 r.trial ++ u8 r.bootToService.toNat ++ [0]
  b ++ u32 (crc32c b)

/-- Where a copy of the boot record stands in flash (R88). -/
def recordAt (copy : Nat) : Nat := 0x4000000 + 0x10000 * copy

/-- A copy of the boot record; `ok` says that its magic and CRC-32C match (R92). -/
def recordCopy (f : Flash) (copy : Nat) : BootRecord :=
  let bs := byteNats (memReads f.bytes (recordAt copy) 16)
  { ok := decide (hdrField bs 0 4 = 0x52454342 ∧ hdrField bs 12 4 = crc32c (bs.take 12))
    seq := hdrField bs 4 4, preferred := hdrField bs 8 1, trial := hdrField bs 9 1
    bootToService := decide (hdrField bs 10 1 = 1) }

/-- Whether copy 0 is the one in use: valid, and not behind a valid copy 1. -/
def firstCopy (f : Flash) : Bool :=
  let a := recordCopy f 0
  let b := recordCopy f 1
  a.ok && (!b.ok || decide (b.seq ≤ a.seq))

/-- The copy of the boot record in use: the valid one with the higher sequence. -/
def bootRecord (f : Flash) : BootRecord :=
  if firstCopy f then recordCopy f 0
  else if (recordCopy f 1).ok then recordCopy f 1
  else { ok := true, seq := 0, preferred := 0, trial := 0, bootToService := false }

/-- Writes a boot record over the older copy, with a sequence one higher than the newer (R92). -/
def writeRecord (f : Flash) (pref trial : Nat) (flag : Bool) : Flash :=
  let r : BootRecord := { ok := true, seq := (bootRecord f).seq + 1, preferred := pref, trial := trial,
                          bootToService := flag }
  { f with bytes := memWrites f.bytes (recordAt (firstCopy f).toNat) (natBytes (recordBytes16 r)) }

/-- The newer valid retirement map copy. -/
def mapCopy (f : Flash) : Option MapCopy :=
  let a := f.map0
  let b := f.map1
  if a.ok ∧ (b.ok = false ∨ b.seq ≤ a.seq) then some a else if b.ok then some b else none

/-- The longest body of an image (R89). -/
def maxBody : Nat := 33550336

/-- Bytes of an image's header (R89). -/
def headerBytes : Nat := 4096

/-- The header of the image at an address of a memory (R89). -/
def headerOf (m : Mem) (a : Nat) : ImageHdr :=
  let bs := byteNats (memReads m a 352)
  { magic := hdrField bs 0 4, version := hdrField bs 4 2, keyIndex := hdrField bs 6 2, bodyLen := hdrField bs 8 4,
    fwVersion := hdrField bs 0x0C 4, rollback := hdrField bs 0x10 4, ifRev := hdrField bs 0x14 2,
    detClass := hdrField bs 0x16 2, digest := hdrField bs 0x20 48, key := (bs.drop 0x80).take 97,
    sig := (bs.drop 0x100).take 96, signed := bs.take 0x80 }

/-- The SHA-384 of the body of the image at an address. -/
def bodyDigest (m : Mem) (a : Nat) : Nat :=
  ofLe (sha384 (byteNats (memReads m (a + headerBytes) (headerOf m a).bodyLen)))

/-- The first of checks 1 to 6 of R90 that an image fails in `room` bytes; 0 when it passes them. An image that `room`
does not hold fails check 2, and a key index without a fuse check 3 (DESIGN CHOICE, assumption logs 9 and 63). -/
def headerFail (s : State) (h : ImageHdr) (room : Nat) : Nat :=
  if h.magic ≠ 0x48544245 ∨ h.version ≠ 1 then 1
  else if h.bodyLen % 4096 ≠ 0 ∨ maxBody < h.bodyLen ∨ room < headerBytes + h.bodyLen then 2
  else if s.fuses.revoked.contains h.keyIndex ∨ 3 < h.keyIndex then 3
  else if ofLe (sha384 h.key) ≠ s.fuses.keyHashes.getD h.keyIndex 0 then 4
  else if ecdsaOk h.key h.sig h.signed = false then 5
  else if h.rollback < s.fuses.rollback then 6
  else 0

/-- Whether check 8 fails. -/
def revisionBad (h : ImageHdr) : Bool := decide (h.ifRev ≠ 2 ∧ h.ifRev ≠ 3)

/-- The first check of R90, in the order given, that the image at an address fails; 0 when it passes all eight. -/
def imageFail (s : State) (m : Mem) (a room : Nat) : Nat :=
  let h := headerOf m a
  let f := headerFail s h room
  if f ≠ 0 then f
  else if bodyDigest m a ≠ h.digest then 7
  else if revisionBad h then 8
  else 0

/-- Bytes of a flash slot (R88). -/
def slotBytes : Nat := 0x2000000

/-- Where a flash slot begins. -/
def slotAt (k : Nat) : Nat := slotBytes * k

/-- The header of a flash slot. -/
def slotHeader (s : State) (k : Nat) : ImageHdr := headerOf s.flash.bytes (slotAt k)

/-- What the checks on the header of a slot find, 0 to go on to its body (R95). A slot that fails check 8 and whose body
would fail check 7 reports 7, which R90 puts first (DEDUCED, assumption log 9). -/
def slotFail (s : State) (k : Nat) : Nat :=
  let h := slotHeader s k
  if headerFail s h slotBytes = 0 ∧ revisionBad h = false then 0 else imageFail s s.flash.bytes (slotAt k) slotBytes

def setBoot (b : BootStatus) (s : State) : State := { s with ctl := { s.ctl with boot := b } }

/-- FAIL_A or FAIL_B. -/
def setFail (k code : Nat) (b : BootStatus) : BootStatus :=
  if k = 0 then { b with failA := code } else { b with failB := code }

def failOf (k : Nat) (b : BootStatus) : Nat := if k = 0 then b.failA else b.failB

/-- Waits for a host image: window 0 over the staging area, STAGE 4 (R94). -/
def waitHost (s : State) : State :=
  let w : Win := { base := 1, hostOwn := false, wrEn := true, rdEn := true, en := true }
  setBoot { s.ctl.boot with stage := 4 } { s with ctl := { s.ctl with wins := tabSet s.ctl.wins 0 w } }

/-- The slot that the boot ROM tries: the preferred one until it has failed. -/
def bootSlot (s : State) : Nat :=
  let p := (bootRecord s.flash).preferred % 2
  if failOf p s.ctl.boot = 0 then p else 1 - p

/-- A slot fails with a code: the other is tried if it has not failed, else a host image is waited for (R94). -/
def slotFails (k code : Nat) (s : State) : State :=
  let b := setFail k code s.ctl.boot
  if failOf (1 - k) b = 0 then setBoot { b with stage := 2 } s else waitHost (setBoot b s)

/-- The boot ROM's checks on a header, at STAGE 2: the body is copied next, at STAGE 3, or the slot fails (R94, R95). -/
def verifyHeader (s : State) : State :=
  if s.ctl.boot.stage = 2 then
    let k := bootSlot s
    let f := slotFail s k
    if f = 0 then setBoot { s.ctl.boot with stage := 3 } s else slotFails k f s
  else s

/-- One cycle in which no command comes: time passes, and a boot ROM at STAGE 2 checks its header (DESIGN CHOICE,
assumption log 1). -/
def idle (s : State) : State := tick (verifyHeader s)

/-- Whether a staged mask is valid for bank bit j (R336). -/
def maskOk (j : Nat) (m : BitVec 40) : Bool :=
  m.getLsbD (17 + j) &&
    (List.range 40).all fun b =>
      !(m.getLsbD b && (decide (b ≤ 22) && decide (b ≠ 17 + j) || decide (37 ≤ b)))

/-- The six staged masks become active, or the defaults when one is not valid. -/
def loadMasks (s : State) : State :=
  let ms := (List.range 6).map fun j => tabGet (defaultMask j) s.mem.stagedMask j
  let ok := ((List.range 6).zip ms).all fun e => maskOk e.1 e.2
  { s with mem := { s.mem with
      actMask := if ok then (List.range 6).zip ms else defaultMasks, fallback := !ok } }

/-- Memory training: the fitted controllers that neither the retirements nor MEM_LOST names; T is 16 GiB for
each controller in service (R333, R343). -/
def trainMemory (s : State) : State :=
  let on := (List.range 8).filter fun n =>
    inService s (.controller (Fin.ofNat 8 n)) && !s.mem.lost.getLsbD n
  { s with mem := { s.mem with trained := on, topGib := 16 * on.length } }

/-- A lockstep fault that the second mismatch made permanent, once the restart that it started has ended: LOCKSTEP_PERM
and EV_CTL_FAULT (R74, R554). -/
def lockstepPermanent (s : State) : State :=
  let r := s.ctl.restart
  match r.permPending with
  | none => s
  | some n =>
    let s1 := { s with ctl := { s.ctl with restart := { r with lockstepPerm := true, permPending := none } } }
    if r.lockstepPerm then s1
    else raise evCtlFault noChan (u8 n) { s1 with pwr := { s1.pwr with alertN := s1.pwr.alertN && !s1.pwr.faultN } }

/-- The boot ROM starts (R94, R95): it reads the boot record, acts on the trial state (R93), loads the masks,
trains memory and goes on to a slot's header, STAGE 2 (DESIGN CHOICE, assumption log 1). -/
def bootStart (s : State) : State :=
  let r := bootRecord s.flash
  let f1 := match r.trial with
    | 1 => writeRecord s.flash r.preferred 2 r.bootToService
    | 2 => writeRecord s.flash (1 - r.preferred % 2) 0 r.bootToService
    | _ => s.flash
  let s1 := { s with flash := f1 }
  let s2 := setBoot { s1.ctl.boot with stage := 2, serviceFlag := r.bootToService,
                                       trialReverted := decide (r.trial = 2) } s1
  lockstepPermanent (trainMemory (loadMasks s2))

/-- A device reset into BOOT with the boot ROM starting at once. -/
def resetBoot (s : State) : State := bootStart (deviceReset s)

/-- RETIRE of the lanes that the retirement map names (R506, R511). -/
def retireLanes (s : State) : State :=
  s.flt.retired.foldl (fun s u => match u with
    | .lane p l =>
      let f := fport s p.val
      setFport p.val { f with lanes := f.lanes.modify l.val fun x => { x with retired := true } } s
    | _ => s) s

/-- Where the running image copy stands in the firmware region (R83; DESIGN CHOICE, assumption log 9). -/
def imageBase : Nat := 0

/-- The image of a memory as the copy in the firmware region (R83, R95). -/
def copyImage (m : Mem) (a : Nat) (s : State) : State :=
  { s with mem := { s.mem with dram := memCopy m a (headerBytes + (headerOf m a).bodyLen) s.mem.dram imageBase } }

/-- The vector table of the image copy in control SRAM (R95, R98; DESIGN CHOICE, assumption log 9). -/
def restoreVectors (s : State) : State :=
  { s with ctl := { s.ctl with sram := memWrites s.ctl.sram 0 (Config.vectorTable s.ctl.imgDigest) } }

/-- Firmware starts from the image at an address of a memory (R95): the image copy, the digest locked, the vector table,
REMAP, STAGE 6, the watchdog armed, and the automatic transition to SERVICE or READY taken (R49, R50). -/
def startFirmware (source : Nat) (m : Mem) (a : Nat) (s : State) : State :=
  let h := headerOf m a
  let b := { s.ctl.boot with stage := 6, source := source }
  let s0 := copyImage m a s
  let s1 := restoreVectors { s0 with
    ctl := { s0.ctl with boot := b, imgDigest := h.digest, remap := true, fwRunning := true,
                         wdogArmed := true, wdogLast := nowNs s }
    hif := { s0.hif with detClass := h.detClass, fwVersion := h.fwVersion, ifRevMax := revHigh,
                         ifRevMin := revLow }
    flt := { s0.flt with selftest := some bootTest } }
  let lost := (List.range 8).filter fun n => s.mem.lost.getLsbD n
  let s2 := lost.foldl (fun s n =>
    becomePermanent (.controller (Fin.ofNat 8 n)) 3
      (countFault (.controller (Fin.ofNat 8 n)) 9 0xFF 0 s)) (retireLanes s1)
  beginMode (if b.serviceFlag then .service else .ready) { s2 with mem := { s2.mem with lost := 0 } }

/-- The body copy completes with the digest of its bytes (check 7): firmware starts, or the slot fails. The hash engine
gives no other digest. -/
def execBootImageCopyDone (digest : Nat) (s : State) : Out :=
  if s.ctl.boot.stage ≠ 3 ∨ s.ctl.fwRunning = true ∨ digest ≠ bodyDigest s.flash.bytes (slotAt (bootSlot s)) then .next s
  else
    let k := bootSlot s
    if digest = (slotHeader s k).digest then
      .next (startFirmware k s.flash.bytes (slotAt k) s)
    else .next (slotFails k 7 s)

/-- A write of CTL_BOOT_GO: GO in bit 31, LENGTH_4K in bits [13:0]; ignored unless STAGE is 4 (R94; DESIGN
CHOICE, assumption log 1). -/
def execGo (m : Master) (v : Word32) (s : State) : Out :=
  if !regPath s m then .next (busError m true (regAddr 0x18) s)
  else if v.getLsbD 31 ∧ s.ctl.boot.stage = 4 then
    .next (setBoot { s.ctl.boot with stage := 5, length4k := bitsAt v.toNat 0 14 } s)
  else .next s

/-- The staging area of a host image (R94). -/
def stagingBase : Nat := 0x04000000

/-- Verification of a host image ends, in the LENGTH_4K that CTL_BOOT_GO gave (R94; DESIGN CHOICE, assumption logs 1 and
63). An image that passes leaves FAIL_HOST at 0. The hash engine gives the digest of the body, which it forms once the
header's checks have passed. -/
def execHostImageVerifyDone (digest : Nat) (s : State) : Out :=
  let h := headerOf s.mem.dram stagingBase
  if s.ctl.boot.stage ≠ 5 then .next s
  else if headerFail s h (4096 * s.ctl.boot.length4k) = 0 ∧ digest ≠ bodyDigest s.mem.dram stagingBase then .next s
  else
    let code := imageFail s s.mem.dram stagingBase (4096 * s.ctl.boot.length4k)
    if code = 0 then
      .next (startFirmware 2 s.mem.dram stagingBase (setBoot { s.ctl.boot with failHost := 0 } s))
    else .next (setBoot { s.ctl.boot with stage := 4, failHost := code } s)

/-! ### The hitless control restart (R74, R76, R97 to R103) -/

/-- A flash write in progress is broken off; its event follows when the restart ends (R102). -/
def abortWrite (s : State) : State :=
  { s with flash := { s.flash with broken := s.flash.broken || s.flash.writing.isSome } }

/-- A fabric port that a test took off its link has the state that it held before the test (R102). -/
def testedPort (s : State) (e : Nat × FPort) : State :=
  let f := fport s e.1
  if f.state = 1 then
    let s1 := enterUp e.1 (setFport e.1 { f with lanes := e.2.lanes, ckLocked := e.2.ckLocked,
                                                 peerUsable := e.2.peerUsable, reason := e.2.reason } s)
    modFport e.1 (fun x => { x with state := e.2.state }) s1
  else s

/-- A self-test in progress is broken off; its event follows when the restart ends (R102; DEDUCED, assumption log 41). -/
def abortTest (s : State) : State :=
  s.flt.testPorts.foldl testedPort { s with flt := { s.flt with testPorts := [] } }

/-- The steps of R98: bursts and reservations of the cores and of the control DMA are closed, management
claims released, the control domain reset, ACTIVE set and the timer started from the first trigger. A further trigger
begins the boot ROM's path again and counts no second restart in RESTARTS (R103; DESIGN CHOICE, assumption log 42). -/
def beginRestart (cause : Nat) (s : State) : State :=
  let r := s.ctl.restart
  let s1 := abortTest (abortWrite (resetMaster .dma (resetMaster .cpuData (resetMaster .cpuInstr s))))
  let r1 := if r.active then { r with cause := cause, recopy := false }
    else { r with cause := cause, active := true, startedAt := nowNs s, elapsed := 0, recopy := false,
                  restarts := satAdd 255 r.restarts 1, lostBefore := s.evt.lostTotal }
  { s1 with ctl := { s1.ctl with remap := false, wdogPeriod := 100, wdogArmed := false, dmaBusy := false,
                                 fwRunning := false, restart := r1,
                                 boot := { s1.ctl.boot with stage := 7 } } }

/-- MISMATCH_1H: the lockstep mismatches of the last hour (R97). -/
def mismatches (s : State) : List Nat :=
  s.ctl.restart.mismatchTimes.filter fun t => decide (nowNs s < t + 3600000000000)

def mismatch1h (s : State) : Nat := min 255 (mismatches s).length

/-- ELAPSED: the duration of the current or last restart in 10 ms units (R97). -/
def elapsedNow (s : State) : Nat :=
  let r := s.ctl.restart
  if r.active then min 255 ((nowNs s - r.startedAt) / 10000000) else r.elapsed

/-- A trigger of R97. In BOOT, or once the lockstep fault is permanent, the device resets into BOOT
instead. A reset in BOOT keeps MISMATCH_1H. A restart of cause 2 to 5 is logged with code 15 (R500). -/
def triggerRestart (cause : Nat) (s : State) : State :=
  let r := s.ctl.restart
  if s.modes.mode = .boot then
    let s1 := resetBoot { s with ctl := { s.ctl with restart := { r with cause := cause } } }
    { s1 with ctl := { s1.ctl with restart := { s1.ctl.restart with mismatchTimes := r.mismatchTimes } } }
  else if r.lockstepPerm then
    resetBoot { s with ctl := { s.ctl with restart := { r with cause := cause } } }
  else
    let s1 := if cause = 1 then s else (logFault 15 0 0 0 0xFF 0 [cause] s).2
    beginRestart cause s1

/-- A lockstep mismatch: counted over the last hour; the second makes the fault permanent when the restart
that it starts has ended (R74). -/
def lockstep (s : State) : State :=
  let r := s.ctl.restart
  let ts := mismatches s ++ [nowNs s]
  let r1 := { r with mismatchTimes := ts
                     permPending := if 2 ≤ ts.length then some (min 255 ts.length) else r.permPending }
  triggerRestart 1 (countFault .control 14 0xFF 0 { s with ctl := { s.ctl with restart := r1 } })

def execLockstepMismatch (s : State) : Out := .next (lockstep s)

def execCtlSramUncorrectable (s : State) : Out := .next (triggerRestart 3 s)

/-- Whether firmware executes: from its start, or from its restart entry on (R95, R98). -/
def fwEntered (s : State) : Bool := s.ctl.fwRunning || (s.ctl.restart.active && decide (s.ctl.boot.stage = 6))

/-- A fatal exception of firmware. -/
def execFwFatalException (s : State) : Out := .next (if fwEntered s then triggerRestart 4 s else s)

/-- A write to CTL_WDOG (R76): PERIOD_MS from 10 to 1000 is taken, and KICK restarts the count. -/
def execKick (m : Master) (v : Word32) (s : State) : Out :=
  if m ≠ .cpuData then .next (busError m true (regAddr 0x28) s)
  else
    let p := bitsAt v.toNat 0 10
    let c := s.ctl
    .next { s with ctl := { c with
      wdogPeriod := if 10 ≤ p ∧ p ≤ 1000 then p else c.wdogPeriod
      wdogLast := if v.getLsbD 31 then nowNs s else c.wdogLast } }

/-- The watchdog's period passes with no KICK. -/
def execWatchdogExpiry (s : State) : Out :=
  if s.ctl.wdogArmed ∧ s.ctl.wdogLast + s.ctl.wdogPeriod * 1000000 ≤ nowNs s then
    .next (triggerRestart 2 s)
  else .next s

/-- The boot ROM restores the vector table and enters firmware at its restart entry; the watchdog is armed as firmware
starts (R76, R97, R98). -/
def enterFirmware (s : State) : State :=
  restoreVectors { s with ctl := { s.ctl with
    remap := true, wdogArmed := true, wdogLast := nowNs s, boot := { s.ctl.boot with stage := 6 }
    restart := { s.ctl.restart with recopy := false } } }

/-- The end of a restart that DONE does not end (R103): launches and renewals stop, and the device resets
into BOOT. -/
def failRestart (s : State) : State :=
  resetBoot (stopLaunches { s with ctl := { s.ctl with restart := { s.ctl.restart with elapsed := elapsedNow s } } })

/-- The digest of the image copy: a match enters firmware, a host-loaded image cannot be recopied, and any
other is recopied from its slot (R98). The hash engine gives no other digest than that of the copy. -/
def execRestartImageCheckDone (digest : Nat) (s : State) : Out :=
  if !s.ctl.restart.active ∨ s.ctl.boot.stage ≠ 7 ∨ digest ≠ bodyDigest s.mem.dram imageBase then .next s
  else if digest = s.ctl.imgDigest then .next (enterFirmware s)
  else if s.ctl.boot.source = 2 then .next (failRestart s)
  else .next { s with ctl := { s.ctl with restart := { s.ctl.restart with recopy := true } } }

/-- The image has been recopied from the slot that SOURCE names (R98). -/
def execRestartRecopyDone (s : State) : Out :=
  if s.ctl.restart.active ∧ s.ctl.boot.stage = 7 ∧ s.ctl.restart.recopy = true then
    .next (enterFirmware (copyImage s.flash.bytes (slotAt s.ctl.boot.source) s))
  else .next s

/-- The event of a flash write that the restart broke off (R102). -/
def reportWrite (s : State) : State :=
  match s.flash.writing, s.flash.broken with
  | some k, true => raise evFwWritten noChan (u8 k ++ [0] ++ u16 stFault)
      { s with flash := { s.flash with writing := none, broken := false } }
  | _, _ => s

/-- The event of a self-test that the restart broke off (R102). -/
def reportTest (s : State) : State :=
  if testing s then
    let (i, s1) := logFault 0x21 0 0 0 0xFF 0 [2] s
    raise evSelftest noChan (u8 2 ++ u32 i) { s1 with flt := { s1.flt with selftest := none } }
  else s

/-- The events that follow the end of a restart (R101, R102, R74). -/
def restartEvents (s : State) : State :=
  let r := s.ctl.restart
  let s2 := reportTest (reportWrite s)
  lockstepPermanent (raise evCtlRestarted noChan
    (u8 r.cause ++ [0, 0, 0] ++ u32 ((nowNs s - r.startedAt) / 1000000) ++
      u32 (s2.evt.lostTotal - r.lostBefore)) s2)

/-- The commands accepted and not answered are completed again before held doorbells are taken (R101). -/
def redoWork (m : Mbx) : Mbx := { m with inWork := m.inWork.map fun w => { w with redo := true } }

/-- Firmware writes CTL_RESTART.DONE: the restart ends. -/
def endRestart (s : State) : State :=
  let r := s.ctl.restart
  let s1 := restartEvents { s with
    mbx := redoWork s.mbx
    ctl := { s.ctl with fwRunning := true, restart := { r with active := false, elapsed := elapsedNow s } } }
  settle (hifSync (reselect 0 s1))

/-- A write to CTL_RESTART: DONE in bit 1, from the control processor data port while a restart is in
progress. -/
def execDone (m : Master) (v : Word32) (s : State) : Out :=
  if !regPath s m then .next (busError m true (regAddr 0x20) s)
  else if m = .cpuData ∧ v.getLsbD 1 ∧ s.ctl.restart.active ∧ s.ctl.boot.stage = 6 then
    .next (endRestart s)
  else .next s

/-- Two seconds after the first trigger without DONE (R103). -/
def execRestartTimeout (s : State) : Out :=
  if s.ctl.restart.active ∧ s.ctl.restart.startedAt + 2000000000 ≤ nowNs s then .next (failRestart s)
  else .next s

/-! ### The bus matrix (R77 to R80, R543, R546) -/

/-- A W1C write to CTL_ERR_LOG.VALID, bit 44. -/
def execValid (m : Master) (v : Word64) (s : State) : Out :=
  if !regPath s m then .next (busError m true (regAddr 0x30) s)
  else if v.getLsbD 44 then
    .next { s with ctl := { s.ctl with errLog := { s.ctl.errLog with valid := false } } }
  else .next s

/-- A BAR0 access of a kind that R544 does not allow, or outside the listed blocks. -/
def execBar0BadAccess (m : Master) (write : Bool) (offset : BitVec 21) (s : State) : Out :=
  let x := offset.toNat
  let a := if x < 0x100000 then 0x40000000 + x else 0x50000000 + (x - 0x100000)
  let s1 := busError m write (BitVec.ofNat 40 a) s
  .next (if write then s1 else aborted s1)

/-- REMAP goes from 0 to 1 by the control processor data port only (R80). -/
def execRemap (m : Master) (v : Word32) (s : State) : Out :=
  if !regPath s m then .next (busError m true (regAddr 0) s)
  else if m = .cpuData ∧ v.getLsbD 0 then .next { s with ctl := { s.ctl with remap := true } }
  else .next s

/-! ### Debug unlock (R81) -/

/-- A second after a failed unlock (R81). -/
def lockoutOver (s : State) : Bool :=
  match s.ctl.lockout with
  | some t => decide (t + 1000000000 ≤ nowNs s)
  | none => true

/-- DBG_AUTH draws a challenge unless a lockout runs. -/
def execDbgAuth (challenge : BitVec 256) (s : State) : Out :=
  if lockoutOver s then .next { s with ctl := { s.ctl with challenge := some challenge } } else .next s

/-- The 40 bytes that a debugger signs: challenge and device UID (DEDUCED, assumption log 9, of the UID's byte order). -/
def dbgMessage (s : State) (c : BitVec 256) : List Nat := le 32 c.toNat ++ u64 s.fuses.uid

/-- The key and signature that were shifted in are checked against the fused hash and the challenge (R81). -/
def execDbgAuthVerify (key sig : List Byte) (s : State) : Out :=
  match s.ctl.challenge with
  | none => .next s
  | some c =>
    let k := byteNats key
    if sha384 k = le 48 s.fuses.debugKeyHash.toNat ∧ ecdsaOk k (byteNats sig) (dbgMessage s c) = true then
      .next { s with ctl := { s.ctl with challenge := none
                                         debugUnlocked := s.ctl.debugUnlocked || !s.fuses.debugDisable } }
    else .next { s with ctl := { s.ctl with challenge := none, lockout := some (nowNs s) } }

/-- The lockout ends when its second has passed. -/
def execDbgLockoutExpiry (s : State) : Out :=
  .next (if lockoutOver s then { s with ctl := { s.ctl with lockout := none } } else s)

def execDebugDisconnect (s : State) : Out := .next (resetMaster .debug s)

/-! ### Resets of one master (R85 to R87, R549) -/

/-- A hot reset, FLR or link down: the PCIe master, its claims, and the PCIe configuration space with the
MSI-X table and PBA. -/
def execPcieReset (s : State) : Out :=
  let s1 := resetMaster .pcie s
  .next { s1 with evt := { s1.evt with busMaster := false, msixEn := false, masked := List.range 32, pba := [] } }

def execCtlDmaAbort (s : State) : Out :=
  let s1 := resetMaster .dma s
  .next { s1 with ctl := { s1.ctl with dmaBusy := false } }

def execMirrorStreamRecovery (ch : Fin 64) (s : State) : Out :=
  .next (modGroup ch.val (fun g => { g with mirrorBad := g.mirrorBad || decide (g.role = 1) })
    (resetMaster .mirror s))

/-! ### DRAM windows (R82 to R84) -/

def winOf (s : State) (n : Nat) : Win := tabGet Win.reset s.ctl.wins n

/-- The fields of a CTL_WINn value. -/
def winFields (v : Nat) (own : Bool) : Win :=
  { base := BitVec.ofNat 11 (bitsAt v 26 11), hostOwn := own, wrEn := bitAt v 2, rdEn := bitAt v 1,
    en := bitAt v 0 }

/-- A write to CTL_WINn: PCIe only where HOST_OWN is set and with BASE at 16 or above; only the control
processor data port changes HOST_OWN. -/
def execCtlWinWrite (n : Fin 16) (m : Master) (v : Word64) (s : State) : Out :=
  let w := winOf s n.val
  let a := regAddr (0x100 + 8 * n.val)
  let put (own : Bool) : State :=
    { s with ctl := { s.ctl with wins := tabSet s.ctl.wins n.val (winFields v.toNat own) } }
  if !regPath s m then .next (busError m true a s)
  else if m = .pcie ∧ (w.hostOwn = false ∨ bitsAt v.toNat 26 11 < 16) then .next (busError m true a s)
  else .next (put (if m = .cpuData then v.getLsbD 3 else w.hostOwn))

end Sys2Proof.Machine
end

