-- ==== Sys2Proof/Machine/Chan.lean ====
section
/-! DEFINITION. Machine/Chan.lean: the CHAN opcode group (R57 to R72, R136, R137, R246, R260, R298,
R299). -/

namespace Sys2Proof.Machine

/-! ### CHAN.CONFIGURE -/

/-- The detail of a refused value of CHAN.CONFIGURE, in the order in which this model checks (assumption log
12): raw values first (DEDUCED, assumption log 37). -/
def chanValueBad (r : Req) (c : ChanCfg) : Option Nat :=
  let rc := [0x020F, 0x0210, 0x0211]
  let gw := c.role = .gateway
  firstBad
    ([(decide (3 < tlvD r 0x0201 0), 0x0201), (decide (3 < tlvD r 0x0202 0), 0x0202),
      (decide (c.width % 8 ≠ 0 ∨ c.width < 256 ∨ (if c.codec = .avc then 3840 else 8192) < c.width), 0x0205),
      (decide (c.height % 8 ≠ 0 ∨ c.height < 256 ∨ (if c.codec = .avc then 2160 else 4320) < c.height), 0x0206),
      (decide (picNum c * 1001 < 24000 * c.rateDen ∨ 120 * c.rateDen < picNum c ∨ c.rateNum = 0), 0x0207),
      (decide (c.rateDen = 0), 0x0208),
      (decide (c.chroma < 1 ∨ 3 < c.chroma), 0x0209),
      (decide (c.bitDepth ≠ 8 ∧ c.bitDepth ≠ 10), 0x020A),
      (decide (3 < tlvD r 0x020B 0), 0x020B)] ++
     (rc.map fun t => (!gw && !hasTlv r t, t)) ++
     (([0x020F, 0x0210, 0x0211, 0x0212, 0x0280, 0x0281, 0x0282, 0x0283] : List Nat).map fun t =>
        (gw && hasTlv r t, t)) ++
     [(decide (1 < tlvD r 0x020F 0), 0x020F),
      ((c.role = .transcode && !hasTlv r 0x021C) || decide (3 < tlvD r 0x021C 0), 0x021C),
      (decide (8 < c.outputs.length), 0x0215), (decide (64 ≤ r.channel), headerAt 8)])

/-- The checks of a configuration against the rules, in order (DESIGN CHOICE, assumption log 12; DEDUCED,
assumption log 37). -/
def chanCfgBad (r : Req) (c : ChanCfg) (s : State) : Option Nat :=
  let h := r.channel
  let inp := tabGet? s.inputs c.input
  let relay := c.input = 0xFFFF
  let jx := c.codec = .jpegxs
  let enc := encodes c.role
  let ring : Nat := match inp with | some i => i.ringFrames | none => 16
  let compressed : Bool := match inp with | some i => decide (3 ≤ i.kind) | none => false
  let codecFits : Bool := match inp with
    | some i =>
      let k := if c.role = .transcode then c.inCodec else c.codec
      (i.kind = 3 && k = .jpegxs) || (i.kind = 4 && k = .hevc) || (i.kind = 5 && k = .vvc) ||
        (i.kind = 6 && k ≠ .jpegxs)
    | none => true
  let rateFits : Bool := match inp with
    | some i => match i.format with
      | some f => decide (f.rateNum * c.rateDen = c.rateNum * f.rateDen)
      | none => true
    | none => true
  let inputBad : Bool :=
    if relay then decide (c.role ≠ .shadow)
    else inp.isNone || (compressed && !(decodes c.role || (c.role = .shadow && jx))) ||
      (decodes c.role && (!compressed || !codecFits)) || !rateFits ||
      decide (ring < keptK c + 2)
  firstBad
    ([(decide (profileBad c.role c.codec c.profile c.chroma c.bitDepth), 0x0203),
      (jx && c.latency = .lookahead, 0x020B), (c.role = .gateway && c.latency ≠ .frame, 0x020B),
      (decide (c.slices < 1 ∨ 64 < c.slices ∨ rowsOf c < c.slices), 0x020D),
      (decide (c.groupSize ≠ 0 ∧ ((c.groupSize ≠ 1 ∧ c.groupSize ≠ 2 ∧ c.groupSize ≠ 4) ∨
        c.slices % c.groupSize ≠ 0)), 0x020E),
      (jx && c.rcVbr, 0x020F),
      (enc && decide (c.maxBitrate < c.bitrate), 0x0210),
      (enc && decide (c.maxBitrate = 0), 0x0211),
      (enc && !jx && decide (c.cpbBits < ceilDiv (c.maxBitrate * c.rateDen) (picNum c)), 0x0212),
      (if c.latency = .ripple then decide (c.keyPeriod ≠ 0)
        else decide (65535 < c.keyPeriod ∨ c.keyPeriod % miniGop c ≠ 0), 0x0213),
      (inputBad, 0x0214)] ++
     (c.outputs.map fun o => (outputBad s h c o, 0x0215)) ++
     [(decide (¬ c.outputs.Nodup), 0x0215),
      (hasTs s c && (c.rcVbr || decide (c.bitrate ≠ c.maxBitrate) ||
        decide (c.cpbBits ≠ ceilDiv (c.maxBitrate * c.rateDen) (picNum c))), 0x0215),
      (decide (c.detClass ≠ s.hif.detClass), 0x0217),
      (hasTlv r 0x021A && c.latency ≠ .lookahead, 0x021A),
      (c.latency = .lookahead && decide (c.lookahead < 1 ∨ 16 < c.lookahead), 0x021A),
      (hasTlv r 0x021B && (c.latency ≠ .ripple || decide (c.refreshPeriod < 2 ∨ 256 < c.refreshPeriod)),
        0x021B)]) <|>
  toolBad r c <|>
  firstBad
    ([(decide (c.keyGpi < 32 ∧ s.gpio.dir.getLsbD c.keyGpi = true), 0x0245),
      (levelBad c, 0x0204),
      (enc && (decide (c.qpMax < c.qpMin)), 0x0280),
      (enc && decide ((if c.codec = .vvc then 63 else 51) < c.qpMax), 0x0281),
      (enc && decide (c.peak < 8 ∨ 64 < c.peak), 0x0282),
      (decide (1 < tlvD r 0x0283 0), 0x0283),
      (enc && !jx && guardBad c, 0x0211),
      (shaperBad s c, 0x0406)] ++
     (c.outputs.map fun o => (match outputOf s o with
        | some x => decide (x.kind = 6) && (match x.tsPackets with
          | some n => decide (n < tsMin s c o)
          | none => false)
        | none => false, 0x0408)) ++
     [(decide (c.delayNs < minDelay c inp ∨ 1000000000 < c.delayNs), 0x020C)])

/-- What an admission finds (R27): what the channel books, or the detail of the check that fails. -/
inductive Admit where
  | yes (c : Chan)
  | no (detail : Nat)
  deriving DecidableEq, Repr

/-- The mirror and relay budget of an active (R38, R457). -/
def fabNeed (s : State) (h : Nat) (c : ChanCfg) : Nat :=
  match group? s h with
  | some g => if g.role = 0 then mirrorBudgetOf c + if g.source = 1 then relayBudgetOf c else 0 else 0
  | none => 0

/-- The checks of R27, R206 and R422 for a configuration, against the bookings without the channel's own
(R58). -/
def admitChan (s : State) (h : Nat) (c : ChanCfg) (p : PixCfg) : Admit :=
  let f := chanFormat s c
  let inp := tabGet? s.inputs c.input
  let cost := chanCost c f
  let want := luBookedBut s h + cost
  let units := hashUnitsOf c
  let base := if units = 0 then some 0 else hashPlace s h units
  let path := placePath s h c f p
  let px := path.getD { p with path := some 0 }
  let mirror := match group? s h with
    | some g => if g.role = 0 then mirrorBudgetOf c else 0
    | none => 0
  let new : Chan := { (chan s h) with
    cfg := some c, cost := cost, hashBase := if units = 0 then none else base,
    ingestBudget := ingestBudgetOf c inp px, codingBudget := codingBudgetOf c f,
    egressBudget := egressOf s c, mirrorBudget := mirror, fabBudget := fabNeed s h c, pix := some px }
  if luLimit s < want then .no (1 + (want - luLimit s) % 65536 * 65536)
  else match placeWorks s h [] (worksOf c f) with
    | none => .no 2
    | some runs =>
      if base.isNone ∨ memBookable s < memBookedBut s h + chanMem new then .no 3
      else if path.isNone then .no 5
      else if ratesBad s c then .no 6
      else .yes { new with runs := runs }

/-- The processing that a configuration takes on: the one in place while the input keeps its format, else
no processing. -/
def pixFor (s : State) (h : Nat) (c : ChanCfg) : PixCfg :=
  let f := chanFormat s c
  match (chan s h).pix, (chan s h).cfg with
  | some p, some old => if chanFormat s old = f then p else pixDefault f
  | _, _ => pixDefault f

/-- The admitted channel in place, CONFIGURED, with its shed rank and nothing of an earlier run. -/
def installChan (r : Req) (new : Chan) (s : State) : State :=
  let h := r.channel
  let s1 := setChan h { clearRun new with applied := [], shedRank := tlvD r 0x0216 128 } s
  let s2 := if (chan s h).state = .configured then s1 else toState h .configured s1
  match new.cfg with
  | some c => setShapers s2 c
  | none => s2

/-- The command held while the fabric manager answers, or while another waits for it (R120; DEDUCED, assumption
log 40). -/
def heldOf (op : Nat) (r : Req) (s : State) : InWork :=
  (workOf r s).getD { slot := (r.slot.map Fin.val).getD 255, opcode := op, req := r,
                      accepted := nowNs s, redo := false }

/-- Sends the booking request of R403 and holds the command until the manager answers. -/
def askBooking (op dest bytes : Nat) (r : Req) (s : State) : Verdict :=
  .wait (tellManager .plain bytes
    { s with fab := { s.fab with wantBooking := some (heldOf op r s), bookingSince := nowNs s, bookingDest := (dest, bytes) } })

/-- The opcodes whose admission R28 orders: CHAN.CONFIGURE, PIX.CONFIGURE, which is checked as a repeated one (R206), and
PROT.CONFIGURE. -/
def admitting : List Nat := [0x0201, 0x0501, 0x0801]

/-- Whether an admitting command accepted before a request's has not been answered yet (R28, R119). -/
def earlierAdmit (r : Req) (s : State) : Bool :=
  match workOf r s with
  | some w => (s.mbx.inWork.takeWhile fun x => decide (x.slot ≠ w.slot)).any fun x => admitting.contains x.opcode
  | none => false

/-- Whether an admitting command is held: behind one that waits for the manager, or behind an earlier one. -/
def mustHold (r : Req) (s : State) : Bool := s.fab.wantBooking.isSome || earlierAdmit r s

/-- Holds an admitting command (R28, R120; DEDUCED, assumption log 40). -/
def holdAdmit (op : Nat) (r : Req) (s : State) : Verdict :=
  .wait { s with mbx := { s.mbx with heldAdmits := s.mbx.heldAdmits ++ [heldOf op r s] } }

/-- DELAY_MIN_NS of a request: the minimum D of the configuration that it carries, 0 where that is none (R285). -/
def delayTlv (r : Req) (s : State) : Tlv :=
  let c := cfgOf r s
  tlv 0x029F 8 (if (chanValueBad r c).isSome then 0 else minDelay c (tabGet? s.inputs c.input))

/-- CHAN.CONFIGURE; `granted` says that the manager has booked its fabric bytes (DESIGN CHOICE, assumption log
12). -/
def configureWith (granted : Bool) (r : Req) (s : State) : Verdict :=
  let h := r.channel
  let st := (chan s h).state
  let low := [delayTlv r s]
  if st = .stopping then .err stStopping 0 low
  else if active st then .err stState (stateDetail s (stateCode st)) low
  else match chanValueBad r (cfgOf r s) with
    | some t => .err stBadParam t low
    | none =>
      let c := cfgOf r s
      match chanCfgBad r c s with
      | some t => .err stBadParam t low
      | none =>
        match admitChan s h c (pixFor s h c) with
        | .no d => .err stNoCapacity d low
        | .yes new =>
          if 0 < new.fabBudget ∧ granted = false then
            if s.fab.office.isNone then .err stNoCapacity 4 low
            else askBooking 0x0201 (match group? s h with | some g => g.shadow | none => 0) new.fabBudget r s
          else .ok (installChan r new s)
            ([tlv 0x0218 4 new.cost, tlv 0x0219 1 (pipeMap new.runs)] ++ low) false

def chanConfigureWork (r : Req) (s : State) : Verdict :=
  if mustHold r s then holdAdmit 0x0201 r s else configureWith false r s

/-- Serves a CHAN.CONFIGURE: its response carries DELAY_MIN_NS whatever the status (R285). -/
def serveConfigure (r : Req) (work : Req → State → Verdict) (s : State) : State :=
  match precheck sChanConfigure r s with
  | some (st, d) =>
    if s.ctl.fwRunning then answer 0x0201 r st d (delayTlv r s :: ignoredTlv sChanConfigure r) false s else s
  | none => serve sChanConfigure r work s

/-! ### CHAN.START -/

/-- The ports that a configuration's input and outputs use. -/
def chanPorts (s : State) (c : ChanCfg) : List PortRef :=
  (match tabGet? s.inputs c.input with | some i => inputPorts i | none => []) ++
    (c.outputs.map fun o => match outputOf s o with | some x => outputPorts x | none => []).flatten

/-- The current cap of a channel: the last MAX_BITRATE that has taken effect, else M0 (R299). -/
def curCap (c : Chan) (f : ChanCfg) : Nat :=
  match (c.applied.filter fun m => m.index = 0x11).getLast? with
  | some m => m.value
  | none => f.maxBitrate

/-- The current BITRATE of a channel: the last that has taken effect, else the configured one. -/
def curRate (c : Chan) (f : ChanCfg) : Nat :=
  match (c.applied.filter fun m => m.index = 0x10).getLast? with
  | some m => m.value
  | none => f.bitrate

/-- The buckets of the null checkpoint: full (R277, R292). -/
def fullBuckets (c : Chan) (f : ChanCfg) : Bucket × Bucket :=
  let b := f.cpbBits * picNum f
  if f.rcVbr then ({ fill := b, rate := curCap c f }, { fill := b, rate := curRate c f })
  else ({ fill := b, rate := curRate c f }, bucketZero)

/-- The credits of a starting channel: one frame cycle cost on each pipeline of its group (R33), in 1/256
cycles. -/
def startCredits (h : Nat) (c : Chan) (s : State) : State :=
  c.runs.foldl (fun s r =>
    let mine := c.runs.filter fun q => q.pipe = r.pipe ∧ q.work = r.work
    let v := (mine.map BandRun.frameCost).sum * 256
    let grow (p : Pipe) : Pipe := { p with credits := tabSet p.credits (h * 2 + r.work) v }
    { s with pipes := tabMod Pipe.reset s.pipes r.pipe grow }) s

/-- The values of CHAN.CONFIGURE's TLVs by tag, with every default resolved, without ROLE, INPUT, OUTPUT and SHED_RANK
(R450). Each has the length its table gives; the digest's byte form is DEDUCED (assumption log 83). -/
def cfgValues (c : ChanCfg) : List (Nat × Nat) :=
  [(0x0202, codecCode c.codec), (0x0203, c.profile), (0x0204, c.level), (0x0205, c.width), (0x0206, c.height),
   (0x0207, c.rateNum), (0x0208, c.rateDen), (0x0209, c.chroma), (0x020A, c.bitDepth),
   (0x020B, match c.latency with | .ripple => 0 | .slice => 1 | .frame => 2 | .lookahead => 3), (0x020C, c.delayNs),
   (0x020D, c.slices), (0x020E, c.groupSize), (0x020F, c.rcVbr.toNat), (0x0210, c.bitrate), (0x0211, c.maxBitrate),
   (0x0212, c.cpbBits), (0x0213, c.keyPeriod), (0x0217, c.detClass), (0x021A, c.lookahead),
   (0x021B, c.refreshPeriod), (0x021C, codecCode c.inCodec)] ++
  [(0x0240, c.tier), (0x0241, c.gop), (0x0242, c.refFrames), (0x0243, c.keyType), (0x0244, c.sceneKey.toNat),
   (0x0245, c.keyGpi), (0x0246, c.hashSearch.toNat), (0x0247, c.hashGrid), (0x0248, c.hashUnits), (0x0249, c.aq),
   (0x024A, c.deblock), (0x024B, c.sao), (0x024C, c.alf), (0x024D, c.sei)] ++
  (match c.hdrStatic with | some v => [(0x024E, v)] | none => []) ++
  [(0x024F, c.picHash), (0x0250, c.paramSets), (0x0280, c.qpMin), (0x0281, c.qpMax), (0x0282, c.peak),
   (0x0283, c.fillerOut.toNat)]

/-- Values as the TLVs of a command that carries them. -/
def asTlvs (c : CmdSpec) (vs : List (Nat × Nat)) : List Nat :=
  payload (vs.map fun v => tlv v.1 (((c.tags.find? fun t => t.1 = v.1).map Prod.snd).getD 0) v.2)

/-- One output in the digest: KIND and TS_PACKETS, then for each leg what R450 lists. -/
def outDigest (x : Output) : List Nat :=
  u8 x.kind ++ u8 (x.tsPackets.getD 0) ++ (x.legs.map fun l =>
    u8 l.leg ++ u8 l.dscp ++ u8 l.ttl ++ u32 l.dstIp.toNat ++ u16 l.dstPort ++ u16 l.srcPort ++ u32 l.ssrc.toNat ++
      u8 l.pt ++ u16 l.mtu).flatten

/-- A channel's processing in the digest: PIX.CONFIGURE's TLVs, and the SHA-384 of the LUT slot and of the coefficient
slot that it uses. -/
def pixDigest (s : State) (p : PixCfg) : List Nat :=
  asTlvs sPixConfigure
    [(0x0501, p.outColour), (0x0502, p.convert), (0x0503, p.lut), (0x0504, ofLe ((p.crop.map u16).flatten)),
     (0x0505, p.scalerSet), (0x0506, p.dither), (0x0507, p.outRange), (0x0508, p.insert.toNat), (0x0509, p.gfxWhite),
     (0x050A, p.pathReq)] ++
  sha384 (((tabGet [] s.pix.luts p.lut).map u16).flatten) ++
  sha384 (((tabGet [] s.pix.coefs p.scalerSet).map fun z : Int => u16 (z + 65536).toNat).flatten)

/-- The configuration digest of R450, as the number of its 48 bytes, the first lowest. -/
def cfgDigest (s : State) (h : Nat) : BitVec 384 :=
  let c := chan s h
  match c.cfg with
  | none => 0
  | some f =>
    let outs := (f.outputs.map fun o => match outputOf s o with | some x => outDigest x | none => []).flatten
    let pix := match c.pix with | some p => pixDigest s p | none => []
    let mods := (c.applied.map fun m => asTlvs sChanModify [(0x0200 + m.index, m.value), (0x0224, m.effective)]).flatten
    BitVec.ofNat 384 (ofLe (sha384 (asTlvs sChanConfigure (cfgValues f) ++ outs ++ pix ++ mods)))

/-- A shadow that starts sends PROT.JOIN to its active (R450). -/
def sendJoin (h : Nat) (s : State) : State :=
  match group? s h with
  | some g =>
    if g.role = 1 then
      awaitPeer g.active 0x0805 h (nowNs s + peerLimit) none
        (sendMbx g.active 0x0805 g.peerChannel
          [tlv 0x0830 48 (cfgDigest s h).toNat, tlv 0x0831 2 s.hif.detClass] s)
    else s
  | none => s

/-- STARTING, from the null checkpoint (R61, R277). -/
def startChan (h start : Nat) (s : State) : State :=
  let c := chan s h
  match c.cfg with
  | none => s
  | some f =>
    let b := fullBuckets c f
    let s1 := modChan h (fun c => { clearRun c with
      startTime := start, bufT := b.1, bufA := b.2, codingNo := 0, lastKey := 0, sinceKey := 0, sinceBp := 0,
      lastHashReset := 0, refreshCol := 0, refreshLeft := 0, rcFloors := 0, flag := 0, decFmt := 0 })
      (toState h .starting s)
    sendJoin h (settle (startCredits h c s1))

def chanStartWork (r : Req) (s : State) : Verdict :=
  let h := r.channel
  let c := chan s h
  if c.state = .stopping then .err stStopping 0 []
  else if c.state ≠ .configured then badState s h
  else match c.cfg with
    | none => badState s h
    | some f =>
      if anyOff s (chanPorts s f) then badState s h
      else
        let t := tlvD r 0x0220 (acceptedAt r s)
        if t < acceptedAt r s then .err stBadParam 0x0220 []
        else .ok (startChan h t s) [] false

def execChanStart (r : Req) (s : State) : Out := .next (serve sChanStart r chanStartWork s)

/-! ### CHAN.STOP -/

/-- The stop picture as the shadow is told it: with nothing begun the one before the first. -/
def stopFor (c : Chan) (p : Option Nat) : Nat := max 1 (p.getD (c.startTime - 1))

/-- CHAN.STOP: in order or with the abort flag; the state is looked at before the flag's value (R64; DEDUCED, assumption log 69). -/
def chanStopWork (r : Req) (s : State) : Verdict :=
  let h := r.channel
  let c := chan s h
  let flag := tlvD r 0x0222 0
  match c.state with
  | .stopping => if 1 < flag then .err stBadParam 0x0222 [] else .ok s [] false
  | .starting | .running =>
    if 1 < flag then .err stBadParam 0x0222 []
    else
      let p := stopPick c (getTlv r 0x0221)
      .ok (if flag = 1 then stopAbort h (stopGroup h 0 s) else stopAt h p (stopGroup h (stopFor c p) s)) [] false
  | _ => badState s h

def execChanStop (r : Req) (s : State) : Out := .next (serve sChanStop r chanStopWork s)

/-! ### CHAN.MODIFY -/

/-- The tags of the settings that CHAN.MODIFY may carry. -/
def settingTags : List Nat := [0x0210, 0x0211, 0x0213, 0x0216, 0x021B, 0x0223]

/-- Whether the value of a setting is refused (R68, R258, R261, R296, R299; DEDUCED, assumption log 38). -/
def settingBad (s : State) (c : Chan) (f : ChanCfg) (tag v : Nat) : Bool :=
  let m0 := f.maxBitrate
  if tag = 0x0210 then
    !encodes f.role || hasTs s f || decide (4 * v < m0) ||
      decide ((if f.rcVbr then curCap c f else m0) < v)
  else if tag = 0x0211 then
    !encodes f.role || !f.rcVbr || decide (4 * v < m0) || decide (m0 < v) || decide (v < curRate c f)
  else if tag = 0x0213 then
    !decide (f.latency = .frame ∨ f.latency = .lookahead) || decide (65535 < v) ||
      decide (v % miniGop f ≠ 0)
  else if tag = 0x021B then decide (f.latency ≠ .ripple ∨ v < 2 ∨ 256 < v)
  else if tag = 0x0223 then
    decide ((chanLegs s f)[destLeg v]? = none ∨ destPort v = 0 ∨ fieldAt v 2 2 ≠ 0 ∨ fieldAt v 10 2 ≠ 0)
  else decide (255 < v)

/-- Whether an effective picture is too early (R69): it must be at least two pictures after the last whose
coding has begun, by capture times in ns; before the first picture that is the one of the frame grid just before it
(R556). -/
def effectiveBad (c : Chan) (f : ChanCfg) (e : Nat) : Bool :=
  match c.lastBegun with
  | some l => decide (e < capNs (l + 2 * periodT f))
  | none =>
    let q := (picNum f, f.rateDen)
    active c.state && decide (e < capNs (gridTime q (ceilDiv (ns c.startTime * q.1) (gridUnit q) + 1)))

/-- A setting that waits for its effective picture. -/
def pend (h : Nat) (acked : Bool) (tag v e : Nat) (s : State) : State :=
  let m : PendingMod := { index := tag % 256, value := v, effective := e, acked := acked }
  modChan h (fun c => { c with pending := some m }) s

/-- Forwards a setting to the shadow, whose answer decides (R70, R125, R141): within 100 ms, and no later than one frame
period before the effective picture. -/
def forwardSetting (r : Req) (g : Group) (f : ChanCfg) (tag v e : Nat) (s : State) : State :=
  let len := if tag = 0x0223 then 12 else if tag = 0x0213 then 4 else if tag = 0x021B then 2 else 8
  awaitPeer g.shadow 0x0806 r.channel (min (nowNs s + peerLimit) (e - capNs (periodT f))) (some r)
    (sendMbx g.shadow 0x0806 g.peerChannel [tlv tag len v, tlv 0x0824 8 e] s)

/-- The group of which a channel is the active (R70, R141). -/
def activeGroup (s : State) (h : Nat) : Option Group :=
  match group? s h with
  | some g => if g.role = 0 then some g else none
  | none => none

/-- CHAN.MODIFY: one setting, refused as busy while another is pending (R69; DEDUCED, assumption log 38, of a request without
a setting). -/
def chanModifyWork (r : Req) (s : State) : Verdict :=
  let h := r.channel
  let c := chan s h
  let tags := (r.tlvs.map fun t => baseTag t.tag).filter fun t => settingTags.contains t
  if c.state = .stopping then .err stStopping 0 []
  else if c.state ≠ .running then badState s h
  else match c.cfg, tags with
    | none, _ => badState s h
    | some _, [] => .err stBadParam 0x0210 []
    | some _, _ :: t :: _ => .err stBadParam t []
    | some f, [tag] =>
      let v := tlvD r tag 0
      if c.pending.isSome then .err stBusy 0 []
      else if tag = 0x0216 then
        if hasTlv r 0x0224 then .err stBadParam 0x0224 []
        else .ok (modChan h (fun c => { c with shedRank := v }) s) [] false
      else match getTlv r 0x0224 with
        | none => .err stBadParam 0x0224 []
        | some e =>
          if settingBad s c f tag v then .err stBadParam tag []
          else if effectiveBad c f e then .err stBadParam 0x0224 []
          else match activeGroup s h with
            | some g =>
              if checkOnly r then .ok s [] false
              else .wait (pend h false tag v e (forwardSetting r g f tag v e s))
            | none => .ok (pend h true tag v e s) [] false

def execChanModify (r : Req) (s : State) : Out := .next (serve sChanModify r chanModifyWork s)

/-! ### CHAN.CLEAR, CHAN.STATUS and CHAN.KEY -/

def chanClearWork (r : Req) (s : State) : Verdict :=
  let h := r.channel
  match (chan s h).state with
  | .idle => .ok s [] false
  | .configured => .ok (toIdle h (stopGroup h 0 s)) [] false
  | .faulted => .ok (toIdle h (stopGroup h 0 s)) [] false
  | .stopping => .err stStopping 0 []
  | _ => badState s h

def execChanClear (r : Req) (s : State) : Out := .next (serve sChanClear r chanClearWork s)

/-- The group state that a member reports (R452): 0 without a group, and on an active whose shadow is
silent. -/
def groupStateOf (s : State) (h : Nat) : Nat :=
  match group? s h with
  | some g => if g.role = 0 ∧ g.shadowSilent = true then 0 else g.state
  | none => 0

/-- CHAN.STATUS: LAUNCHED counts packets put on a wire, one for each leg, and LATE those after their launch time (DEDUCED,
assumption log 34). -/
def chanStatusWork (r : Req) (s : State) : Verdict :=
  let c := chan s r.channel
  .ok s [tlv 0x0230 1 (stateCode c.state), tlv 0x0218 4 c.cost, tlv 0x0231 8 c.launched,
         tlv 0x0232 8 c.late, tlv 0x0233 1 (groupStateOf s r.channel), tlv 0x029E 8 c.rcFloors] false

def execChanStatus (r : Req) (s : State) : Out := .next (serve sChanStatus r chanStatusWork s)

/-- CHAN.KEY: the request is resolved at the first capture instant after its acceptance (R259, R260). -/
def chanKeyWork (r : Req) (s : State) : Verdict :=
  let h := r.channel
  let c := chan s h
  if c.state ≠ .running then badState s h
  else match c.cfg with
    | none => badState s h
    | some f =>
      if f.role = .gateway ∨ f.role = .shadow then .err stBadParam (headerAt 8) []
      else .ok (modChan h (fun c => { c with keyReqs := c.keyReqs ++ [(acceptedAt r s, 2)] }) s) [] false

def execChanKey (r : Req) (s : State) : Out := .next (serve sChanKey r chanKeyWork s)

end Sys2Proof.Machine
end

