-- ==== Sys2Proof/Machine/Map.lean ====
section
/-! DEFINITION. Machine/Map.lean: the layout of DRAM and its mapping onto the controllers (R333 to R341), the
controllers' queues, what the ledger admits there (R32, R37), and the traffic of the subsystems (R9). -/

namespace Sys2Proof.Machine

/-! ### The layout of DRAM (R333) -/

/-- 1 GiB. -/
def gib : Nat := 1073741824

/-- T, the end of DRAM (R333). -/
def memTop (s : State) : Nat := s.mem.topGib * gib

/-- A, the end of the allocation pool: one controller's 16 GiB below T (R333). -/
def poolEnd (s : State) : Nat := memTop s - 16 * gib

/-! ### Address mapping (R335, R339, R341) -/

/-- Exclusive OR of two fields. -/
def xorNat (a b : Nat) : Nat := a ^^^ b

/-- The parity of the bits of an address that a mask names. -/
def maskParity (m : BitVec 40) (p : Nat) : Bool :=
  ((List.range 40).filter fun b => m.getLsbD b && bitAt p b).length % 2 = 1

/-- The controller slot of a physical address. -/
def slotOfAddr (p : Nat) : Nat := xorNat (xorNat (bitsAt p 8 3) (bitsAt p 27 3)) (bitsAt p 30 3)

/-- The active mask of bank bit j. -/
def actMask (s : State) (j : Nat) : BitVec 40 := tabGet (defaultMask j) s.mem.actMask j

/-- The bank number of a physical address. -/
def bankOfAddr (s : State) (p : Nat) : Nat := bitmap 6 fun j => maskParity (actMask s j) p

/-- The local address of a physical address on the controller of its slot. -/
def localOf (s : State) (p : Nat) : Nat :=
  bitsAt p 23 14 * 2 ^ 20 + bankOfAddr s p * 2 ^ 14 + xorNat (bitsAt p 11 4) (bitsAt p 23 4) * 2 ^ 10 +
    bitsAt p 15 2 * 2 ^ 8 + p % 256

/-- The physical address that a controller slot holds at a local address: the mapping turned round. -/
def physOf (s : State) (slot l : Nat) : Nat :=
  let row := bitsAt l 20 14
  let hi := row * 2 ^ 23
  let bank := bitsAt l 14 6
  let low17 := bitmap 6 fun j => bitAt bank j != maskParity (actMask s j) hi
  hi + low17 * 2 ^ 17 + bitsAt l 8 2 * 2 ^ 15 + xorNat (bitsAt l 10 4) (bitsAt row 0 4) * 2 ^ 11 +
    xorNat (xorNat slot (bitsAt row 4 3)) (bitsAt row 7 3) * 2 ^ 8 + l % 256

/-- The home of a granule when a set of controllers is enabled: the controller and the local address (R339). -/
def homeIn (s : State) (on : List Nat) (p : Nat) : Nat × Nat :=
  let slot := slotOfAddr p
  let l := localOf s p
  if on.contains slot ∨ on = [] then (slot, l)
  else
    let e := on.length
    let k := ((List.range slot).filter fun n => !on.contains n).length
    let i := k * (2 * e * gib / 256) + l / 256
    (on.getD (i % e) 0, 2 * e * gib + i / e * 256 + l % 256)

/-- The controllers without the one in evacuation. -/
def survivors (s : State) : List Nat := s.mem.trained.filter (· ≠ s.mem.evacMc)

/-- The home of an address now: a granule that the evacuation has copied is served from its new home (R341). -/
def homeOf (s : State) (p : Nat) : Nat × Nat :=
  if s.mem.evac ∧ slotOfAddr p = s.mem.evacMc ∧ localOf s p / 256 < s.mem.evacNext then
    homeIn s (survivors s) p
  else homeIn s s.mem.trained p

/-- The pseudo-channel and bank of a local address as one number, and its row. -/
def bankKey (l : Nat) : Nat := bitsAt l 10 4 * 64 + bitsAt l 14 6
def rowOf (l : Nat) : Nat := bitsAt l 20 14

/-- The sector of an address. -/
def sectorOf (p : Nat) : Nat := p / 64

/-! ### Controllers -/

def mcAt (s : State) (n : Nat) : Mc := tabGet Mc.reset s.mem.mcs n

def setMc (n : Nat) (x : Mc) (s : State) : State :=
  { s with mem := { s.mem with mcs := tabSet s.mem.mcs n x } }

def modMc (n : Nat) (f : Mc → Mc) (s : State) : State := setMc n (f (mcAt s n)) s

/-- What a controller admits of an activity in a period (R37). -/
def mcLimit (s : State) (a : Nat) : Nat := roundUp (ceilDiv (memBudget s a) (mcCount s)) 64 + 4096

/-- Bytes of an activity that a controller has admitted in the period. -/
def mcUsed (s : State) (n a : Nat) : Nat := tabGet 0 s.ledger.mcUsed (n * 1024 + a)

/-- Charges bytes to an activity at a controller (R32, R39; DESIGN CHOICE, assumption log 74). -/
def chargeMc (n a bytes : Nat) (s : State) : State :=
  let s1 := addMemBytes a bytes s
  { s1 with ledger := { s1.ledger with mcUsed := tabMod 0 s1.ledger.mcUsed (n * 1024 + a) (· + bytes) } }

/-- Enters requests that arrive in the queues of their home controllers. -/
def enqueueReqs (rs : List MemReq) (s : State) : State :=
  rs.foldl (fun s r =>
    let n := (homeOf s r.addr).1
    modMc n (fun x => { x with queue := x.queue ++ [{ req := r, arrived := s.tim.now, admitted := none }] }) s) s

/-! ### Traffic of the subsystems (R9, R32) -/

/-- The enabled controllers. -/
def mcsOn (s : State) : List Nat := (List.range 8).filter (mcOn s)

/-- Bytes that a subsystem moves to or from DRAM for an activity beside the requests of MEM_REQUEST: the ledger counts
them at the enabled controllers, over which they spread evenly (DESIGN CHOICE, assumption log 76). -/
def traffic (a bytes : Nat) (s : State) : State :=
  let on := mcsOn s
  let part (i : Nat) : Nat := bytes / on.length + if i < bytes % on.length then 1 else 0
  let used := (List.range on.length).foldl
    (fun t i => tabMod 0 t (on.getD i 0 * 1024 + a) (· + part i)) s.ledger.mcUsed
  let s1 := addMemBytes a bytes s
  { s1 with ledger := { s1.ledger with mcUsed := used } }

/-- Whether an enabled controller admits nothing more of an activity in the period. -/
def spent (s : State) (a : Nat) : Bool := (mcsOn s).any fun n => decide (mcLimit s a ≤ mcUsed s n a)

/-! ### Round-robin arbiters (R40, R41) -/

/-- The grant of a round-robin arbiter of n requesters: the first at or after its pointer (R41). -/
def rrGrant (ptr n : Nat) (req : Nat → Bool) : Option Nat :=
  ((List.range n).map fun i => (ptr + i) % n).find? req

end Sys2Proof.Machine
end

