-- ==== Sys2Proof/Machine/Audio.lean ====
section
/-! DEFINITION. Machine/Audio.lean: serial audio ports, their clock loops, audio routes, rings and play, and the
AUD opcodes (R430 to R447). -/

namespace Sys2Proof.Machine

/-! ### Ports and rates -/

def sapOf (s : State) (n : Nat) : Sap := tabGet Sap.reset s.aud.ports n

def setSap (n : Nat) (x : Sap) (s : State) : State :=
  { s with aud := { s.aud with ports := tabSet s.aud.ports n x } }

/-- The rate of a rate code in Hz (R434). -/
def rateHz (code : Nat) : Nat :=
  if code = 0 then 32000 else if code = 1 then 44100 else if code = 2 then 48000 else 96000

/-- The first frame at a rate whose grid instant is at or after an instant in ns (R437). -/
def frameAt (t fs : Nat) : Nat := ceilDiv (t * fs) 1000000000

/-- A change of LOCK: EV_AUD_LOCK (R447). -/
def setLock (n lock : Nat) (s : State) : State :=
  let x := sapOf s n
  if x.lock = lock then s
  else raise evAudLock noChan (u8 n ++ u8 x.lock ++ u8 lock) (setSap n { x with lock := lock } s)

/-- Whether a port is stopped: neither started nor waiting to start (DEDUCED, assumption log 43). -/
def sapStopped (x : Sap) : Bool :=
  decide (x.lock = 0) && !x.started && x.startAt.isNone && x.startGpi.isNone

/-- The frequency of a master port's MCLK in Hz (R435). -/
def mclkHz (rate : Nat) : Nat := (if rate = 3 then 128 else 256) * rateHz rate

/-- The rising edge of a running port's MCLK that is `k` periods after the word-clock edge of a frame, in 2^-16 ns,
exactly rounded down: the two clocks are phase-locked (R435). -/
def mclkEdge (rate frame k : Nat) : Nat :=
  (frame * (mclkHz rate / rateHz rate) + k) * 1000000000 * 65536 / mclkHz rate

/-- A port stops, and a start that has not happened is cancelled (R439). A faulted port must be set again
before its next start (R442). -/
def stopSap (n : Nat) (s : State) : State :=
  let x := sapOf s n
  setLock n 0 (setSap n { x with started := false, startAt := none, startGpi := none, mclk := none,
                                 configured := x.configured && decide (x.lock ≠ 4) } s)

/-- Every port stops, as on entry to DORMANT or SERVICE (R439). -/
def stopAudio (s : State) : State := (s.aud.ports.map Prod.fst).foldl (fun s n => stopSap n s) s

/-! ### AUD.PORT (R434) -/

/-- A FORMAT value as a port's settings, its counts kept. -/
def sapFrom (v : Nat) (x : Sap) : Sap :=
  { x with
    configured := true, output := decide (fieldAt v 0 1 = 1), framing := fieldAt v 1 1,
    slots := fieldAt v 2 1, wordLen := fieldAt v 3 1, slotWidth := fieldAt v 4 1, rate := fieldAt v 5 1,
    slave := decide (fieldAt v 6 1 = 1), packing := fieldAt v 7 1,
    bandwidth := if fieldAt v 8 1 = 0 then 2 else fieldAt v 8 1, loudness := fieldAt v 9 1,
    tdmSync := fieldAt v 10 1, delta := fieldAt v 12 2 }

/-- Whether a FORMAT value lies outside the table of R434. -/
def sapBad (v : Nat) : Bool :=
  let x := sapFrom v Sap.reset
  decide (1 < fieldAt v 0 1) || decide (2 < x.framing) ||
    (if x.framing = 2 then !([2, 4, 8, 16].contains x.slots) else decide (x.slots ≠ 2)) ||
    !([16, 20, 24].contains x.wordLen) || !([16, 24, 32].contains x.slotWidth) ||
    decide (x.slotWidth < x.wordLen) || decide (3 < x.rate) || decide (1 < fieldAt v 6 1) ||
    decide (1 < x.packing) || decide (40 < fieldAt v 8 1) || decide (2 < x.loudness) ||
    decide (1 < x.tdmSync) || (decide (x.delta ≠ 0) && !x.output) || decide (fieldAt v 11 1 ≠ 0) ||
    decide (fieldAt v 14 2 ≠ 0) || decide (24576000 < x.slots * x.slotWidth * rateHz x.rate)

def audPortWork (r : Req) (s : State) : Verdict :=
  let n := tlvD r 0x0A01 0
  let v := tlvD r 0x0A02 0
  let x := sapOf s n
  if 7 < n then .err stBadParam 0x0A01 []
  else if sapStopped x = false ∧ x.lock ≠ 4 then badMode s
  else if sapBad v then .err stBadParam 0x0A02 []
  else .ok (setSap n (sapFrom v x) s) [] false

def execAudPort (r : Req) (s : State) : Out := .next (serve sAudPort r audPortWork s)

/-! ### AUD.START and AUD.STOP (R439) -/

/-- AUD.START: ports in service, configured and stopped start at a time at least 1 ms ahead or at a GPIO edge (R439; DEDUCED,
assumption log 43, of a port that AUD.PORT has not configured). -/
def audStartWork (r : Req) (s : State) : Verdict :=
  let ps := bitList 8 (tlvD r 0x0A03 0)
  let ready := ps.all fun n => sapOn s n && (sapOf s n).configured && sapStopped (sapOf s n)
  let put (t g : Option Nat) : State :=
    ps.foldl (fun s n => setSap n { sapOf s n with startAt := t, startGpi := g } s) s
  if s.modes.mode = .dormant ∨ s.modes.mode = .service ∨ ready = false then badMode s
  else match getTlv r 0x0A04, getTlv r 0x0A05 with
    | some t, none =>
      if t < acceptedAt r s + 1000000 then .err stBadParam 0x0A04 [] else .ok (put (some t) none) [] false
    | none, some g =>
      if 31 < g ∨ s.gpio.dir.getLsbD g = true then .err stBadParam 0x0A05 []
      else .ok (put none (some g)) [] false
    | _, _ => .err stBadParam 0x0A04 []

def execAudStart (r : Req) (s : State) : Out := .next (serve sAudStart r audStartWork s)

def audStopWork (r : Req) (s : State) : Verdict :=
  .ok ((bitList 8 (tlvD r 0x0A03 0)).foldl (fun s n => stopSap n s) s) [] false

def execAudStop (r : Req) (s : State) : Out := .next (serve sAudStop r audStopWork s)

/-- The start instant of a port: a master begins at the first frame whose grid or play instant is at or
after it; a slave counts its frames from its start. -/
def startSap (n : Nat) (s : State) : State :=
  let x := sapOf s n
  match x.startAt with
  | none => s
  | some t =>
    if t ≤ nowNs s then
      let f := frameAt t (rateHz x.rate)
      let first := if x.slave then 0 else if x.output then f - x.delta else f
      setLock n (if x.slave then 1 else 2)
        (setSap n { x with startAt := none, started := true, frame := first, inRange := 0, fill := 32,
                           steer := 0, ignoreMs := false, flagFrom := none, flagged := [],
                           mclk := if x.slave then none else some (mclkHz x.rate) } s)
    else s

def execAudStartInstant (n : Fin 8) (s : State) : Out := .next (startSap n.val s)

/-- A rising edge on a GPIO gives the start instant of the ports that wait for it: its stamp plus 100 us. -/
def gpioStarts (g stamp : Nat) (s : State) : State :=
  { s with aud := { s.aud with ports := s.aud.ports.map fun e =>
      (e.1, if e.2.startGpi = some g then { e.2 with startGpi := none, startAt := some (stamp + 100000) }
            else e.2) } }

/-! ### Endpoints and routes (R430 to R432, R437, R438) -/

def epKind (e : BitVec 32) : Nat := fieldAt e.toNat 0 1
def epUnit (e : BitVec 32) : Nat := fieldAt e.toNat 1 1
def epChan (e : BitVec 32) : Nat := fieldAt e.toNat 2 1
def epFlow (e : BitVec 32) : Nat := fieldAt e.toNat 3 1

/-- An endpoint from its bytes. -/
def endpoint (kind unit ch flow : Nat) : BitVec 32 :=
  BitVec.ofNat 32 (kind + 256 * unit + 65536 * ch + 16777216 * flow)

/-- AUDIO_FLOW of an input's flow (R443): flow, standard, channels, rate code, depth, packet time. -/
def audioFlow (i : Input) (j : Nat) : Option Nat := i.audioFlows.find? fun v => fieldAt v 0 1 = j

/-- The flow whose ring an audio flow shares: a flow of leg 1 is merged with the flow of leg 0 that has its place among
the input's audio flows of its leg (R192, R443; DEDUCED, assumption log 43). -/
def mergedFlow (i : Input) (j : Nat) : Nat :=
  let leg (l : Nat) : List Nat := (List.range i.flows.length).filter fun k =>
    match i.flows[k]? with
    | some f => decide (f.role = 2 ∧ f.leg = l)
    | none => false
  match (leg 1).findIdx? fun k => decide (k = j) with
  | some n => ((leg 0)[n]?).getD j
  | none => j

/-- The endpoint whose ring a source endpoint reads. -/
def ringOf (s : State) (e : BitVec 32) : BitVec 32 :=
  if epKind e = 3 then
    match tabGet? s.inputs (epUnit e) with
    | some i => endpoint 3 (epUnit e) (epChan e) (mergedFlow i (epFlow e))
    | none => e
  else e

/-- Whether a source endpoint names something that is configured. -/
def sourceOk (s : State) (e : BitVec 32) : Bool :=
  let u := epUnit e
  let ch := epChan e
  match epKind e with
  | 1 => decide (u < 8 ∧ epFlow e = 0) && (sapOf s u).configured && !(sapOf s u).output &&
      decide (ch < (sapOf s u).slots)
  | 2 => decide (ch < 16 ∧ epFlow e = 0) && match tabGet? s.inputs u with
      | some i => decide (i.kind ≤ 1)
      | none => false
  | 3 => match tabGet? s.inputs u with
      | some i => match i.flows[epFlow e]?, audioFlow i (epFlow e) with
        | some f, some v => decide (f.role = 2 ∧ ch < fieldAt v 2 1)
        | _, _ => false
      | none => false
  | _ => false

/-- Whether a sink endpoint names something that is configured. -/
def sinkOk (s : State) (e : BitVec 32) : Bool :=
  let u := epUnit e
  let ch := epChan e
  decide (epFlow e = 0) &&
    match epKind e with
    | 1 => decide (u < 8) && (sapOf s u).configured && (sapOf s u).output && decide (ch < (sapOf s u).slots)
    | 2 => decide (ch < 16) && match outputOf s u with
        | some o => decide (o.kind ≤ 1)
        | none => false
    | 3 => match outputOf s u with
        | some o => decide (o.kind = 8) && decide (ch < fieldAt (o.audioFmt.getD 0) 1 1)
        | none => false
    | 4 => decide (ch < 16) && match outputOf s u with
        | some o => decide (o.kind = 6)
        | none => false
    | _ => false

/-- Packet time in ns of a packet-time code. -/
def packetNs (code : Nat) : Nat := if code = 0 then 1000000 else 125000

/-- Frame or field period of a format in ns, rounded up. -/
def fmtPeriodNs (f : Format) : Nat :=
  ceilDiv (f.rateDen * 1000000000) (if f.scan = 1 then 2 * f.rateNum else f.rateNum)

/-- A source's latency in ns (R437). -/
def sourceLatency (s : State) (e : BitVec 32) : Nat :=
  match epKind e with
  | 1 => ceilDiv (8 * 1000000000) (rateHz (sapOf s (epUnit e)).rate)
  | 2 => match tabGet? s.inputs (epUnit e) with
      | some i => match i.format with
        | some f => fmtPeriodNs f + 200000
        | none => 200000
      | none => 200000
  | _ => match tabGet? s.inputs (epUnit e) with
      | some i => packetNs (fieldAt ((audioFlow i (epFlow e)).getD 0) 5 1) + windowNs (some i)
      | none => 0

/-- Whether the play delay of a sink covers its source's latency (R437). -/
def deltaOk (s : State) (src sink : BitVec 32) : Bool :=
  let lat := sourceLatency s src
  match epKind sink with
  | 1 =>
    let x := sapOf s (epUnit sink)
    decide (ceilDiv (lat * rateHz x.rate) 1000000000 ≤ x.delta)
  | 3 => match outputOf s (epUnit sink) with
      | some o =>
        let v := o.audioFmt.getD 0
        decide (ceilDiv ((lat + packetNs (fieldAt v 4 1)) * rateHz (fieldAt v 2 1)) 1000000000 ≤ fieldAt v 6 2)
      | none => false
  | 2 => match namer s (epUnit sink) with
      | some h => match (chan s h).cfg with
        | some c => decide (lat ≤ c.delayNs ∧ c.delayNs * 48000 < 65536 * 1000000000)
        | none => true
      | none => true
  | _ => true

/-- The domain of a sink: 0 is the device domain, a slave port has its own (R437, R438). -/
def sinkDomain (s : State) (e : BitVec 32) : Nat :=
  if epKind e = 1 ∧ (sapOf s (epUnit e)).slave then 1 + epUnit e else 0

/-- The domain of a source: 0 is the device domain (R437, R438). -/
def audDomain (s : State) (e : BitVec 32) : Nat :=
  match epKind e with
  | 1 => if (sapOf s (epUnit e)).slave then 1 + epUnit e else 0
  | 2 => match tabGet? s.inputs (epUnit e) with
      | some i => if i.kind ≤ 1 ∧ !i.locked then 16 + epUnit e else 0
      | none => 0
  | _ => 0

/-- Whether a source can reach a sink (R432, R438, R443; DEDUCED, assumption log 43). -/
def reaches (s : State) (src sink : BitVec 32) : Bool :=
  let std31 (v : Option Nat) (i : Nat) : Bool := match v with
    | some v => decide (fieldAt v i 1 = 1)
    | none => false
  let src31 := decide (epKind src = 3) && match tabGet? s.inputs (epUnit src) with
    | some i => std31 (audioFlow i (epFlow src)) 1
    | none => false
  let sink31 := decide (epKind sink = 3) && match outputOf s (epUnit sink) with
    | some o => std31 o.audioFmt 0
    | none => false
  let ts := decide (epKind sink ≠ 4) ||
    (decide (epKind src = 2 ∨ epKind src = 3) && decide (audDomain s src = 0) &&
      match namer s (epUnit sink) with
      | some h => match (chan s h).cfg with
        | some c => decide (c.input = epUnit src)
        | none => true
      | none => true)
  (!src31 || sink31) && ts && deltaOk s src sink

/-- The state that refuses a route as a channel setting (R432): the channel that names the output runs. -/
def sinkBusy (s : State) (sink : BitVec 32) : Option Nat :=
  if epKind sink = 2 ∨ epKind sink = 4 then
    match namer s (epUnit sink) with
    | some h => if active (chan s h).state then some h else none
    | none => none
  else none

/-- One MAP: source and sink. -/
def mapOf (v : Nat) : BitVec 32 × BitVec 32 := (BitVec.ofNat 32 (fieldAt v 0 4), BitVec.ofNat 32 (fieldAt v 4 4))

def mapBad (s : State) (m : BitVec 32 × BitVec 32) : Bool :=
  !sinkOk s m.2 || (decide (epKind m.1 ≠ 0) && (!sourceOk s m.1 || !reaches s m.1 m.2))

/-- A route in place of the sink's present one; sinks of kinds 1 and 3 change at the next whole ms. -/
def addRoute (at_ : Nat) (m : BitVec 32 × BitVec 32) (rs : List Route) : List Route :=
  let old := rs.find? fun r => r.sink = m.2
  let rest := rs.filter fun r => r.sink ≠ m.2
  let timed := epKind m.2 = 1 ∨ epKind m.2 = 3
  let gone := epKind m.1 = 0
  if gone ∧ (¬ timed ∨ old.isNone = true) then rest
  else rest ++ [{ src := m.1, sink := m.2, effectAt := if timed then some at_ else none,
                  old := if timed then old.map Route.src else none, slips := 0, secSlips := 0,
                  underruns := 0, secUnder := 0, lastPlayed := 0 }]

/-- Whether a source uses a port in port-off (R54). -/
def sourceOff (s : State) (e : BitVec 32) : Bool :=
  decide (epKind e = 2 ∨ epKind e = 3) && match tabGet? s.inputs (epUnit e) with
    | some x => anyOff s (inputPorts x)
    | none => false

/-- Whether a sink uses a port in port-off (R54). -/
def sinkOff (s : State) (e : BitVec 32) : Bool :=
  decide (epKind e = 2 ∨ epKind e = 3 ∨ epKind e = 4) && match outputOf s (epUnit e) with
    | some x => anyOff s (outputPorts x)
    | none => false

def audRouteWork (r : Req) (s : State) : Verdict :=
  let ms := (tlvAll r 0x0A06).map mapOf
  let at_ := (acceptedAt r s / 1000000 + 1) * 1000000
  match ms.findSome? fun m => sinkBusy s m.2 with
    | some h => badState s h
    | none =>
      if ms.any fun m => decide (epKind m.1 ≠ 0) && (sourceOff s m.1 || sinkOff s m.2) then badMode s
      else if ms.any (mapBad s) then .err stBadParam 0x0A06 []
      else
      let rs := ms.foldl (fun rs m => addRoute at_ m rs) s.aud.routes
      let live := rs.filter fun x => epKind x.src ≠ 0
      if 256 < (live.map Route.src).eraseDups.length ∨ 256 < live.length then noRoom 7
      else .ok { s with aud := { s.aud with routes := rs } } [] false

def execAudRoute (r : Req) (s : State) : Out := .next (serve sAudRoute r audRouteWork s)

/-- Routes whose effect instant has come are in force, and removals are gone. -/
def execAudRouteEffect (s : State) : Out :=
  let due (x : Route) : Bool := match x.effectAt with
    | some t => decide (t ≤ nowNs s)
    | none => false
  .next { s with aud := { s.aud with
    routes := (s.aud.routes.map fun x => if due x then { x with effectAt := none, old := none } else x).filter
      fun x => epKind x.src ≠ 0 ∨ x.effectAt.isSome } }

/-! ### Rings (R436) -/

/-- Frames that a ring holds. -/
def ringFrames : Nat := 131072

/-- A sample left-aligned to 24 bits, in the ring's packing: with packing 1 bits [31:24] copy bit 23. -/
def packSample (wordLen packing v : Nat) : Nat :=
  let x := v % 2 ^ wordLen * 2 ^ (24 - wordLen)
  if packing = 1 ∧ 8388608 ≤ x then x + 4278190080 else x

/-- Bytes that a sample of a source takes in its ring: three with packing 0 of a serial port, else four (R436; DESIGN
CHOICE, assumption log 77). -/
def sampleBytes (s : State) (e : BitVec 32) : Nat :=
  if epKind e = 1 ∧ (sapOf s (epUnit e)).packing = 0 then 3 else 4

/-- Ring traffic of an audio source or sink, charged to activity 258 (R433). -/
def chargeAudio (e : BitVec 32) (s : State) : State := traffic actFirmware (sampleBytes s e) s

/-- Writes one frame of a source endpoint, unless the ring holds it. -/
def writeFrame (e : BitVec 32) (frame v : Nat) (valid : Bool) (s : State) : State :=
  let ring := tabGet [] s.aud.rings e.toNat
  if ring.any fun x => x.1 = frame then s
  else
    let r1 := ring ++ [(frame, v, valid)]
    let s1 := chargeAudio e s
    { s1 with aud := { s1.aud with
        rings := tabSet s1.aud.rings e.toNat (r1.drop (r1.length - ringFrames)) } }

/-- A frame of a source: its sample, or a flagged zero; none when it was not written. An input port in
holdover writes flagged zeros from its first flagged frame on (R442). -/
def readFrame (s : State) (e : BitVec 32) (frame : Nat) : Option (Nat × Bool) :=
  match (tabGet [] s.aud.rings (ringOf s e).toNat).find? fun x => x.1 = frame with
  | some x => some x.2
  | none =>
    let x := sapOf s (epUnit e)
    let held : Bool := match x.flagFrom with
      | some f => decide (f ≤ frame)
      | none => false
    if epKind e = 1 ∧ (held ∨ x.flagged.any fun r => decide (r.1 ≤ frame ∧ frame < r.1 + r.2)) then
      some (0, false)
    else none

/-- Embedded audio of an SDI input: one sample frame of its channels. A locked input's frames carry the indices of their grid
instants, an unlocked one's are counted from its start (R437, R438, R444). -/
def embedAudio (i first : Nat) (samples : List Nat) (s : State) : State :=
  if samples = [] then s
  else
    let last := ((tabGet [] s.aud.rings (endpoint 2 i 0 0).toNat).map fun x => x.1 + 1).foldl max 0
    let locked : Bool := match tabGet? s.inputs i with
      | some x => x.locked
      | none => true
    let f := if locked then max first last else last
    ((List.range 16).zip samples).foldl (fun s e => writeFrame (endpoint 2 i e.1 0) f (packSample 24 1 e.2) true s) s

/-- A frame from a serial input port's converter, or dropped while the port does not write. -/
def execSapFrameRx (n : Fin 8) (samples : List Nat) (s : State) : Out :=
  let x := sapOf s n.val
  if x.started ∧ !x.output ∧ (x.lock = 1 ∨ x.lock = 2) then
    let s1 := ((List.range x.slots).zip samples).foldl (fun s e =>
      writeFrame (endpoint 1 n.val e.1 0) x.frame (packSample x.wordLen x.packing e.2) true s) s
    .next (setSap n.val { x with frame := x.frame + 1 } s1)
  else .next s

/-! ### Play (R437, R438, R440) -/

/-- The source in force for a route. -/
def routeSrc (now : Nat) (x : Route) : Option (BitVec 32) :=
  let before : Bool := match x.effectAt with
    | some t => decide (now < t)
    | none => false
  let e := if before then x.old else some x.src
  e.filter fun e => epKind e ≠ 0

/-- Counts an underrun of a sink: by port for kind 1, by sink for kind 3 (DEDUCED, assumption log 67). -/
def countUnder (sink : BitVec 32) (s : State) : State :=
  match epKind sink with
  | 1 =>
    let x := sapOf s (epUnit sink)
    setSap (epUnit sink) { x with underruns := x.underruns + 1, underRc := rcAdd 65535 1 x.underRc,
                                  secUnder := x.secUnder + 1 } s
  | 3 => { s with aud := { s.aud with routes := s.aud.routes.map fun x =>
      if x.sink = sink then { x with underruns := x.underruns + 1, secUnder := x.secUnder + 1 } else x } }
  | _ => s

/-- Puts out one sample of a sink. -/
def putSample (sink : BitVec 32) (frame v : Nat) (s : State) : State :=
  { s with aud := { s.aud with played := s.aud.played ++ [(sink, frame, v)] } }

/-- What a sink sends of a sample: the top of it in the port's slot, most significant bit first with 0 in the unused bits;
the depth of an ST 2110-30 output; an AES3 subframe unchanged (R434, R443; DEDUCED, assumption log 43). -/
def sinkWord (s : State) (sink : BitVec 32) (v : Nat) : Nat :=
  match epKind sink with
  | 1 =>
    let x := sapOf s (epUnit sink)
    v % 16777216 / 2 ^ (24 - x.wordLen) * 2 ^ (x.slotWidth - x.wordLen)
  | 3 => match outputOf s (epUnit sink) with
    | some o =>
      let f := o.audioFmt.getD 0
      if fieldAt f 0 1 = 1 then v else v % 16777216 / 2 ^ (24 - fieldAt f 3 1)
    | none => v
  | _ => v % 16777216

/-- Plays a frame of a source at a sink: a frame not written is an underrun and plays 0. The ring is read for it
(R433). -/
def playFrame (src sink : BitVec 32) (frame from_ : Nat) (s0 : State) : State :=
  let s := chargeAudio src s0
  match readFrame s src from_ with
  | some (v, valid) => putSample sink frame (if valid then sinkWord s sink v else 0) s
  | none => putSample sink frame 0 (countUnder sink s)

/-- The slip buffer of a route between two domains (R438): the source frame to play, whether it slips. -/
def slipPick (lead last : Nat) : Nat × Bool :=
  if lead < 16 then (last, true) else if 80 < lead then (last + 2, true) else (last + 1, false)

/-- One more frame at a sink. -/
def playAt (sink : BitVec 32) (frame : Nat) (x : Route) (src : BitVec 32) (s : State) : State :=
  if audDomain s src = sinkDomain s sink then playFrame src sink frame frame s
  else
    let newest := ((tabGet [] s.aud.rings (ringOf s src).toNat).map Prod.fst).foldl max 0
    let last := if x.lastPlayed = 0 then newest - 48 else x.lastPlayed
    let (f, slip) := slipPick (newest - last) last
    let upd (y : Route) : Route := if y.sink = sink then
      { y with lastPlayed := f, slips := y.slips + slip.toNat,
               secSlips := y.secSlips + slip.toNat } else y
    playFrame src sink frame f { s with aud := { s.aud with routes := s.aud.routes.map upd } }

/-- Whether a sink plays: a port that has started and is not faulted; an output. -/
def sinkPlays (s : State) (sink : BitVec 32) : Bool :=
  if epKind sink = 1 then
    let x := sapOf s (epUnit sink)
    x.started && decide (x.lock = 1 ∨ x.lock = 2)
  else (outputOf s (epUnit sink)).isSome

/-- The play instant in ns, rounded down, of a source frame at a sink of the device domain: its grid instant plus the play
delay, which for an SDI output is its channel's D (R437). -/
def playNs (s : State) (sink : BitVec 32) (frame : Nat) : Option Nat :=
  if sinkDomain s sink ≠ 0 then none
  else match epKind sink with
    | 1 =>
      let x := sapOf s (epUnit sink)
      some ((frame + x.delta) * 1000000000 / rateHz x.rate)
    | 2 => match namer s (epUnit sink) with
      | some h => (chan s h).cfg.map fun c => frame * 1000000000 / 48000 + c.delayNs
      | none => none
    | 3 => match outputOf s (epUnit sink) with
      | some o =>
        let v := o.audioFmt.getD 0
        some ((frame + fieldAt v 6 2) * 1000000000 / rateHz (fieldAt v 2 1))
      | none => none
    | _ => none

/-- Whether a frame's play instant has come, and a port has not begun after it (R437, R439). -/
def playDue (s : State) (sink : BitVec 32) (frame : Nat) : Bool :=
  decide ((playNs s sink frame).getD 0 ≤ nowNs s) &&
    (decide (epKind sink ≠ 1) || decide ((sapOf s (epUnit sink)).frame ≤ frame))

/-- A sink's sample of a frame, from the source that the route has at its play instant (R432). -/
def playSink (sink : BitVec 32) (frame : Nat) (s : State) : State :=
  match s.aud.routes.find? fun x => x.sink = sink with
  | none => putSample sink frame 0 s
  | some x => match routeSrc ((playNs s sink frame).getD (nowNs s)) x with
    | none => putSample sink frame 0 s
    | some src => playAt sink frame x src s

/-- Frames of a packet of an audio output. -/
def packetFrames (v : Nat) : Nat := packetNs (fieldAt v 4 1) * rateHz (fieldAt v 2 1) / 1000000000

/-- One packet of an audio output on one leg: frames `first` up, launched at the grid instant of `first` plus the
play delay (R443). -/
def audioPkt (s : State) (o : Nat) (x : Output) (l : Leg) (first : Nat) : Pkt :=
  let v := x.audioFmt.getD 0
  let bytes := fieldAt v 1 1 * (if fieldAt v 0 1 = 1 then 4 else fieldAt v 3 1 / 8) * packetFrames v
  { chan := 257, output := o, leg := l.leg, capture := first, unit := 0, k := 0, n := 1, lastUnit := true,
    launch := some (ns ((first + fieldAt v 6 2) * 1000000000) / rateHz (fieldAt v 2 1)), enqueued := s.tim.now,
    lineBytes := bytes + 78 + vlanExtra s l.iface, rtpSeq := x.rtpSeq % 65536, rtpTs := first % 4294967296,
    marker := false, dstIp := l.dstIp, dstPort := l.dstPort, held := false, mirrored := false, bypass := false,
    ccAfter := x.cc, ts := [] }

/-- Enters the packet of an audio output in the queue of each leg (DESIGN CHOICE, assumption log 46). -/
def sendAudio (o first : Nat) (s : State) : State :=
  match outputOf s o with
  | none => s
  | some x =>
    let s1 := x.legs.foldl (fun s l => pushPkt l.queue (audioPkt s o x l first) s) s
    { s1 with outputs := tabSet s1.outputs o { x with rtpSeq := x.rtpSeq + 1 } }

/-- The lowest channel of an output that a route names: it stands for the output's frame instant. -/
def leadChannel (s : State) (o : Nat) : Option Nat :=
  (List.range 64).find? fun ch => s.aud.routes.any fun x => decide (x.sink = endpoint 3 o ch 0)

/-- Whether a frame of a sink completes a packet of its output (DESIGN CHOICE, assumption log 46). -/
def packetDue (s : State) (sink : BitVec 32) (frame : Nat) : Bool :=
  match outputOf s (epUnit sink) with
  | some x =>
    let n := packetFrames (x.audioFmt.getD 0)
    decide (epKind sink = 3 ∧ x.kind = 8 ∧ 0 < n ∧ (frame + 1) % n = 0) &&
      decide (leadChannel s (epUnit sink) = some (epChan sink))
  | none => false

/-- The play instant of a sink's frame. -/
def execAudPlayInstant (sink : BitVec 32) (frame : Nat) (s : State) : Out :=
  if sinkPlays s sink && playDue s sink frame then
    let s1 := playSink sink frame s
    if packetDue s sink frame then
      let v := match outputOf s (epUnit sink) with
        | some x => x.audioFmt.getD 0
        | none => 0
      .next (sendAudio (epUnit sink) (frame + 1 - packetFrames v) s1)
    else .next s1
  else .next s

/-! ### The clock loop (R441, R442) -/

/-- Whether a port's clock loop runs. -/
def loopRuns (x : Sap) : Bool := x.slave && x.started && decide (x.lock = 1 ∨ x.lock = 2)

/-- 500 ppm in 0.0001 ppm. -/
def steerMax : Int := 5000000

/-- The 1 ms update of a clock loop. -/
def loopUpdate (n fill : Nat) (s : State) : State :=
  let x := sapOf s n
  let slip := if fill ≤ 4 ∨ 60 ≤ fill then 1 else 0
  let near := 30 ≤ fill ∧ fill ≤ 34
  let x1 := { x with fill := fill, slips := x.slips + slip, secSlips := x.secSlips + slip,
                     inRange := if near then x.inRange + 1 else 0, ignoreMs := false }
  let st := max (-steerMax) (min steerMax (Config.loopSteer x.bandwidth fill x.steer))
  let x2 := if x.ignoreMs then x1 else { x1 with steer := st }
  let s1 := setSap n x2 s
  if x.lock = 1 ∧ 100 ≤ x2.inRange then setLock n 2 s1 else s1

def execClockLoopUpdate (n : Fin 8) (fill : Nat) (s : State) : Out :=
  .next (if loopRuns (sapOf s n.val) then loopUpdate n.val fill s else s)

/-- A rate beyond 1,000 ppm: EV_AUD_RATE and LOCK 4; the port stops writing and playing. -/
def rateFault (n : Nat) (ppb : Int) (s : State) : State :=
  let x := sapOf s n
  raise evAudRate noChan (u8 n ++ [0, 0, 0] ++ u32 (twos 4 ppb))
    (setLock n 4 (setSap n { x with ppb := ppb, started := false, mclk := none } s))

/-- 1,000 ppm in 0.001 ppm. -/
def rateMax : Nat := 1000000

/-- The 10 ms measurement of a slave port's external rate. -/
def execAudRateMeasure (n : Fin 8) (ppb : Int) (s : State) : Out :=
  let x := sapOf s n.val
  if loopRuns x then
    if rateMax < ppb.natAbs then .next (rateFault n.val ppb s)
    else .next (setSap n.val { x with ppb := ppb } s)
  else .next s

/-- No word-clock edge for four nominal periods: holdover. `frame` is the frame after the last complete one. -/
def execAudClockLoss (n : Fin 8) (frame : Nat) (s : State) : Out :=
  let x := sapOf s n.val
  if loopRuns x then
    .next (raise evAudClockLost noChan (u8 n.val ++ List.replicate 7 0 ++ u64 frame)
      (setLock n.val 3 (setSap n.val { x with flagFrom := if x.output then none else some frame,
                                              lossAt := nowNs s, frame := frame } s)))
  else .next s

/-- Frames at a port's held rate over a time in ns. -/
def heldFrames (x : Sap) (t : Nat) : Nat :=
  t * rateHz x.rate * ((1000000000 : Int) + x.ppb).toNat / 1000000000000000000

/-- The clock has returned for 16 periods: the FIFO is re-centred, what that adds or removes are slips, and
the frames flagged meanwhile stay flagged. -/
def execAudClockReturn (n : Fin 8) (ppb : Int) (fill : Nat) (s : State) : Out :=
  let x := sapOf s n.val
  if x.slave ∧ x.started ∧ x.lock = 3 then
    if rateMax < ppb.natAbs then .next (rateFault n.val ppb s)
    else
      let add := if fill ≤ 32 then 32 - fill else fill - 32
      let k := heldFrames x (nowNs s - x.lossAt)
      let runs := match x.flagFrom with
        | some f => x.flagged ++ [(f, k)]
        | none => x.flagged
      .next (setLock n.val 1 (setSap n.val { x with
        ppb := ppb, fill := 32, slips := x.slips + add, secSlips := x.secSlips + add, inRange := 0,
        frame := x.frame + k, flagFrom := none, flagged := runs } s))
  else .next s

/-- A period far too short loses its frame; one too long, without loss, leaves flagged zeros. The loop ignores
this 1 ms (DEDUCED, assumption log 43). -/
def execAudClockGlitch (n : Fin 8) (short : Bool) (missing : Nat) (s : State) : Out :=
  let x := sapOf s n.val
  if loopRuns x then
    let k := if short then 1 else missing
    let y := { x with glitches := x.glitches + k, secGlitch := x.secGlitch + k, ignoreMs := true }
    .next (setSap n.val (if short ∨ x.output then y
      else { y with frame := x.frame + missing, flagged := x.flagged ++ [(x.frame, missing)] }) s)
  else .next s

/-! ### AUD.STATUS (R446) -/

def audStatusWork (r : Req) (s : State) : Verdict :=
  let n := tlvD r 0x0A01 0
  let x := sapOf s n
  let loud : Nat := if x.loudness = 0 then 0x80008000 + 0x80008000 * 4294967296
    else (Config.loudness n x.frame s.aud.played.length).toNat
  if 7 < n then .err stBadParam 0x0A01 []
  else .ok s [tlv 0x0A10 1 x.lock, tlv 0x0A11 4 (twos 4 x.ppb), tlv 0x0A12 8 x.underruns,
              tlv 0x0A13 16 loud, tlv 0x0A14 8 x.slips, tlv 0x0A15 8 x.glitches] false

def execAudStatus (r : Req) (s : State) : Out := .next (serve sAudStatus r audStatusWork s)

end Sys2Proof.Machine
end

