-- ==== Sys2Proof/Machine/Ingest.lean ====
section
/-! DEFINITION. Machine/Ingest.lean: inputs, their rings, lock classification and frame synchroniser, the media
interfaces, policers and SDI receive side, and the IN opcodes (R173 to R204, R421, R426 to R428). -/

namespace Sys2Proof.Machine

/-! ### Inputs -/

def inputOf (s : State) (i : Nat) : Option Input := tabGet? s.inputs i

def setInput (i : Nat) (x : Input) (s : State) : State := { s with inputs := tabSet s.inputs i x }

def modInput (i : Nat) (f : Input → Input) (s : State) : State :=
  match inputOf s i with
  | some x => setInput i (f x) s
  | none => s

/-- LOCKED (R196): 0 absent, 1 present and unlocked, 2 locked. -/
def lockedCode (x : Input) : Nat := if !x.present then 0 else if x.locked then 2 else 1

/-- Puts an input in place, with EV_INPUT_LOCK where its LOCKED changes (R201). -/
def putInput (i : Nat) (x : Input) (s : State) : State :=
  let old := match inputOf s i with | some o => lockedCode o | none => lockedCode x
  raiseIf (decide (old ≠ lockedCode x)) evInputLock noChan (u16 i ++ u8 (lockedCode x)) (setInput i x s)

/-- The frame rate of an input and whether its pictures are fields: from its format, which for coded kinds comes from
the stream (R175), or until then from the lowest channel that names it. -/
def frameRate (s : State) (i : Nat) (x : Input) : Option (Nat × Nat × Bool) :=
  match x.format <|> x.coded with
  | some f => some (f.rateNum, f.rateDen, decide (f.scan = 1))
  | none => handles.findSome? fun h => match (chan s h).cfg with
    | some c => if c.input = i then some (c.rateNum, c.rateDen, c.interlaced) else none
    | none => none

/-- The picture rate of an input, the field rate for an interlaced one (R166). -/
def inputRate (s : State) (i : Nat) (x : Input) : Option (Nat × Nat) :=
  (frameRate s i x).map fun q => (if q.2.2 then 2 * q.1 else q.1, q.2.1)

/-- The number of the grid instant nearest a time, an exact midpoint going to the earlier (R166). -/
def gridIndex (q : Nat × Nat) (t : Nat) : Nat := ceilDiv (2 * t * q.1 - gridUnit q) (2 * gridUnit q)

/-- The distance of two times. -/
def dist (a b : Nat) : Nat := a - b + (b - a)

/-! ### Capture times (R165, R166) -/

/-- A picture's RTP timestamp as capture time: extended to the count nearest the arrival stamp (quarter ns) and
converted, truncated to the 16-bit fraction. -/
def rtpCapture (ts stamp : Nat) : Nat :=
  let a := stamp * 90000 / 4000000000
  let lo := a - 2147483648
  let k := lo + (ts + 4294967296 - lo % 4294967296) % 4294967296
  k * 100000 * 65536 / 9

/-! ### Releases and completion (R190, R191, R193, R194) -/

/-- Lines of a ring picture: a coded picture counts as one. -/
def lineCount (x : Input) : Nat :=
  match x.format with
  | some f => if f.scan = 1 then f.height / 2 else f.height
  | none => 1

/-- Mid-grey for a depth (R191). -/
def midGrey (depth : Nat) : Nat := if depth = 12 then 2048 else 512

/-- What a line's missing samples are taken from: the same line of the previous picture, or mid-grey. -/
def fillLine (x : Input) (cap line : Nat) : Nat :=
  let prev := (x.ring.filter fun p => decide (p.capture < cap)).getLast?
  let grey := midGrey (match x.format with | some f => f.depth | none => 10)
  match prev with
  | some p => match p.lines.find? fun l => l.1 = line with
    | some l => l.2
    | none => grey
  | none => grey

/-- Whether an input's video flows carry a leg. -/
def hasLeg (x : Input) (l : Nat) : Bool := x.flows.any fun f => decide (f.role = 0 ∧ f.leg = l)

/-- The packets of a line that no leg brought (DESIGN CHOICE, assumption log 45). -/
def lackedOf (a : LineAsm) : List Nat :=
  (List.range a.parts).filter fun k => !(a.got0.contains k) && !(a.got1.contains k)

/-- How many of some missing places of a line count as packets: a packet that began in the line before counts there
(R186, R193; DEDUCED, assumption log 45). -/
def lackCount (a : LineAsm) (ks : List Nat) : Nat := (ks.filter fun k => !(a.carried && k = 0)).length

/-- Missing packets of a leg at a line's release. -/
def legLack (x : Input) (l : Nat) (a : LineAsm) : Nat :=
  if hasLeg x l then
    lackCount a ((List.range a.parts).filter fun k => !((if l = 0 then a.got0 else a.got1).contains k))
  else 0

/-- A picture is completed when all its lines are released; one that the synchroniser is to pass, and that has not been
passed as it began, waits for a slot. -/
def completePic (now cap : Nat) (x : Input) : Input :=
  match x.ring.find? fun p => p.capture = cap with
  | none => x
  | some p =>
    if p.completedAt.isSome ∨ p.lines.length < lineCount x then x
    else
      { x with
        ring := x.ring.map fun q => if q.capture = cap then { q with completedAt := some now } else q
        since := if x.syncing && !p.direct then x.since ++ [cap] else x.since }

/-- Releases one line to its readers. -/
def releaseLine (now : Nat) (a : LineAsm) (x : Input) : Input :=
  let lack := lackedOf a
  let content := Config.lineContent a.data (if lack = [] then 0 else fillLine x a.picture a.line)
  let upd (p : RingPic) : RingPic :=
    if p.capture = a.picture then
      { p with lines := p.lines ++ [(a.line, content)], lacked := p.lacked ++ lack.map fun k => (a.line, k) }
    else p
  let m0 := legLack x 0 a
  let m1 := legLack x 1 a
  let mm := lackCount a lack
  completePic now a.picture
    { x with ring := x.ring.map upd
             asm := x.asm.filter fun b => ¬(b.picture = a.picture ∧ b.line = a.line)
             missing0 := x.missing0 + m0, missing1 := x.missing1 + m1, missingM := x.missingM + mm
             sec0 := x.sec0 + m0, sec1 := x.sec1 + m1, secM := x.secM + mm }

/-! ### Pictures and lock (R195, R197, R199) -/

/-- A picture that is passed to the readers with a capture time. -/
def passPic (cap n : Nat) (x : Input) : Input :=
  { x with lastCapture := cap, lastSlot := some n,
           passed := (x.passed ++ [cap]).drop (x.passed.length + 1 - x.ringFrames) }

/-- A picture that is passed as it begins (R197). -/
def passDirect (cap n : Nat) (x : Input) : Input :=
  let y := passPic cap n x
  { y with syncing := false, slotPic := some cap, since := []
           ring := y.ring.map fun p => if p.capture = cap then { p with direct := true } else p }

/-- Pictures before a capture time that neither a slot nor a direct pass has taken: they are dropped as the synchroniser
leaves off (R197, R199). -/
def leftOver (cap : Nat) (x : Input) : Nat :=
  (x.ring.filter fun p => decide (p.capture < cap) && !p.direct &&
    (p.completedAt.isNone || x.since.contains p.capture)).length

/-- Drops counted at a slot's capture time. -/
def dropEvent (i n cap : Nat) (s : State) : State :=
  raise evInputDrop noChan (u16 i ++ [0, 0] ++ u32 n ++ u64 (capNs cap)) s

/-- Whether an input is held unlocked (R168, R196). -/
def heldUnlocked (s : State) (x : Input) : Bool := decide (s.tim.state = 0) || bitAt x.sync 0

/-- The classification after a picture of grid number `n` that lies `off` from its grid instant (2^-16 ns),
and whether it conforms. -/
def classify (s : State) (x : Input) (n off : Nat) : Input × Bool :=
  let next := match x.prevGrid with
    | some p => decide (n = p + 1)
    | none => false
  let lim := if 2 ≤ x.kind then ns 11200 else if x.locked then ns 100000 else ns 50000
  let conf := next && decide (off ≤ lim)
  let run := if conf then min 8 (x.conform + 1) else 0
  let lock := !heldUnlocked s x && (if x.locked then conf else decide (8 ≤ run))
  ({ x with conform := run, prevGrid := some n, locked := lock }, conf)

/-- A picture begins: it is classified, takes its place in the ring, and is passed at once when the input is
locked and the synchroniser does not hold it. -/
def pictureBegins (i cap n off group : Nat) (s : State) : State :=
  match inputOf s i with
  | none => s
  | some x0 =>
    let (x1, _) := classify s x0 n off
    let pic : RingPic := { capture := cap, lines := [], lacked := [], completedAt := none, anc := [], ancSeqs := [],
                           group := group, direct := false }
    let x2 : Input := { x1 with
      newest := some cap
      ring := if x1.writing then (x1.ring ++ [pic]).drop (x1.ring.length + 1 - x1.ringFrames) else x1.ring
      syncing := x1.syncing || !x1.locked }
    if !x2.writing then putInput i { x2 with syncing := !x2.locked } s
    else if !x2.locked then putInput i x2 s
    else match x2.lastSlot with
      | none => putInput i (passDirect cap n x2) s
      | some m =>
        if n = m + 1 ∨ (x2.syncing = false ∧ m < n) then
          let k := if x2.syncing then leftOver cap x2 else 0
          let s1 := putInput i { passDirect cap n x2 with drops := x2.drops + k } s
          if 0 < k then dropEvent i k x2.lastCapture s1 else s1
        else if n ≤ m then dropEvent i 1 cap (putInput i { x2 with drops := x2.drops + 1 } s)
        else putInput i x2 s

/-! ### The frame synchroniser (R167, R198, R199, R200) -/

/-- The grid number of the synchroniser's next slot: the one after the last capture passed, or, with none
passed, the first whose fill instant is at or after the first picture's completion. -/
def nextSlot (q : Nat × Nat) (x : Input) : Option Nat :=
  match x.lastSlot with
  | some n => some (n + 1)
  | none =>
    match x.ring.find? fun p => p.completedAt.isSome with
    | some p => some (ceilDiv (p.completedAt.getD 0 * q.1) (gridUnit q) - 1)
    | none => none

/-- Fills a slot, at its fill instant, with the newest picture completed by then. -/
def fillSlot (i : Nat) (s : State) : State :=
  match inputOf s i with
  | none => s
  | some x =>
    match inputRate s i x with
    | none => s
    | some q =>
      match nextSlot q x with
      | none => s
      | some n =>
        let f := gridTime q (n + 1)
        let g := gridTime q n
        if !x.writing ∨ !x.syncing ∨ s.tim.now < f then s
        else
          let done := x.since.filter fun c => (x.ring.any fun p =>
            p.capture = c && match p.completedAt with | some t => decide (t ≤ f) | none => false)
          let rest := x.since.filter fun c => !done.contains c
          let y := passPic g n { x with since := rest }
          match done.getLast? with
          | none =>
            if x.present then
              raise evInputRepeat noChan (u16 i ++ [0, 0, 0, 0, 0, 0] ++ u64 (capNs g))
                (setInput i { y with repeats := x.repeats + 1 } s)
            else setInput i y s
          | some c =>
            let k := done.length - 1
            let s1 := setInput i { y with slotPic := some c, drops := x.drops + k } s
            if 0 < k then dropEvent i k g s1 else s1

def execSyncSlotFill (input : Fin 128) (s : State) : Out := .next (fillSlot input.val s)

/-- No picture has begun by its grid instant plus one period: the input unlocks (R195). -/
def execInputUnlockTimeout (input : Fin 128) (s : State) : Out :=
  match inputOf s input.val with
  | none => .next s
  | some x =>
    match x.prevGrid, inputRate s input.val x with
    | some n, some q =>
      if x.locked ∧ gridTime q (n + 2) ≤ s.tim.now then
        .next (putInput input.val { x with locked := false, conform := 0, syncing := true } s)
      else .next s
    | _, _ => .next s

/-! ### Absence (R181, R196, R200) -/

/-- An input becomes absent. -/
def goAbsent (i : Nat) (s : State) : State :=
  match inputOf s i with
  | some x =>
    if x.present then
      putInput i { x with present := false, locked := false, conform := 0, prevGrid := none,
                          syncing := true, absentAt := nowNs s, black := false } s
    else s
  | none => s

/-- An input becomes present. -/
def goPresent (i : Nat) (s : State) : State :=
  match inputOf s i with
  | some x => if x.present then s else putInput i { x with present := true, black := false } s
  | none => s

/-- The longer of 100 ms and four frame periods, in ns. -/
def absenceLimit (s : State) (i : Nat) (x : Input) : Nat :=
  match frameRate s i x with
  | some q => max 100000000 (4 * q.2.1 * 1000000000 / q.1)
  | none => 100000000

def execInputAbsenceTimeout (input : Fin 128) (s : State) : Out :=
  match inputOf s input.val with
  | some x =>
    if 2 ≤ x.kind ∧ x.lastPacket + absenceLimit s input.val x ≤ nowNs s then .next (goAbsent input.val s)
    else .next s
  | none => .next s

/-- After 1 s of absence SYNC bit 1 fills black in place of the last picture. -/
def execAbsentFreezeExpiry (input : Fin 128) (s : State) : Out :=
  match inputOf s input.val with
  | some x =>
    if !x.present ∧ bitAt x.sync 1 = true ∧ x.absentAt + 1000000000 ≤ nowNs s then
      .next (setInput input.val { x with black := true } s)
    else .next s
  | none => .next s

/-! ### Network video (R186 to R193) -/

/-- Whether line `b` is earlier than line `l` of the picture `cap`. -/
def earlier (b : LineAsm) (cap l : Nat) : Bool :=
  decide (b.picture < cap ∨ (b.picture = cap ∧ b.line < l))

/-- Lines with no packet yet that lie before a line on which one arrived: their window starts with it. -/
def openEarlier (cap l parts stamp : Nat) (x : Input) : Input :=
  let held (p : RingPic) (k : Nat) : Bool :=
    (p.lines.any fun e => e.1 = k) || x.asm.any fun b => b.picture = p.capture && b.line = k
  let new := (x.ring.map fun p =>
    let top := if p.capture = cap then l else if p.capture < cap then lineCount x else 0
    ((List.range top).filter fun k => !held p k).map fun k =>
      ({ picture := p.capture, line := k, parts := parts, got0 := [], got1 := [], later := some stamp,
         data := [], carried := false } : LineAsm)).flatten
  { x with asm := (x.asm.map fun b => if earlier b cap l && b.later.isNone then
      { b with later := some stamp } else b) ++ new }

/-- A packet's place in a line: the first copy on either leg is used. -/
def addPart (leg : Nat) (g : PktSeg) (a : LineAsm) : LineAsm :=
  let seen := a.got0.contains g.part || a.got1.contains g.part
  let put (ks : List Nat) : List Nat := if ks.contains g.part then ks else ks ++ [g.part]
  { a with got0 := if leg = 0 then put a.got0 else a.got0
           got1 := if leg = 0 then a.got1 else put a.got1
           data := if seen then a.data else a.data ++ [(g.part, g.digest)] }

/-- Whether a line of a picture has been released. -/
def released (q : RingPic) (line : Nat) : Bool := q.lines.any fun l => l.1 = line

/-- A packet late for a released line: only when the line was released without it (R190; DESIGN CHOICE,
assumption log 45). -/
def lateFor (cap : Nat) (gs : List PktSeg) (x : Input) : Input :=
  let lacks := x.ring.any fun q => q.capture = cap && gs.any fun g => q.lacked.contains (g.line, g.part)
  if lacks then
    { x with late := x.late + 1
             ring := x.ring.map fun q => if q.capture = cap then
               { q with lacked := q.lacked.filter fun l => !(gs.any fun g => decide ((g.line, g.part) = l)) } else q }
  else x

/-- One part of a line into the ring (DESIGN CHOICE, assumption log 45). -/
def assembleSeg (now leg cap stamp : Nat) (g : PktSeg) (x : Input) : Input :=
  match x.ring.find? fun q => q.capture = cap with
  | none => x
  | some q =>
    if released q g.line then x
    else
      let x1 := openEarlier cap g.line g.parts stamp x
      let old := x1.asm.find? fun b => b.picture = cap && b.line = g.line
      let later := (x1.asm.any fun b => !earlier b cap g.line && (b.picture ≠ cap || b.line ≠ g.line)) ||
        x1.ring.any fun r => decide (cap < r.capture)
      let fresh : LineAsm :=
        { picture := cap, line := g.line, parts := g.parts, got0 := [], got1 := [],
          later := (if later then some stamp else none), data := [], carried := g.carried }
      let a := addPart leg g { old.getD fresh with parts := g.parts, carried := g.carried }
      let rest := x1.asm.filter fun b => ¬(b.picture = cap ∧ b.line = g.line)
      let x2 := { x1 with asm := rest ++ [a] }
      if lackedOf a = [] then releaseLine now a x2 else x2

/-- A video packet into the ring's lines: what it carries of each (R186, R190). -/
def assemble (now leg cap : Nat) (p : MediaPkt) (x : Input) : Input :=
  match x.ring.find? fun q => q.capture = cap with
  | none => x
  | some q =>
    let gone := p.segs.filter fun g => released q g.line
    p.segs.foldl (fun x g => assembleSeg now leg cap (stampTime p.stamp) g x) (lateFor cap gone x)

/-- A line released to a relay's shadow: shadow node, capture time, line and content (R457). -/
def newLines (old : Option Input) (x : Input) : List (Nat × Nat × Nat) :=
  (x.ring.map fun p =>
    let had := match old with
      | some y => (match y.ring.find? fun q => decide (q.capture = p.capture) with
        | some q => q.lines.length
        | none => 0)
      | none => 0
    (p.lines.drop had).map fun l => (capNs p.capture, l.1, l.2)).flatten

/-- Bytes of a released line in the packed form of R194 (0 for a coded stream, whose bytes count packet by packet). -/
def ringLineBytes (x : Input) : Nat :=
  match x.format with
  | some f => lineBytes f.width (if f.sampling = 2 then 2 else 3) f.depth
  | none => 0

/-- Sends a line to a shadow in source-relay packets on VC2; for each picture the first packet carries the capture time and
the ancillary packets besides (R457; DEDUCED, assumption log 20). -/
def relayLine (h dest : Nat) (x : Input) (l : Nat × Nat × Nat) (s : State) : State :=
  let anc := match x.ring.find? fun p => decide (capNs p.capture = l.1) with
    | some p => p.anc.map AncPkt.payload
    | none => []
  let head := if l.2.1 = 0 then 8 + Config.ancBytes anc else 0
  sendRun { blankPkt with type := 0x10, vc := 2, dest := dest, activity := actMirror h } (head + ringLineBytes x)
    { s with prt := { s.prt with sentRelay := s.prt.sentRelay ++ [(dest, l)] } }

/-- An active that relays its source sends the lines of its input as they are released. -/
def relayed (i : Nat) (before after : State) : State :=
  match tabGet? after.inputs i with
  | none => after
  | some x =>
    let new := newLines (tabGet? before.inputs i) x
    let dests := after.prt.groups.filterMap fun e =>
      match (chan after e.1).cfg with
      | some f => if e.2.role = 0 ∧ e.2.source = 1 ∧ e.2.joined ∧ f.input = i then some (e.1, e.2.shadow) else none
      | none => none
    dests.foldl (fun s d => new.foldl (fun s l => relayLine d.1 d.2 x l s) s) after

/-- Ring writes of an input, charged to the ingest activity of the channel that carries the charge (R9, R177). -/
def chargeRing (i bytes : Nat) (s : State) : State :=
  match inputOf s i with
  | some x => match x.charged with
    | some h => traffic (actIngest h) bytes s
    | none => s
  | none => s

/-- What follows from the lines that an input has released: they are relayed (R457) and charged (R177). -/
def landed (i : Nat) (before after : State) : State :=
  match inputOf after i with
  | none => after
  | some x =>
    let n := (newLines (inputOf before i) x).length
    chargeRing i (n * ringLineBytes x) (relayed i before after)

/-- Whether a kind of input takes a form of payload (R186). -/
def takesForm (kind : Nat) : PktForm → Bool
  | .lines _ => decide (kind = 2)
  | .codestream => decide (kind = 3)
  | .slices => decide (kind = 3)
  | .nal donl => decide (kind = 5 ∨ (kind = 4 ∧ donl = false))
  | .aggregate donl => decide (kind = 5 ∨ (kind = 4 ∧ donl = false))
  | .fragment donl => decide (kind = 5 ∨ (kind = 4 ∧ donl = false))
  | .ts n _ => decide (kind = 6 ∧ 1 ≤ n ∧ n ≤ 7)
  | .fec => false
  | .data => false

/-- The capture time of a video packet and whether it can begin a picture: a TS datagram begins one with the first byte
of its PES packet, and belongs to the picture in progress else (R174). -/
def pktCapture (x : Input) (p : MediaPkt) : Option (Nat × Bool) :=
  match p.form with
  | .ts _ false => x.newest.map fun c => (c, false)
  | _ => some (rtpCapture p.rtpTs p.stamp, true)

/-- A packet of a video flow has come: the input is present (R181). -/
def heardPacket (i : Nat) (s : State) : State :=
  goPresent i (modInput i (fun x => { x with lastPacket := nowNs s }) s)

/-- Whether a packet brings a part of a coded picture that no leg has brought. -/
def newPart (x : Input) (cap : Nat) (p : MediaPkt) : Bool :=
  p.segs.any fun g => !(x.asm.any fun a => a.picture = cap && a.line = g.line &&
    (a.got0.contains g.part || a.got1.contains g.part)) &&
    x.ring.any fun q => q.capture = cap && !released q g.line

/-- A packet of a video flow in a form that its input takes. -/
def videoPacket (i leg : Nat) (p : MediaPkt) (s : State) : State :=
  let learn (x : Input) : Input :=
    match p.coded with
    | some v => if 3 ≤ x.kind then { x with coded := some (formatOf v) } else x
    | none => x
  let s1 := modInput i learn s
  match inputOf s1 i with
  | none => s1
  | some x =>
    match pktCapture x p with
    | none => s1
    | some (cap, starts) =>
      let fresh := starts && match x.newest with
        | some c => decide (c < cap)
        | none => true
      let s2 := if fresh then
          match inputRate s1 i x with
          | some q =>
            let n := gridIndex q cap
            pictureBegins i cap n (dist cap (gridTime q n)) 0 s1
          | none => pictureBegins i cap 0 (ns 1000000) 0 s1
        else s1
      let coded := match inputOf s2 i with
        | some y => if 3 ≤ y.kind ∧ y.writing ∧ newPart y cap p then p.frameBytes else 0
        | none => 0
      landed i s (modInput i (fun x => if x.writing then assemble s.tim.now leg cap p x else x)
        (chargeRing i coded s2))

/-- The ANC bit of an ancillary packet (R202). -/
def ancBit (a : AncPkt) : Option Nat :=
  if a.did = 0x61 ∧ a.sdid = 0x01 then some 0
  else if a.did = 0x60 ∧ a.sdid = 0x60 then some 1
  else if a.did = 0x41 ∧ a.sdid = 0x0C then some 2
  else if a.did = 0x41 ∧ a.sdid = 0x05 then some 3
  else none

/-- Whether the device captures an ancillary packet for an input. -/
def wantsAnc (x : Input) (a : AncPkt) : Bool :=
  match ancBit a with
  | some b => bitAt x.anc b
  | none => false

/-- Ancillary packets of the picture with a capture time, captured or discarded and counted (R203). -/
def captureAnc (cap : Nat) (as : List AncPkt) (x : Input) : Input :=
  if !x.writing then x
  else
    let open_ := x.ring.any fun p => p.capture = cap && p.completedAt.isNone
    let good := as.filter fun a => a.checksumOk && open_
    { x with ancDiscards := x.ancDiscards + (as.length - good.length)
             ring := x.ring.map fun p => if p.capture = cap then
               { p with anc := p.anc ++ good.filter (wantsAnc x) } else p }

/-- An ancillary packet of the network: flows on two legs are merged, so that the first copy of an RTP sequence number
counts alone (R192, R203). -/
def ancPacket (p : MediaPkt) (x : Input) : Input :=
  let cap := rtpCapture p.rtpTs p.stamp
  if x.ring.any fun q => decide (q.capture = cap) && q.ancSeqs.contains p.seq then x
  else captureAnc cap p.anc { x with ring := x.ring.map fun q =>
    if q.capture = cap then { q with ancSeqs := q.ancSeqs ++ [p.seq] } else q }

/-- The frames of an audio packet: the RTP timestamp extended at the flow's rate (R437). -/
def audioFirst (fs ts stamp : Nat) : Nat :=
  let a := stamp * fs / 4000000000
  let lo := a - 2147483648
  lo + (ts + 4294967296 - lo % 4294967296) % 4294967296

/-- The value of a flow's sample as its ring holds it: four bytes of the left-aligned sample, or an AES3 subframe unchanged
(R436, R443). -/
def flowSample (v digest k ch : Nat) : Nat :=
  let a := Config.flowSample digest k ch
  if fieldAt v 1 1 = 1 then a % 4294967296 else packSample (fieldAt v 4 1) 1 a

/-- A packet of an audio flow writes its frames, a copy on the second leg those that the first has not brought; a gap before
it waits for the window (R192, R443). -/
def audioPacket (i j0 : Nat) (p : MediaPkt) (s : State) : State :=
  match inputOf s i with
  | none => s
  | some x =>
    let j := mergedFlow x j0
    match audioFlow x j with
    | none => s
    | some v =>
      let fs := rateHz (fieldAt v 3 1)
      let first := audioFirst fs p.rtpTs p.stamp
      let n := packetNs (fieldAt v 5 1) * fs / 1000000000
      let newest := ((tabGet [] s.aud.rings (endpoint 3 i 0 j).toNat).map fun e => e.1 + 1).foldl max 0
      let s1 := (List.range (fieldAt v 2 1)).foldl (fun s ch =>
        (List.range n).foldl (fun s k => writeFrame (endpoint 3 i ch j) (first + k) (flowSample v p.digest k ch) true s) s) s
      if 0 < newest ∧ newest < first then
        setInput i { x with audGaps := x.audGaps ++ [(j, newest, first - newest, stampTime p.stamp)] } s1
      else s1

/-! ### Windows (R190, R443) -/

/-- The lines whose window has passed, in order. -/
def dueLines (now w : Nat) (x : Input) : List LineAsm :=
  x.asm.filter fun a => match a.later with
    | some t => decide (t + w ≤ now)
    | none => false

/-- The audio gaps whose window has passed become flagged zeros. -/
def flagGaps (i w : Nat) (x : Input) (s : State) : State :=
  let due (g : Nat × Nat × Nat × Nat) : Bool := decide (g.2.2.2 + w ≤ s.tim.now)
  let s1 := (x.audGaps.filter due).foldl (fun s g =>
    let chans := match audioFlow x g.1 with | some v => fieldAt v 2 1 | none => 0
    (List.range chans).foldl (fun s ch => (List.range g.2.2.1).foldl (fun s k =>
      writeFrame (endpoint 3 i ch g.1) (g.2.1 + k) 0 false s) s) s) s
  modInput i (fun x => { x with audGaps := x.audGaps.filter fun g => !due g }) s1

def execRxWindowExpiry (input : Fin 128) (s : State) : Out :=
  match inputOf s input.val with
  | none => .next s
  | some x =>
    if x.kind ≤ 1 then .next s
    else
      let w := ns (windowNs (some x))
      let y := (dueLines s.tim.now w x).foldl (fun x a => releaseLine s.tim.now a x) x
      .next (flagGaps input.val w x (landed input.val s (setInput input.val y s)))

/-! ### Policers (R426, R427) -/

/-- The pre-colour of a packet: 0 green, 1 yellow, 2 red. -/
def preColour (dscp : Nat) : Nat :=
  let n := dscp / 8
  let m := dscp % 8
  if 1 ≤ n ∧ n ≤ 4 ∧ (m = 4 ∨ m = 6) then (m - 2) / 2 else 0

/-- The buckets after the time since the last refill. -/
def refill (now : Nat) (p : Policer) : Policer :=
  let capC := p.cbs * 8000000000
  let capE := p.ebs * 8000000000
  let dt := now - p.last
  let c := p.tokC + p.cir * dt
  if p.mode = 2 then { p with tokC := min capC c, tokE := min capE (p.tokE + p.pir * dt), last := now }
  else { p with tokC := min capC c, tokE := min capE (p.tokE + (c - capC)), last := now }

/-- The colour of a packet of some bytes, and the policer after it (RFC 2697, RFC 2698). -/
def colour (now bytes dscp : Nat) (p0 : Policer) : Nat × Policer :=
  let p := refill now p0
  let b := bytes * 8000000000
  let pre := if p.aware then preColour dscp else 0
  if p.mode = 1 then
    if pre = 0 ∧ b ≤ p.tokC then (0, { p with tokC := p.tokC - b })
    else if pre ≤ 1 ∧ b ≤ p.tokE then (1, { p with tokE := p.tokE - b })
    else (2, p)
  else if pre = 2 ∨ p.tokE < b then (2, p)
  else if pre = 1 ∨ p.tokC < b then (1, { p with tokE := p.tokE - b })
  else (0, { p with tokE := p.tokE - b, tokC := p.tokC - b })

/-- Counts a packet's colour; whether it passes. -/
def police (now bytes dscp : Nat) (p0 : Policer) : Bool × Policer :=
  if p0.mode = 0 then (true, p0)
  else
    let (c, p) := colour now bytes dscp p0
    if c = 0 then (true, { p with green := p.green + 1 })
    else if c = 1 then
      (!p.yellowDrop, { p with yellow := p.yellow + 1, yellowDropped := p.yellowDropped + p.yellowDrop.toNat })
    else (!p.redDrop, { p with red := p.red + 1, redDropped := p.redDropped + p.redDrop.toNat })

/-! ### Media interfaces (R183 to R189, R421) -/

/-- Whether an interface exists in its port's mode (R183). -/
def ifaceExists (s : State) (n : Nat) : Bool :=
  match tabGet .absent s.mediaMode (n / 4) with
  | .breakout => true
  | .absent => false
  | _ => decide (n % 4 = 0)

def setMni (n : Nat) (x : MniIf) (s : State) : State := { s with mni := tabSet s.mni n x }

/-- Whether an interface receives: its port in service and not in port-off, its link up, its address in
use. -/
def ifaceHears (s : State) (n : Nat) : Bool :=
  mediaHears s (n / 4) && ifaceExists s n && (mniIf s n).linkUp && (mniIf s n).en

/-- Whether a flow matches a packet (R187). -/
def flowMatches (s : State) (f : Flow) (p : MediaPkt) : Bool :=
  decide (f.iface = p.iface.val ∧ f.dstIp = p.dstIp ∧ f.dstPort = p.dstPort) &&
    (isMulticast p.dstIp || decide (p.dstIp = (mniIf s p.iface.val).addr)) &&
    decide ((f.pt = 0 ∨ f.pt = p.payloadType) ∧ (f.srcIp = 0 ∨ f.srcIp = p.srcIp) ∧
      (f.srcPort = 0 ∨ f.srcPort = p.srcPort) ∧ (f.ssrc = 0 ∨ f.ssrc = p.ssrc) ∧
      (f.vlan = 0xFFFF ∨ f.vlan = p.vlan))

/-- The number of a flow's fields that are set. -/
def flowWeight (f : Flow) : Nat :=
  (decide (f.pt ≠ 0)).toNat + (decide (f.srcIp ≠ 0)).toNat + (decide (f.srcPort ≠ 0)).toNat +
    (decide (f.ssrc ≠ 0)).toNat + (decide (f.vlan ≠ 0xFFFF)).toNat

/-- All flows with their flow IDs, lowest ID first (R188). -/
def allFlows (s : State) : List (Nat × Flow) :=
  (s.inputs.map fun e => ((List.range e.2.flows.length).zip e.2.flows).map fun q =>
    (32 * e.1 + q.1, q.2)).flatten

/-- The entry that a packet goes to: the most fields set, then the lower flow ID; flows of ST 2022-1 error correction
match none (R186). -/
def filterFlow (s : State) (p : MediaPkt) : Option (Nat × Flow) :=
  let ms := (allFlows s).filter fun e => flowMatches s e.2 p && decide (p.form ≠ .fec)
  let best := (ms.map fun e => flowWeight e.2).foldl max 0
  ms.find? fun e => flowWeight e.2 = best

/-- A matched packet, past its policer; a video packet in a form that the input does not take is discarded (R186;
DEDUCED, assumption log 45). -/
def flowPacket (id : Nat) (f : Flow) (p : MediaPkt) (s : State) : State :=
  let i := id / 32
  match f.role with
  | 0 => if (match inputOf s i with | some x => takesForm x.kind p.form | none => false) then videoPacket i f.leg p s
      else s
  | 1 => modInput i (ancPacket p) s
  | _ => audioPacket i (id % 32) p s

/-- The setting that a flow's policer had before an IN.POLICE of this cycle, if there was one (R426). -/
def oldPolicer (s : State) (id : Nat) : Option (Option Policer) :=
  (s.policedBefore.find? fun e => decide (e.1 = id ∧ e.2.1 = s.tim.now)).map fun e => e.2.2

/-- The policer of a flow's packet: in the cycle in which IN.POLICE was accepted the old one (R426). -/
def policerNow (s : State) (id : Nat) : Option Policer := (oldPolicer s id).getD (tabGet? s.policers id)

/-- A policer after a packet, in the place where `policerNow` found it. -/
def setPolicer (id : Nat) (q : Policer) (s : State) : State :=
  match oldPolicer s id with
  | some _ => { s with policedBefore := s.policedBefore.map fun e =>
      if e.1 = id ∧ e.2.1 = s.tim.now then (e.1, e.2.1, some q) else e }
  | none => { s with policers := tabSet s.policers id q }

/-- An RTP packet: filtered, policed, and taken into its input. A packet that the filter matches makes its input
present, whatever its policer says (R181). -/
def rtpPacket (p : MediaPkt) (s : State) : State :=
  let n := p.iface.val
  let x := mniIf s n
  match filterFlow s p with
  | none => setMni n { x with unmatched := x.unmatched + 1 } s
  | some (id, f) =>
    let s0 := if f.role = 0 then heardPacket (id / 32) s else s
    match policerNow s0 id with
    | none => flowPacket id f p s0
    | some q =>
      let (pass, q1) := police (nowNs s0) p.frameBytes p.dscp q
      let s1 := setPolicer id q1 s0
      if pass then flowPacket id f p s1 else s1

/-- The MAC address of an interface (R185): 0x06, the low four bytes of the UID, most significant first, and 0x10 + n. -/
def ifMac (s : State) (n : Nat) : List Nat :=
  let u := s.fuses.uid
  [6, u / 16777216 % 256, u / 65536 % 256, u / 256 % 256, u % 256, 16 + n]

/-- The membership reports of some flows at an interface: every multicast group whose join flag is set, source-specific
where the flow names a source (R185). -/
def reportsOf (s : State) (n : Nat) (fs : List Flow) : List IfFrame :=
  ((fs.filter fun f => f.iface = n && isMulticast f.dstIp && bitAt f.flags 0).map fun f =>
    IfFrame.report (ifMac s n) f.dstIp (if f.srcIp = 0 then none else some f.srcIp)).eraseDups

/-- Frames that an interface sends on its own. -/
def sendIf (n : Nat) (fs : List IfFrame) (s : State) : State :=
  setMni n { mniIf s n with sent := (mniIf s n).sent ++ fs } s

/-- Whether an interface takes a frame: with VLAN_EN only one tagged with its VLAN_ID (R183). -/
def vlanOk (x : MniIf) (p : MediaPkt) : Bool := !x.vlanEn || decide (p.vlan = x.vlanId)

/-- A packet on a media interface. PTP goes to TIM (the PTP commands carry its messages); the port answers ARP,
ICMP echo and IGMP queries for its address (R185, R189, R15). -/
def execMediaPacketRx (p : MediaPkt) (s : State) : Out :=
  let n := p.iface.val
  let x := mniIf s n
  if !ifaceHears s n || !vlanOk x p then .next s
  else match p.proto with
    | .ptp => .next s
    | .arp => .next (if p.dstIp = x.addr then sendIf n [.arp (ifMac s n) x.addr (some p.srcIp)] s else s)
    | .icmpEcho => .next (if p.dstIp = x.addr then sendIf n [.echoReply (ifMac s n) x.addr p.srcIp] s else s)
    | .igmpQuery => .next (sendIf n (reportsOf s n ((allFlows s).map Prod.snd)) s)
    | .rtp => .next (rtpPacket p s)
    | .other => .next (setMni n { x with unmatched := x.unmatched + 1 } s)

/-- A word of MNI_IFn with a value written (R183). -/
def mniWord (w v : Nat) (x : MniIf) : MniIf :=
  match w with
  | 0 => { x with addr := BitVec.ofNat 32 v }
  | 1 => { x with en := bitAt v 0, prefix_ := bitsAt v 8 6, vlanId := bitsAt v 16 12, vlanEn := bitAt v 28 }
  | 3 => { x with gateway := BitVec.ofNat 32 v }
  | _ => x

/-- A write of words (number, value) of MNI_IFn: one that leaves EN at 1 sends a gratuitous ARP and the membership
reports again (R184). -/
def mniWrite (n : Nat) (ws : List (Nat × Nat)) (s : State) : State :=
  let y := ws.foldl (fun x w => mniWord w.1 w.2 x) (mniIf s n)
  let s1 := setMni n y s
  if y.en then sendIf n (.arp (ifMac s n) y.addr none :: reportsOf s n ((allFlows s).map Prod.snd)) s1 else s1

def execMniIfWrite (n : Fin 8) (m : Master) (word : Fin 4) (v : Word32) (s : State) : Out :=
  if regPath s m then .next (mniWrite n.val [(word.val, v.toNat)] s)
  else .next (busError m true (regAddr (0x30000 + 16 * n.val + 4 * word.val)) s)

/-- A QSFP28 module is found, and the port takes its mode; with none the port is down. -/
def execQsfpInsert (port : Fin 2) (kind : QsfpKind) (s : State) : Out :=
  let s1 := { s with mediaMode := tabSet s.mediaMode port.val kind }
  .next ((List.range 8).foldl (fun s n =>
    if n / 4 = port.val ∧ ifaceExists s n = false then setMni n { mniIf s n with linkUp := false } s
    else s) s1)

/-- The Ethernet link of an interface comes up or goes down (R421). -/
def execMediaLinkChange (iface : Fin 8) (up : Bool) (s : State) : Out :=
  .next (setMni iface.val { mniIf s iface.val with linkUp := up && ifaceExists s iface.val } s)

/-! ### SDI (R166, R179, R181, R203, R444) -/

/-- The signal at an SDI port: none while the port is off or out of service. -/
def sdiSignal (s : State) (p : Nat) : SdiSignal :=
  if sdiOn s p ∧ ¬ s.modes.portsOff.contains (.sdi (Fin.ofNat 8 p)) then tabGet .unlocked s.sdi p
  else .unlocked

/-- The SDI inputs. -/
def sdiInputs (s : State) : List (Nat × Input) := s.inputs.filter fun e => e.2.kind ≤ 1

/-- The lowest port of the link group of an input that a port belongs to: each half of an octal input is a
group of four (R179). -/
def groupBase (x : Input) (p : Nat) : Nat :=
  if x.sdiPorts = 255 then p / 4 * 4 else ((bitList 8 x.sdiPorts).head?).getD p

/-- Ports of a link group. -/
def groupSize (x : Input) : Nat := if x.kind = 0 then 1 else 4

/-- Whether a format is one that a LINK code carries (R178). -/
def linkTakes (link : Nat) (f : Format) : Bool :=
  let hd := decide (f.width = 1920 ∧ f.height = 1080)
  let r := rateIs f.rateNum f.rateDen
  let low := r 24000 1001 || r 24 1 || r 25 1 || r 30000 1001 || r 30 1
  let high := r 50 1 || r 60000 1001 || r 60 1
  let p := decide (f.scan = 0)
  match link with
  | 1 => (hd && decide (f.scan = 1) && (r 25 1 || r 30000 1001 || r 30 1)) ||
      (hd && decide (f.scan ≠ 1) && low) || (decide (f.width = 1280 ∧ f.height = 720) && p && high)
  | 2 => hd && p && high
  | 3 => hd && p && high
  | 4 => decide (f.width = 3840 ∧ f.height = 2160) && p && low
  | 5 => decide (f.width = 3840 ∧ f.height = 2160) && p && high
  | 6 => decide (f.width = 7680 ∧ f.height = 4320) && p && (low || high)
  | 7 => decide (f.width = 7680 ∧ f.height = 4320) && p && (r 100 1 || r 120000 1001 || r 120 1)
  | _ => false

/-- The bit rate of a link format, as SdiLock names it (R178). -/
def linkRate (link : Nat) : Nat := if link ≤ 1 then 0 else if link ≤ 3 then 1 else if link = 4 then 2 else 3

/-- The link format that a port of an input must show: an octal input's groups are quad links at half the frame rate
(R179); LINK 0 follows the payload ID. -/
def linkWanted (x : Input) (k : SdiLock) : Nat :=
  if x.link = 0 then k.link else if x.link = 7 then 6 else x.link

/-- Whether a payload ID declares the format of an input (R181; DEDUCED, assumption log 44). -/
def payloadOk (x : Input) (f : Format) (k : SdiLock) : Bool :=
  let g := formatOf k.picture
  decide (k.link = linkWanted x k) && (decide (x.link ≠ 0) || (decide (k.link ≤ 5) && linkTakes k.link f)) &&
    decide (g.width = f.width ∧ g.height = f.height ∧ g.sampling = f.sampling ∧ g.depth = f.depth ∧ g.scan = f.scan) &&
    rateIs ((if x.link = 7 then 2 else 1) * g.rateNum) g.rateDen f.rateNum f.rateDen

/-- Whether the link numbers of a port's group are not 1 to 4, each once (R179). -/
def linkNumberBad (s : State) (x : Input) (p : Nat) (k : SdiLock) : Bool :=
  decide (groupSize x = 4) && (decide (k.number < 1 ∨ 4 < k.number) ||
    (bitList 8 x.sdiPorts).any fun q => decide (q ≠ p ∧ groupBase x q = groupBase x p) &&
      match sdiSignal s q with
      | .locked j => decide (j.number = k.number)
      | .unlocked => false)

/-- What does not match at a port of an input: the reason code of EV_INPUT_FORMAT, 0 for none (R181, R201). A link of a
group shows a quarter of the picture (R178). -/
def sdiReason (s : State) (x : Input) (p : Nat) (k : SdiLock) : Nat :=
  match x.format with
  | none => 0
  | some f =>
    let div := if groupSize x = 4 then 2 else 1
    if k.rate.val ≠ linkRate (linkWanted x k) ∨ k.div1001 ≠ decide (f.rateDen = 1001) then 1
    else if payloadOk x f k = false ∨ linkNumberBad s x p k = true then 2
    else if k.lineSamples ≠ f.width / div ∨ k.lineCount ≠ f.height / div then 3
    else if 2000 < k.skewNs then 4 else 0

/-- Whether a port of an input is locked to a signal that matches (R181). -/
def sdiGood (s : State) (x : Input) (p : Nat) : Bool :=
  match sdiSignal s p with
  | .locked k => decide (sdiReason s x p k = 0)
  | .unlocked => false

/-- EV_INPUT_FORMAT for a port whose signal does not match. -/
def formatEvent (i : Nat) (x : Input) (p : Nat) (s : State) : State :=
  let r := match sdiSignal s p with
    | .locked k => sdiReason s x p k
    | .unlocked => 0
  raiseIf (decide (0 < r)) evInputFormat noChan (u16 i ++ u8 p ++ u8 r) s

/-- Brings every SDI input's presence in line with its ports' signals. -/
def sdiRefresh (s : State) : State :=
  (sdiInputs s).foldl (fun s e =>
    if (bitList 8 e.2.sdiPorts).all (sdiGood s e.2) then goPresent e.1 s else goAbsent e.1 s) s

/-- A change of the signal at an SDI port. -/
def execSdiSignalChange (port : Fin 8) (sig : SdiSignal) (s : State) : Out :=
  let s1 := { s with sdi := tabSet s.sdi port.val sig }
  let hit := (sdiInputs s1).find? fun e => bitAt e.2.sdiPorts port.val
  let s2 := match hit with
    | some e => formatEvent e.1 e.2 port.val s1
    | none => s1
  .next (sdiRefresh s2)

/-- Start of active video on a group's lowest port: the capture time is the grid instant nearest the stamp
(quarter ns) less the reference offset (R166). -/
def sdiStart (i p stamp : Nat) (s : State) : State :=
  match inputOf s i with
  | none => s
  | some x =>
    match x.format, inputRate s i x with
    | some f, some q =>
      if x.present ∧ groupBase x p = p then
        let t := ((stampTime stamp : Int) - f.refOffset * 65536).toNat
        let n := gridIndex q t
        pictureBegins i (gridTime q n) n (dist t (gridTime q n)) p s
      else s
    | _, _ => s

def execSdiSav (port : Fin 8) (stamp : Nat) (s : State) : Out :=
  match (sdiInputs s).find? fun e => bitAt e.2.sdiPorts port.val with
  | some e => .next (sdiStart e.1 port.val stamp s)
  | none => .next s

/-- The link number of a port's signal, counted from 0: the device identifies each link by its payload ID, whatever the
order of the cables (R179). -/
def linkIndex (s : State) (x : Input) (p : Nat) : Nat :=
  if groupSize x = 1 then 0
  else match sdiSignal s p with
    | .locked k => k.number - 1
    | .unlocked => 0

/-- The newest picture that a link group carries. -/
def groupPicture (x : Input) (p : Nat) : Option RingPic :=
  (x.ring.filter fun q => decide (q.group = groupBase x p)).getLast?

/-- An active line of one link, which carries part `k` of it: the line is whole when every link of its group has brought
its part (DESIGN CHOICE, assumption log 45). -/
def sdiLine (cap k line digest now : Nat) (x : Input) : Input :=
  let fresh : LineAsm :=
    { picture := cap, line := line, parts := groupSize x, got0 := [], got1 := [], later := none, data := [],
      carried := false }
  let a0 := (x.asm.find? fun b => b.picture = cap && b.line = line).getD fresh
  let a := { a0 with got0 := a0.got0 ++ [k], data := a0.data ++ [(k, digest)] }
  let x1 := { x with asm := (x.asm.filter fun b => ¬(b.picture = cap ∧ b.line = line)) ++ [a] }
  if lackedOf a = [] then releaseLine now a x1 else x1

/-- A line with its ancillary packets and embedded audio, which link 1 of the group carries (R203, R444). A line with a
CRC error is used as received; the picture ends with its last line. -/
def execSdiLineRx (port : Fin 8) (line : Nat) (last : Bool) (crcOk : Bool) (digest : Nat)
    (anc : List AncPkt) (audio : List Nat) (s : State) : Out :=
  match (sdiInputs s).find? fun e => bitAt e.2.sdiPorts port.val with
  | none => .next s
  | some (i, x) =>
    if !x.present then .next s
    else
      let k := linkIndex s x port.val
      let x1 := { x with crcErrors := x.crcErrors + (!crcOk).toNat }
      match groupPicture x1 port.val with
      | none => .next (setInput i x1 s)
      | some q =>
        let cap := q.capture
        let x2 := if x1.writing then sdiLine cap k line digest s.tim.now (if k = 0 then captureAnc cap anc x1 else x1)
          else x1
        let x3 := if last ∧ x2.writing then
            completePic s.tim.now cap { x2 with asm := x2.asm.filter fun b => b.picture ≠ cap } else x2
        let s1 := landed i s (setInput i x3 s)
        .next (if k = 0 then embedAudio i (frameAt (capNs cap) 48000) audio s1 else s1)

/-! ### IN.CONFIGURE (R173 to R196, R443) -/

/-- The SDI ports that outputs or the other inputs name. -/
def portsOfOutputs (s : State) (p : Nat) : Bool :=
  s.outputs.any fun e => decide (e.2.kind ≤ 1) && bitAt e.2.ports p
def portsOfInputs (s : State) (but p : Nat) : Bool :=
  s.inputs.any fun e => decide (e.1 ≠ but ∧ e.2.kind ≤ 1) && bitAt e.2.sdiPorts p

/-- Whether SDI_PORTS suits a kind and link (R178, R179). -/
def sdiPortsBad (s : State) (i kind link ports : Nat) : Bool :=
  if 2 ≤ kind then decide (ports ≠ 0)
  else
    let ok := if kind = 0 then decide ((bitList 8 ports).length = 1)
      else if link = 7 then decide (ports = 0xFF) else decide (ports = 0x0F ∨ ports = 0xF0)
    !ok || (bitList 8 ports).any fun p => portsOfOutputs s p || portsOfInputs s i p

/-- Whether LINK is one for the kind: a window for network kinds (DEDUCED, assumption log 44). -/
def linkBad (kind link : Nat) : Bool :=
  if 2 ≤ kind then decide (100 < link) else if kind = 0 then decide (5 < link)
  else decide (link ≠ 6 ∧ link ≠ 7)

/-- Whether an AUDIO_FLOW value is malformed (R443). -/
def audioFlowBad (fs : List Flow) (v : Nat) : Bool :=
  let role2 := match fs[fieldAt v 0 1]? with | some f => decide (f.role = 2) | none => false
  !role2 || decide (1 < fieldAt v 1 1) || decide (fieldAt v 2 1 < 1 ∨ 64 < fieldAt v 2 1) ||
    decide (fieldAt v 3 1 ≠ 2 ∧ fieldAt v 3 1 ≠ 3) || decide (fieldAt v 4 1 ≠ 16 ∧ fieldAt v 4 1 ≠ 24) ||
    decide (1 < fieldAt v 5 1) || decide (fieldAt v 6 2 ≠ 0)

/-- The lowest channel that names an input and is outside IDLE, CONFIGURED and FAULTED. -/
def inputBusy (s : State) (i : Nat) : Option Nat :=
  handles.find? fun h => active (chan s h).state && match (chan s h).cfg with
    | some c => decide (c.input = i)
    | none => false

/-- The input that a request describes. -/
def inputFrom (r : Req) : Input :=
  { kind := tlvD r 0x0302 0, sdiPorts := tlvD r 0x0303 0, link := tlvD r 0x0304 0,
    flows := (tlvAll r 0x0305).map flowOf, format := (getTlv r 0x0306).map formatOf, coded := none,
    ringFrames := tlvD r 0x0307 16, sync := tlvD r 0x0308 0, anc := tlvD r 0x0309 0,
    audioFlows := tlvAll r 0x030A, present := false, locked := false, conform := 0, prevGrid := none,
    newest := none, lastCapture := 0, lastPacket := 0, writing := false, charged := none, asm := [],
    ring := [], passed := [], syncing := true, lastSlot := none, slotPic := none, since := [],
    absentAt := 0, black := false, repeats := 0, drops := 0, late := 0, crcErrors := 0,
    ancDiscards := 0, missing0 := 0, missing1 := 0, missingM := 0, sec0 := 0, sec1 := 0, secM := 0,
    audGaps := [] }

/-- Whether two flows have equal fields. -/
def sameFlow (a b : Flow) : Bool := decide (a = b)

/-- Whether the flows of a request are refused (R187, R188). -/
def flowsBad (s : State) (i : Nat) (x : Input) : Bool :=
  let others := (s.inputs.filter fun e => e.1 ≠ i).map fun e => e.2.flows
  decide (32 < x.flows.length) || x.flows.any flowBad || decide (¬ x.flows.Nodup) ||
    x.flows.any (fun f => others.any fun fs => fs.any (sameFlow f)) ||
    (if 2 ≤ x.kind then !x.flows.any (fun f => f.role = 0) else x.flows.any fun f => f.role = 0)

/-- An input's policers go with its configuration. -/
def dropPolicers (i : Nat) (s : State) : State :=
  { s with policers := s.policers.filter fun e => e.1 / 32 ≠ i }

/-- An interface reports the groups of an input's flows as they are configured (R185). -/
def joinFlows (x : Input) (s : State) : State :=
  (List.range 8).foldl (fun s n => if (mniIf s n).en then sendIf n (reportsOf s n x.flows) s else s) s

/-- EV_INPUT_FORMAT for the ports of a configured input whose signals do not match. -/
def formatEvents (i : Nat) (x : Input) (s : State) : State :=
  if x.kind ≤ 1 then (bitList 8 x.sdiPorts).foldl (fun s p => formatEvent i x p s) s else s

def inConfigureWork (r : Req) (s : State) : Verdict :=
  let i := tlvD r 0x0301 0
  let x := inputFrom r
  let fmt := tlvD r 0x0306 0
  let unc := decide (x.kind ≤ 2)
  let links := if x.kind = 1 then [x.link] else if x.link = 0 then [1, 2, 3, 4, 5] else [x.link]
  if 127 < i then .err stBadParam 0x0301 []
  else match inputBusy s i with
    | some h => badState s h
    | none => paramsThen
        [(decide (6 < x.kind), 0x0302), (linkBad x.kind x.link, 0x0304),
         (sdiPortsBad s i x.kind x.link x.sdiPorts, 0x0303), (flowsBad s i x, 0x0305),
         (decide (unc ≠ hasTlv r 0x0306), 0x0306), (unc && formatBad x.kind fmt, 0x0306),
         (decide (x.kind ≤ 1) && !links.any (fun l => linkTakes l (formatOf fmt)), 0x0306),
         (decide (x.ringFrames < 1 ∨ 16 < x.ringFrames), 0x0307), (decide (3 < x.sync), 0x0308),
         (decide (15 < x.anc), 0x0309),
         (x.audioFlows.any (audioFlowBad x.flows) ||
           decide ((x.audioFlows.map fun v => fieldAt v 0 1).eraseDups.length ≠
             (x.flows.filter fun f => f.role = 2).length) ||
           decide (x.audioFlows.length ≠ (x.flows.filter fun f => f.role = 2).length), 0x030A)]
        (.ok (joinFlows x (sdiRefresh (formatEvents i x (dropPolicers i (setInput i x s))))) [] false)

def execInConfigure (r : Req) (s : State) : Out := .next (serve sInConfigure r inConfigureWork s)

/-- IN.CLEAR: an input that no channel uses is cleared; one that is not configured is refused (DEDUCED, assumption log 44). -/
def inClearWork (r : Req) (s : State) : Verdict :=
  let i := tlvD r 0x0301 0
  if (inputOf s i).isNone then .err stBadParam 0x0301 []
  else match inputBusy s i with
    | some h => badState s h
    | none => .ok (dropPolicers i { s with inputs := tabErase s.inputs i }) [] false

def execInClear (r : Req) (s : State) : Out := .next (serve sInClear r inClearWork s)

/-- POLICE_STAT of a policed flow (R428). -/
def policeStat (e : Nat × Policer) : Tlv :=
  tlvB 0x0314 (u16 e.1 ++ List.replicate 6 0 ++ u64 e.2.green ++ u64 e.2.yellow ++ u64 e.2.red)

/-- IN.STATUS: lock, repeats, drops, the last capture time and the policed flows (R428; DEDUCED, assumption log 44, of an
input that is not configured). -/
def inStatusWork (r : Req) (s : State) : Verdict :=
  let i := tlvD r 0x0301 0
  match inputOf s i with
  | none => .err stBadParam 0x0301 []
  | some x =>
    .ok s ([tlv 0x0310 1 (lockedCode x), tlv 0x0311 8 x.repeats, tlv 0x0312 8 x.drops,
            tlv 0x0313 8 (capNs x.lastCapture)] ++
           (s.policers.filter fun e => e.1 / 32 = i && decide (e.2.mode ≠ 0)).map policeStat) false

def execInStatus (r : Req) (s : State) : Out := .next (serve sInStatus r inStatusWork s)

/-- The MTU of a media interface (R410's default; assumption log 17). -/
def ifaceMtu : Nat := 1500

def inPoliceWork (r : Req) (s : State) : Verdict :=
  let id := tlvD r 0x0320 0
  let v := tlvD r 0x0321 0
  if (allFlows s).all fun e => e.1 ≠ id then .err stBadParam 0x0320 []
  else if policerBad v ifaceMtu then .err stBadParam 0x0321 []
  else .ok { s with
    policers := tabSet s.policers id (policerOf v (nowNs s))
    policedBefore := s.policedBefore.filter (fun e => decide (e.1 ≠ id)) ++ [(id, s.tim.now, policerNow s id)] } [] false

def execInPolice (r : Req) (s : State) : Out := .next (serve sInPolice r inPoliceWork s)

end Sys2Proof.Machine
end

