-- ==== Sys2Proof/Machine/Refs.lean ====
section
/-! DEFINITION. Machine/Refs.lean: reconstructed pictures and the reference pictures in DRAM (R255, R256, R267). -/

namespace Sys2Proof.Machine

/-! ### Reconstructed pictures (R267, R270) -/

/-- The form of a work's pictures: width, height, chroma code and bit depth. In a transcode's decode it is the input's. -/
def reconForm (s : State) (f : ChanCfg) (work : Nat) : Nat × Nat × Nat × Nat :=
  match work, f.role, chanFormat s f with
  | 1, .transcode, some g =>
    let z := decodeSize f (some g)
    (z.width, z.height, chromaOf g.sampling, g.depth)
  | _, _, _ => (f.width, picHeight f, f.chroma, f.bitDepth)

/-- A mid-grey picture: 2^(depth - 1) in every component, half of 16 bits in the content's own (R209, R267). -/
def greyRecon (s : State) (f : ChanCfg) (work : Nat) : Recon :=
  let (w, h, _, _) := reconForm s f work
  { content := Config.pixelsContent (List.replicate (w * h) [32768, 32768, 32768]), grey := true }

/-- The picture that a complete decode gives: mid-grey where the stream is not decoded, a copy of the previous picture in
output order where the access unit is absent, mid-grey too where there is none before, else what the decoder
reconstructs (R267, R270). -/
def decodedRecon (s : State) (h : Nat) (f : ChanCfg) (capture : Nat) (grey absent : Bool) : Recon :=
  if grey then greyRecon s f 1
  else if absent then (chan s h).lastRecon.getD (greyRecon s f 1)
  else { content := Config.decodedPicture 1 h capture, grey := false }

/-! ### Units of a plane (R255) -/

/-- The samples of a plane of a picture: 0 luma, 1 interleaved chroma. -/
def planeOf (n depth plane : Nat) (x : Recon) : List Nat :=
  if x.grey then List.replicate n (2 ^ (depth - 1)) else Config.planeSamples x.content plane

/-- The samples of unit `i` of a plane of `w` by `h` samples, in raster order: units at the right and bottom edges repeat the
last sample. -/
def unitSamples (w h : Nat) (px : List Nat) (i : Nat) : List Nat :=
  let cols := ceilDiv w 64
  (List.range 256).map fun k =>
    let x := min (w - 1) (i % cols * 64 + k % 64)
    let y := min (h - 1) (i / cols * 4 + k / 64)
    px.getD (y * w + x) 0

/-- The metadata code of a unit: the fewest sectors that its form allows, and 8 only where the compressed form would need
more than 7 (R255, R256). -/
def unitCode (depth : Nat) (px : List Nat) : Nat :=
  if px.all (fun v => decide (v = 2 ^ (depth - 1))) then 0
  else min 8 (max 1 (ceilDiv (Config.packedUnit px) 64))

/-- A unit as the encoder or decoder writes it. -/
def storeUnit (depth : Nat) (px : List Nat) : RefUnit := { code := unitCode depth px, samples := px }

/-- The units of a plane in raster order. -/
def planeUnits (w h depth : Nat) (px : List Nat) : List RefUnit :=
  (List.range (ceilDiv w 64 * ceilDiv h 4)).map fun i => storeUnit depth (unitSamples w h px i)

/-- Where unit `i` of a plane begins in the plane's space: every unit has 8 sectors of 64 bytes. -/
def unitSpace (i : Nat) : Nat := 512 * i

/-- Byte `j` of a plane's metadata: two codes, the lower unit's in the low nibble. -/
def metaByte (us : List RefUnit) (j : Nat) : Nat :=
  (us.map RefUnit.code).getD (2 * j) 0 + 16 * (us.map RefUnit.code).getD (2 * j + 1) 0

/-- The samples that a read of a place of a plane returns: exactly those that reconstruction wrote (R256). -/
def readUnit (us : List RefUnit) (i : Nat) : List Nat := ((us[i]?).map RefUnit.samples).getD []

/-- Bytes that the write of a plane moves: the sectors of its units, and the metadata. -/
def planeTraffic (us : List RefUnit) : Nat := 64 * (us.map RefUnit.code).sum + ceilDiv us.length 2

/-! ### The reference space of a channel -/

/-- The reference picture of a reconstructed picture. The chroma plane of a 4:2:0 picture has half the rows. -/
def refPicOf (s : State) (f : ChanCfg) (work capture no : Nat) (x : Recon) : RefPic :=
  let (w, h, chroma, depth) := reconForm s f work
  let hc := if chroma = 1 then h / 2 else h
  { work := work, capture := capture, codingNo := no, luma := planeUnits w h depth (planeOf (w * h) depth 0 x)
    chroma := planeUnits w hc depth (planeOf (w * hc) depth 1 x) }

/-- Pictures of a work that the reference space holds beside the one that the monitor may hold (R246, R485; DESIGN CHOICE,
assumption log 84). -/
def refSpace (f : ChanCfg) : Nat := f.refFrames + miniGop f + 1

/-- A reconstructed picture enters the reference space, and its traffic is charged to the coding activity (R255, R356). JPEG
XS has no reference pictures. -/
def writeRef (h : Nat) (f : ChanCfg) (work capture no : Nat) (x : Recon) (s : State) : State :=
  let codec := if work = 1 ∧ f.role = .transcode then f.inCodec else f.codec
  if codec = .jpegxs then s
  else
    let p := refPicOf s f work capture no x
    let keep (c : Chan) : List RefPic :=
      let mine := (c.refs.filter fun q => q.work = work) ++ [p]
      (c.refs.filter fun q => q.work ≠ work) ++ mine.drop (mine.length - refSpace f)
    traffic (actCoding h) (planeTraffic p.luma + planeTraffic p.chroma) (modChan h (fun c => { c with refs := keep c }) s)

end Sys2Proof.Machine
end

