-- ==== Sys2Proof/Machine/Hash.lean ====
section
/-! DEFINITION. Machine/Hash.lean: motion search and the motion hash table (R233, R247 to R254): what a pipeline's motion
vectors may be, the entries of the table in DRAM, the insertion pass, and the order of searches and insertions. -/

namespace Sys2Proof.Machine

/-! ### Source pictures (R9, R225, R251) -/

/-- The ring's picture that an input passes with a capture time: its own, or the one that its slot took (R197 to R200). -/
def slotPicture (i : Input) (capture : Nat) : Option RingPic :=
  let of (c : Nat) : Option RingPic := i.ring.find? fun q => decide (q.capture = c)
  match of capture with
  | some p => some p
  | none => i.slotPic.bind of

/-- The lines of the picture that an input passes with a capture time: the ring's picture of that time, the one
that its slot took (R197 to R200), or no line for a black fill; none where the input has passed no picture yet. -/
def slotSource (i : Input) (capture : Nat) : Option (List (Nat × Nat)) :=
  if i.black then some [] else (slotPicture i capture).map RingPic.lines

/-- The lines of the picture that a channel reads for a capture time: from its lookahead buffer, else from the ring (R287). -/
def sourcePicture (s : State) (h : Nat) (f : ChanCfg) (capture : Nat) : Option (List (Nat × Nat)) :=
  match (chan s h).lookBuf.find? fun p => decide (p.1 = capture) with
  | some p => some p.2
  | none => (inputOf s f.input).bind fun i => slotSource i capture

/-- Copies into the lookahead buffer the pictures of the ring that a channel in lookahead mode has begun and not copied yet;
the copy is read and written, and charged to the coding activity (R287, R356). The buffer holds LOOKAHEAD + 2 pictures. -/
def copyLook (h : Nat) (f : ChanCfg) (s : State) : State :=
  if f.latency ≠ .lookahead ∨ f.role = .transcode then s
  else (chan s h).begun.foldl (fun s capture =>
    if (chan s h).lookBuf.any fun p => decide (p.1 = capture) then s
    else match (inputOf s f.input).bind fun i =>
        (slotPicture i capture).filter fun p => p.completedAt.isSome || i.black with
      | none => s
      | some p =>
        let put (c : Chan) : Chan :=
          let b := c.lookBuf ++ [(capture, ((inputOf s f.input).bind fun i => slotSource i capture).getD p.lines)]
          { c with lookBuf := b.drop (b.length - (f.lookahead + 2)) }
        traffic (actCoding h) (2 * decodedBytes f (chanFormat s f)) (modChan h put s)) s

/-- The content of the picture that a transcode's decode gave for a capture time. -/
def decodedContent (s : State) (h : Nat) (f : ChanCfg) (capture : Nat) : Nat :=
  match ((chan s h).pics.find? fun q => decide (q.capture = capture)).bind Picture.recon with
  | some x => x.content
  | none => (decodedRecon s h f capture false false).content

/-- The content of the picture that a channel encodes: PIX's where a processing path writes it, else the decoded
picture in a transcode, else the input's (R251). -/
def sourceContent (s : State) (h : Nat) (f : ChanCfg) (capture : Nat) : Nat :=
  match (chan s h).srcPics.find? fun p => decide (p.capture = capture) with
  | some p => p.content
  | none =>
    if f.role = .transcode then decodedContent s h f capture
    else match sourcePicture s h f capture with
      | some lines => Config.pictureContent lines
      | none => Config.pictureContent []

/-! ### Entries of the table (R248, R250, R252) -/

/-- Where the table begins in DRAM, and the bytes of a unit of 65,536 entries. -/
def hashTable : Nat := 0x20000000
def hashUnitBytes : Nat := 524288

/-- An entry as its u64. The size is that of a block of 2 × HASH_GRID samples: 0 for 8 × 8, 1 for 16 × 16. -/
def hashEntry (hash : BitVec 64) (x y no h grid : Nat) : Nat :=
  let y4 := y / 4
  (if 1024 ≤ y4 then 2 else 0) + 1 + (if grid = 4 then 0 else 4) + h % 256 * 2 ^ 5 + no % 64 * 2 ^ 13 +
    y4 % 1024 * 2 ^ 19 + x / 4 % 2048 * 2 ^ 29 + (hash.toNat / 2 ^ 40) * 2 ^ 40

/-- How many pictures before picture `no` an entry's picture is, in coding order modulo 64. -/
def entryAge (no e : Nat) : Nat := (no % 64 + 64 - bitsAt e 13 6) % 64

/-- Whether an entry is live for picture `no` of channel `h` whose last hash reset was at picture `reset` (R252). -/
def entryLive (h no reset e : Nat) : Bool :=
  bitAt e 0 && decide (bitsAt e 5 8 = h) && decide (entryAge no e ≤ 15 ∧ entryAge no e ≤ no) &&
    decide (reset ≤ no - entryAge no e)

/-- X4, and Y4 with YEXT: a quarter of the block's left column and of its top row. -/
def entryColumn (e : Nat) : Nat := bitsAt e 29 11
def entryRow (e : Nat) : Nat := bitsAt e 19 10 + if bitAt e 1 then 1024 else 0

/-- The place of an entry's block in raster order. -/
def entryPlace (e : Nat) : Nat := entryRow e * 2048 + entryColumn e

/-- The address of a way of a bucket of 4 entries. -/
def wayAddr (base bucket way : Nat) : Nat := base + (bucket * 4 + way) * 8

/-- The entry at an address. -/
def entryAt (m : Mem) (a : Nat) : Nat := ofLe (byteNats (memReads m a 8))

/-- The way into which an entry goes: the lowest that is not live, else that of the oldest picture, among equally old ones
that of the first block in raster order (R251). -/
def chooseWay (h no reset : Nat) (m : Mem) (base bucket : Nat) : Nat :=
  let ways := (List.range 4).map fun w => (w, entryAt m (wayAddr base bucket w))
  match ways.find? fun e => !entryLive h no reset e.2 with
  | some e => e.1
  | none => (ways.foldl (fun best e =>
      if entryAge no best.2 < entryAge no e.2 ∨
          (entryAge no best.2 = entryAge no e.2 ∧ entryPlace e.2 < entryPlace best.2) then e else best)
      (0, entryAt m (wayAddr base bucket 0))).1

/-! ### Motion search (R233, R247, R252) -/

/-- Quarter samples that the integer search and the two refinements go from a candidate: 64 luma samples across and 32
down, and up to three quarters of a sample beyond. -/
def reachX : Int := 64 * 4 + 3
def reachY : Int := 32 * 4 + 3

/-- The vertical range of a motion vector in AVC, in quarter samples: -512 to +511.75 luma samples at levels 5 to 5.2. -/
def avcVertical (level : Nat) (y : Int) : Bool :=
  if 150 ≤ level then decide (-2048 ≤ y ∧ y ≤ 2047)
  else decide (-(Config.avcRange level : Int) ≤ y ∧ y < Config.avcRange level)

/-- Whether an entry answers the lookup of a block: the block's TAG, live, and of a reference picture of the channel. -/
def entryMatches (h : Nat) (c : Chan) (q : Picture) (hash : BitVec 64) (e : Nat) : Bool :=
  entryLive h q.codingNo q.lastHash e && decide (e / 2 ^ 40 = hash.toNat / 2 ^ 40) &&
    c.refs.any fun r => decide (r.work = 0 ∧ r.codingNo % 64 = bitsAt e 13 6)

/-- Whether a displacement is a hash candidate of a block: an entry of the block's bucket that answers its lookup stands
there (R250 to R252). -/
def hashCandidate (s : State) (h : Nat) (f : ChanCfg) (q : Picture) (m : Motion) (d : Int × Int) : Bool :=
  let c := chan s h
  match c.hashBase with
  | none => false
  | some b =>
    let hash := Config.blockHash (sourceContent s h f q.capture) m.x m.y (2 * f.hashGrid)
    let bucket := hash.toNat % (hashUnitsOf f * 16384)
    (List.range 4).any fun w =>
      let e := entryAt s.mem.dram (wayAddr (hashTable + b * hashUnitBytes) bucket w)
      entryMatches h c q hash e &&
        decide (d = (16 * entryColumn e - 4 * (m.x : Int), 16 * entryRow e - 4 * (m.y : Int)))

/-- Whether the encoder of a channel may search around a candidate: a hash candidate with hash search on, which may lie
anywhere in the reference picture, and in AVC none outside the level's vertical range. -/
def candidateOk (s : State) (h : Nat) (f : ChanCfg) (q : Picture) (m : Motion) (c : Nat × Int × Int) : Bool :=
  (decide (c.1 ≠ 1) || (f.hashSearch && hashCandidate s h f q m c.2)) && (decide (c.1 ≠ 2) || decide (c.2 = (0, 0))) &&
    (decide (f.codec ≠ .avc) || avcVertical f.level c.2.2)

/-- Whether the search of a picture could give a motion vector: at most 8 candidates, one of them near enough. -/
def motionOk (s : State) (h : Nat) (f : ChanCfg) (q : Picture) (m : Motion) : Bool :=
  decide (f.codec ≠ .jpegxs) && decide (m.cands.length ≤ 8) && m.cands.all (candidateOk s h f q m) &&
    (decide (f.codec ≠ .avc) || avcVertical f.level m.dy) &&
    m.cands.any fun c => decide ((m.dx - c.2.1).natAbs ≤ reachX.toNat ∧ (m.dy - c.2.2).natAbs ≤ reachY.toNat)

/-! ### The insertion pass (R251) -/

/-- The positions of a picture's blocks, in raster order: on the grid, and inside the picture. -/
def hashPlaces (f : ChanCfg) : List (Nat × Nat) :=
  let size := 2 * f.hashGrid
  let at_ (len : Nat) : List Nat := (List.range (len / max 1 f.hashGrid)).filterMap fun i =>
    if i * f.hashGrid + size ≤ len then some (i * f.hashGrid) else none
  ((at_ (picHeight f)).map fun y => (at_ f.width).map fun x => (x, y)).flatten

/-- Inserts one block, unless its samples are all equal. Answers the table and the entries written. -/
def insertBlock (h : Nat) (f : ChanCfg) (base no content reset : Nat) (x : Mem × Nat) (p : Nat × Nat) : Mem × Nat :=
  let size := 2 * f.hashGrid
  if Config.blockUniform content p.1 p.2 size then x
  else
    let hash := Config.blockHash content p.1 p.2 size
    let bucket := hash.toNat % (hashUnitsOf f * 16384)
    let way := chooseWay h no reset x.1 base bucket
    (memWrites x.1 (wayAddr base bucket way) (natBytes (le 8 (hashEntry hash p.1 p.2 no h f.hashGrid))), x.2 + 1)

/-- The insertion pass of a picture of a channel, charged to its coding activity with 24 bytes an entry, the figure of
R356 (DESIGN CHOICE, assumption log 79). -/
def insertPicture (h : Nat) (f : ChanCfg) (w : Nat × Nat × Nat) (s : State) : State :=
  match (chan s h).hashBase with
  | none => s
  | some b =>
    let x := (hashPlaces f).foldl (insertBlock h f (hashTable + b * hashUnitBytes) w.1 w.2.1 w.2.2) (s.mem.dram, 0)
    traffic (actCoding h) (24 * x.2) { s with mem := { s.mem with dram := x.1 } }

/-! ### The order of searches and insertions (R253) -/

/-- L: the search of picture m uses entries of pictures up to m - L. -/
def hashLag (f : ChanCfg) : Nat :=
  match f.latency with
  | .frame => 1
  | .lookahead => 1
  | .slice => 2
  | .ripple => 2

/-- Whether the searches of all pictures up to a coding-order number are complete. -/
def searched (c : Chan) (f : ChanCfg) (no : Nat) : Bool :=
  decide (no < c.codingNo) &&
    c.pics.all fun q => !q.ordered || decide (no < q.codingNo) || decide (f.slices ≤ q.slicesDone)

/-- Whether the search of a picture may begin: the insertion pass of picture m - L and of those before it is complete. -/
def maySearch (c : Chan) (f : ChanCfg) (m : Nat) : Bool :=
  !f.hashSearch || (c.hashWait.all (fun w => decide (m < w.1 + hashLag f)) &&
    c.pics.all fun q => !q.ordered || decide (m < q.codingNo + hashLag f) || decide (f.slices ≤ q.slicesDone))

/-- Runs the insertion passes that may run: that of picture q once the search of picture q + L - 1 is complete. -/
def runInserts (h : Nat) (f : ChanCfg) : Nat → State → State
  | 0, s => s
  | fuel + 1, s =>
    let c := chan s h
    match c.hashWait with
    | [] => s
    | w :: ws =>
      if searched c f (w.1 + hashLag f - 1) then
        runInserts h f fuel (insertPicture h f w (setChan h { c with hashWait := ws } s))
      else s

/-- The search of a picture is complete: its insertion pass waits for its turn. -/
def searchDone (h : Nat) (f : ChanCfg) (q : Picture) (s : State) : State :=
  if f.hashSearch then
    let w := (q.codingNo, sourceContent s h f q.capture, q.lastHash)
    let s1 := modChan h (fun c => { c with hashWait := c.hashWait ++ [w] }) s
    runInserts h f ((chan s1 h).hashWait.length) s1
  else s

end Sys2Proof.Machine
end

