-- ==== Sys2Proof/Machine/Coding.lean ====
section
/-! DEFINITION. Machine/Coding.lean: the coding engine and rate control (R61, R69, R136, R244, R257 to R263, R267
to R272, R284, R290 to R306, R472, R473, R501, R556): pictures as they begin, their order, key pictures and
refresh, the frames that pipelines issue, and the slices that they finish. -/

namespace Sys2Proof.Machine

/-! ### Pictures of a channel -/

/-- Changes the picture of a capture time. -/
def modPic (h capture : Nat) (f : Picture → Picture) (s : State) : State :=
  modChan h (fun c => { c with pics := c.pics.map fun q => if q.capture = capture then f q else q }) s

def picOf (c : Chan) (capture : Nat) : Option Picture := c.pics.find? fun q => decide (q.capture = capture)

/-- The value of a setting for a picture: the last modification that has taken effect for it, else the
configured value (R69, R299). -/
def settingAt (c : Chan) (ix d capture : Nat) : Nat :=
  match (c.applied.filter fun m => decide (m.index = ix ∧ m.effective ≤ capNs capture)).getLast? with
  | some m => m.value
  | none => d

/-- Whether a picture is the effective picture of a modification: no earlier picture of the channel lies at or
after it (DEDUCED, assumption log 30). -/
def effectiveAt (c : Chan) (f : ChanCfg) (ix capture : Nat) : Bool :=
  c.applied.any fun m =>
    decide (m.index = ix ∧ m.effective ≤ capNs capture ∧ capNs (capture - periodT f) < m.effective)

/-- The slices of a channel's decode work. -/
def decodeSlices (s : State) (f : ChanCfg) : Nat :=
  match f.role with
  | .transcode => defaultSlices (decodeSize f (chanFormat s f)).height
  | _ => f.slices

/-- Whether a capture time lies at or beyond a boundary capture time, to the nearest picture (DEDUCED,
assumption log 30). -/
def atOrPast (f : ChanCfg) (x b : Nat) : Bool := decide (b ≤ x + periodT f / 2)

/-- Whether a channel begins no picture after its last: it stops there, hands over there, or yields there. -/
def noMore (s : State) (h : Nat) (f : ChanCfg) : Bool :=
  let c := chan s h
  let next := (c.lastBegun.getD 0) + periodT f
  match c.state with
  | .stopping => (match c.stopPic, lastNs c with
    | some p, some l => decide (p ≤ l)
    | some _, none => false
    | none, _ => true)
  | .migrating => (c.handoverPeer.isSome && atOrPast f next (ns c.handoverPic)) ||
      (match group? s h with
       | some g => (match g.boundary with
         | some (b, _) => atOrPast f next b
         | none => false)
       | none => false)
  | _ => false

/-! ### CAPTURE_INSTANT (R61, R64, R69, R260, R472, R556) -/

/-- A pending modification takes effect at its effective picture (DEDUCED, assumption log 30). -/
def applyPending (h capture : Nat) (s : State) : State :=
  let c := chan s h
  match c.pending with
  | none => s
  | some m =>
    if m.acked ∧ m.effective ≤ capNs capture then
      modChan h (fun c => { c with pending := none, applied := c.applied ++ [m] }) s
    else s

/-- The requests for a key picture that a picture beginning now resolves, and the first one's cause. -/
def keyCauseFor (c : Chan) (capture : Nat) : Option Nat :=
  ((c.keyReqs.filter fun k => decide (k.1 < capNs capture)).head?).map Prod.snd

/-- A shadow's pictures whose emission slots are over and that keep nothing held are done. -/
def ageShadow (h : Nat) (f : ChanCfg) (s : State) : State :=
  let live (x : Nat) : Bool :=
    decide (s.tim.now < slotEnd f x) || hasPackets (fun k => ofChan h k && decide (k.capture = x)) s
  modChan h (fun c => { c with begun := c.begun.filter live, pics := c.pics.filter fun q => live q.capture }) s

/-- The ancillary data of a picture that a channel encodes: in a transcode what the decoded picture's SEI carried, else
the data captured for the input picture (R203, R265, R266). -/
def pictureAnc (s : State) (f : ChanCfg) (q : Picture) : List AncPkt :=
  if f.role = .transcode then q.anc
  else match (inputOf s f.input).bind fun i => slotPicture i q.capture with
    | some p => p.anc
    | none => q.anc

/-- The ancillary data of the pictures that a channel has begun is kept with them, as the ring moves on. -/
def keepAnc (h : Nat) (f : ChanCfg) (s : State) : State :=
  modChan h (fun c => { c with pics := c.pics.map fun q => { q with anc := pictureAnc s f q } }) s

/-- A picture's coding begins. -/
def beginPicture (h capture : Nat) (f : ChanCfg) (s : State) : State :=
  let s1 := applyPending h capture s
  let c := chan s1 h
  let q := Picture.new capture
  let q1 := match keyCauseFor c capture with
    | some k => { q with key := true, keyCause := k }
    | none => q
  let s2 := modChan h (fun c => { c with
    firstPic := some (c.firstPic.getD capture), lastBegun := some capture, begun := c.begun ++ [capture],
    pics := c.pics ++ [q1], keyReqs := c.keyReqs.filter fun k => !decide (k.1 < capNs capture) }) s1
  let s3 := keepAnc h f s2
  if f.role = .shadow then ageShadow h f s3 else s3

/-- The request of a planned handover that still waits for the peer. -/
def handoverWait (s : State) (h : Nat) : Option PeerWait :=
  s.mbx.peerWaits.find? fun w => decide (w.opcode = 0x0803 ∧ w.channel = h)

/-- EV_HANDOVER_FAILED with the peer's node and the status (R59). -/
def evHandover (h peer st : Nat) (s : State) : State := raise evHandoverFailed h (u16 peer ++ u16 st) s

/-- A handover that fails before its picture: MIGRATING goes back to RUNNING, the waiting request is answered,
and a drain limit that has expired meanwhile aborts the channel (R56, R472). ST_TIMEOUT names the peer (R118). -/
def failHandover (h st detail : Nat) (s : State) : State :=
  let peer := match handoverWait s h with
    | some w => w.node
    | none => (chan s h).handoverPeer.getD 0
  let s1 := match handoverWait s h with
    | some w =>
      let s' := { s with mbx := { s.mbx with peerWaits := s.mbx.peerWaits.erase w } }
      (match w.req with
       | some r => answer 0x0803 r st (if st = stTimeout then w.node else detail) [] false s'
       | none => s')
    | none => s
  let s2 := evHandover h peer st (toState h .running
    (modChan h (fun c => { c with handoverPeer := none, handoverPic := 0, continueDue := false }) s1))
  if s.modes.mode = .drain ∧ s.modes.drainEnds ≤ nowNs s then stopAbort h (stopGroup h 0 s2) else settle s2

/-- Whether a capture time is one for which a channel still waits: later than its last picture, reached, and not
before its start time (DEDUCED, assumption log 30). -/
def captureDue (s : State) (c : Chan) (capture : Nat) : Bool :=
  active c.state && decide (capture ≤ s.tim.now ∧ c.startTime ≤ capNs capture) &&
    match c.lastBegun with
    | some l => decide (l < capture)
    | none => true

/-- The handover picture (ns) that a shadow's newest checkpoint names, while the shadow still shadows. -/
def shadowHandover (s : State) (h : Nat) (f : ChanCfg) : Option Nat :=
  match group? s h with
  | some g => match g.checkpoint with
    | some k => if f.role = .shadow ∧ k.handoverPeer ≠ 0xFFFF then some k.handoverPicture else none
    | none => none
  | none => none

/-- A shadow at its active's handover picture: it begins no picture from there on, and stops before it once the
peer's launch time of it has come (R474). -/
def shadowHands (h hp : Nat) (f : ChanCfg) (s : State) : State :=
  if ns hp + ns f.delayNs ≤ s.tim.now then stopAt h (lastNs (chan s h)) (endGroup h s) else s

/-- Device time reaches a capture time of a channel's input. -/
def captureWork (h capture : Nat) (s : State) : State :=
  match (chan s h).cfg with
  | none => s
  | some f =>
    let s := copyLook h f (keepAnc h f s)
    let c := chan s h
    if !captureDue s c capture then s
    else match c.state with
      | .stopping =>
        if afterStop c.stopPic capture then
          checkStop h (modChan h (fun c => { c with stopPic := lastNs c }) s)
        else beginPicture h capture f s
      | .migrating =>
        if 0 < c.handoverPic ∧ atOrPast f capture (ns c.handoverPic) then
          if c.handoverPeer.isSome then s
          else
            let s1 := failHandover h stTimeout 0 s
            if active (chan s1 h).state then beginPicture h capture f s1 else s1
        else if noMore s h f then s
        else beginPicture h capture f s
      | _ => match shadowHandover s h f with
        | some hp => if atOrPast f capture (ns hp) then shadowHands h hp f s else beginPicture h capture f s
        | none => beginPicture h capture f s

/-- The capture instant of a picture of a channel: the operand is the capture time that its input gives the picture (DEDUCED,
assumption log 33). -/
def execCaptureInstant (ch : Fin 64) (capture : Nat) (s : State) : Out := .next (captureWork ch.val capture s)

/-- A stopping shadow's end: the end of its stop picture's last emission slot (R64). -/
def execShadowStopSlotEnd (ch : Fin 64) (s : State) : Out :=
  let c := chan s ch.val
  match c.cfg with
  | none => .next s
  | some f =>
    let ended : Bool := match c.stopPic with
      | some p => decide (slotEnd f (ns p) ≤ s.tim.now)
      | none => true
    if c.state = .stopping ∧ f.role = .shadow ∧ ended = true then
      .next (finishStop ch.val (dropPackets (ofChan ch.val) s))
    else .next s

/-- An edge at a GPIO input (R136). A rising one is stamped, a key picture requested on the channels that name it (R259),
and an instant given to the audio ports that wait for it (R439); a falling one lowers the ball. -/
def execGpioEdge (n : Fin 32) (e : GpioEdge) (s : State) : Out :=
  if s.gpio.dir.getLsbD n.val then .next s
  else if e.rising = false then
    .next { s with gpio := { s.gpio with inp := s.gpio.inp &&& ~~~BitVec.ofNat 32 (2 ^ n.val) } }
  else
    let s1 := { s with gpio := { s.gpio with
      inp := s.gpio.inp ||| BitVec.ofNat 32 (2 ^ n.val), edges := tabSet s.gpio.edges n.val e.stamp } }
    let ask (s : State) (h : Nat) : State :=
      let c := chan s h
      match c.cfg with
      | some f =>
        if active c.state && decide (f.keyGpi = n.val ∧ (f.role = .encode ∨ f.role = .transcode)) then
          modChan h (fun c => { c with keyReqs := c.keyReqs ++ [(e.stamp, 3)] }) s
        else s
      | none => s
    .next (gpioStarts n.val e.stamp (handles.foldl ask s1))

/-! ### Coding order, key pictures and refresh (R257 to R261, R284) -/

/-- The display places between two coded pictures in coding order: the middle one first (assumption log 19). -/
def betweens : Nat → Nat → Nat → List Nat
  | 0, _, _ => []
  | fuel + 1, lo, hi =>
    if hi ≤ lo + 1 then []
    else
      let m := (lo + hi) / 2
      m :: (betweens fuel lo m ++ betweens fuel m hi)

/-- Display places 1 to `n` of a mini-GOP in coding order: its last picture first (PRESUMED, assumption log 19).
-/
def codingOrder (n : Nat) : List Nat := n :: betweens 4 0 n

/-- Why a picture at a display distance from the last key picture must be a key picture at once: a request, or
the effective picture of a modification of KEY_PERIOD that it reaches. -/
def forcedKey (c : Chan) (f : ChanCfg) (dist : Nat) (q : Picture) : Option Nat :=
  let p := settingAt c 0x13 f.keyPeriod q.capture
  if q.key then some q.keyCause
  else if effectiveAt c f 0x13 q.capture ∧ 0 < p ∧ p ≤ dist then some 6
  else none

/-- Pictures up to the next that must be a key picture, at most `n`, and whether that is what ended them. -/
def untilForced (c : Chan) (f : ChanCfg) : Nat → Nat → List Picture → List Picture × Bool
  | 0, _, _ => ([], true)
  | _ + 1, _, [] => ([], false)
  | n + 1, dist, q :: qs =>
    if (forcedKey c f dist q).isSome then ([], true)
    else
      let r := untilForced c f n (dist + 1) qs
      (q :: r.1, r.2)

/-- The next mini-GOP of a channel in display order with the key cause of its last picture, if it can be
ordered: `closed` says that no further picture comes, `first` that no picture has been ordered. -/
def nextGroup (c : Chan) (f : ChanCfg) (closed first : Bool) : List Picture → Option (List Picture × Option Nat)
  | [] => none
  | q :: qs =>
    let wait := f.latency = .lookahead && !closed && decide ((q :: qs).length ≤ f.lookahead)
    if wait then none
    else if first then some ([q], some 0)
    else match forcedKey c f (c.sinceKey + 1) q with
      | some k => some ([q], some k)
      | none =>
        let r := untilForced c f (miniGop f) (c.sinceKey + 1) (q :: qs)
        let n := r.1.length
        if r.2 = false ∧ n < miniGop f ∧ closed = false then none
        else
          let p := match r.1.getLast? with
            | some l => settingAt c 0x13 f.keyPeriod l.capture
            | none => 0
          some (r.1, if 0 < p ∧ p ≤ c.sinceKey + n ∧ n = miniGop f then some 1 else none)

/-- CTU columns that a picture of a refresh cycle refreshes, and the cycle's length (R261; DESIGN CHOICE,
assumption log 31). -/
def refreshStep (c : Chan) (f : ChanCfg) (capture : Nat) : Nat × Nat :=
  let w := ceilDiv (ctusPerRow f) (settingAt c 0x1B f.refreshPeriod capture)
  (w, ceilDiv (ctusPerRow f) w)

/-- A picture of a ripple channel: the first is an IDR picture, or in VVC begins a cycle; a request, a
modification or the end of a cycle begins one. JPEG XS has no refresh (DESIGN CHOICE, assumption log 31). -/
def ripplePic (c : Chan) (f : ChanCfg) (first : Bool) (cause : Option Nat) (q : Picture) : Picture :=
  let (w, len) := refreshStep c f q.capture
  let modified := effectiveAt c f 0x1B q.capture
  let key := first
  let start := f.codec ≠ .jpegxs &&
    (if first then decide (f.codec = .vvc) else cause.isSome || modified || decide (c.refreshLeft = 0))
  let left := if start then len - 1 else c.refreshLeft - 1
  let col := if start then w else c.refreshCol + w
  { q with key := key, refreshStart := start,
           keyCause := if first then 0 else if cause.isSome then cause.getD 5 else if modified then 6 else 5,
           refLeft := if f.codec = .jpegxs ∨ (first ∧ !start) then 0 else left,
           refCol := if left = 0 ∨ f.codec = .jpegxs ∨ (first ∧ !start) then 0 else col }

/-- The type of a picture (R257, R261): KEY_TYPE for a key picture, IDR in AVC and in ripple mode, and in VVC the first
picture of a refresh cycle a GDR picture. -/
def picKind (f : ChanCfg) (q : Picture) : Nat :=
  if f.codec = .jpegxs then 0
  else if q.refreshStart ∧ f.codec = .vvc then 3
  else if !q.key then 0
  else if f.latency = .ripple ∨ f.codec = .avc ∨ f.keyType = 0 then 1 else 2

/-- Puts one picture into coding order: its number, type and the records that go with it. -/
def orderOne (h : Nat) (f : ChanCfg) (first : Bool) (cause : Option Nat) (slot pos len : Nat) (q : Picture)
    (s : State) : State :=
  let c := chan s h
  let q1 := if f.latency = .ripple then ripplePic c f first cause q
    else { q with key := cause.isSome, keyCause := cause.getD 0 }
  let start := q1.key || q1.refreshStart
  let n := c.codingNo
  let q2 := { q1 with
    ordered := true, codingNo := n, slot := slot, kind := picKind f q1, gopPos := pos, gopLen := len,
    sinceBp := if start then 0 else c.sinceBp + 1, lastKey := if q1.key then n else c.lastKey,
    lastHash := if start then n else c.lastHashReset }
  modChan h (fun c => { c with
    codingNo := n + 1, sinceBp := q2.sinceBp, lastKey := q2.lastKey, lastHashReset := q2.lastHash,
    refreshCol := q2.refCol, refreshLeft := q2.refLeft })
    (modPic h q.capture (fun _ => q2) s)

/-- Orders one mini-GOP: its pictures in coding order, the i-th taking the slot of its i-th capture time. -/
def orderGroup (h : Nat) (f : ChanCfg) (first : Bool) (g : List Picture) (cause : Option Nat) (s : State) : State :=
  let n := g.length
  let order := codingOrder n
  let s1 := (List.range n).foldl (fun s i =>
    let p := order.getD i 1
    match g[p - 1]? with
    | some q => orderOne h f first (if p = n then cause else none)
        ((g[i]?).elim q.capture Picture.capture) p n q s
    | none => s) s
  modChan h (fun c => { c with sinceKey := if cause.isSome then 0 else c.sinceKey + n }) s1

/-- Orders every mini-GOP that can be ordered; `fuel` bounds their number. -/
def orderPics (h : Nat) (f : ChanCfg) : Nat → State → State
  | 0, s => s
  | fuel + 1, s =>
    let c := chan s h
    let first := decide (c.codingNo = 0)
    match nextGroup c f (noMore s h f) first (c.pics.filter fun q => !q.ordered) with
    | some (g, cause) => orderPics h f fuel (orderGroup h f first g cause s)
    | none => s

/-! ### Frames that pipelines issue (R33, R244, R245) -/

/-- The mark of a run's frame among those issued for a picture. -/
def issueKey (r : BandRun) : Nat := (r.work * 4 + r.band) * 64 + r.firstSlice

/-- Whether a picture's access unit is complete in the input's ring. -/
def auReady (s : State) (f : ChanCfg) (capture : Nat) : Bool :=
  match inputOf s f.input with
  | some x => x.ring.any fun p => decide (p.capture = capture) && p.completedAt.isSome
  | none => false

/-- Whether a channel codes on this module: an encode or transcode, or a shadow that re-encodes. -/
def codesHere (s : State) (h : Nat) (f : ChanCfg) : Bool :=
  decide (f.role = .encode ∨ f.role = .transcode) ||
    match group? s h with
    | some g => decide (f.role = .shadow) && g.reencoding
    | none => false

/-- The picture of a run's next frame, if one is ready: encode frames in coding order, a transcode's once the
picture is decoded; decode frames in order of capture, once the access unit is complete. -/
def nextFrame (s : State) (h : Nat) (f : ChanCfg) (r : BandRun) : Option Picture :=
  let c := chan s h
  if r.work = 0 then
    if !codesHere s h f then none
    else
      match firstCoded (c.pics.filter fun q =>
          q.ordered && !q.issued.contains (issueKey r) && decide (q.slicesDone < f.slices)) with
      | some q =>
        if (f.role = .transcode ∧ q.decoded < decodeSlices s f) ∨ maySearch c f q.codingNo = false then none else some q
      | none => none
  else if f.role = .gateway ∨ f.role = .transcode then
    match c.pics.find? fun q => !q.issued.contains (issueKey r) && decide (q.decoded < decodeSlices s f) with
    | some q => if auReady s f q.capture then some q else none
    | none => none
  else none

def pipeOf (s : State) (p : Nat) : Pipe := tabGet Pipe.reset s.pipes p

def setPipe (p : Nat) (x : Pipe) (s : State) : State := { s with pipes := tabSet s.pipes p x }

/-- The key of a run's credit on its pipeline. -/
def creditKey (h : Nat) (r : BandRun) : Nat := h * 2 + r.work

/-- Whether a pipeline's credit covers a run's frame (R33). -/
def creditCovers (s : State) (h : Nat) (r : BandRun) : Bool :=
  decide (r.frameCost * 256 ≤ tabGet 0 (pipeOf s r.pipe).credits (creditKey h r))

/-- The frames that are ready on a pipeline: launch time of the first slice, handle, run and picture. -/
def readyFrames (s : State) (p : Nat) : List (Nat × Nat × BandRun × Picture) :=
  (handles.map fun h =>
    let c := chan s h
    match c.cfg with
    | none => []
    | some f =>
      if !active c.state then []
      else (c.runs.filter fun r => decide (r.pipe = p)).filterMap fun r =>
        (nextFrame s h f r).map fun q =>
          (launchTime f q.slot (if r.work = 0 then unitOfSlice f r.firstSlice else 0) 0 1, h, r, q)).flatten

/-- The frames that a pipeline could issue now: ready, and covered by the credit. -/
def candidates (s : State) (p : Nat) : List (Nat × Nat × BandRun × Picture) :=
  (readyFrames s p).filter fun x => creditCovers s x.2.1 x.2.2.1

/-- The earliest of some frames, then the lower handle. -/
def earliest : List (Nat × Nat × BandRun × Picture) → Option (Nat × Nat × BandRun × Picture)
  | [] => none
  | x :: xs => match earliest xs with
    | none => some x
    | some y => if y.1 < x.1 then some y else some x

/-- EV_KEY_PICTURE when the first frame of a key picture or refresh start is issued (R263). -/
def evKey (h : Nat) (q : Picture) (s : State) : State :=
  raiseIf (q.key || q.refreshStart) evKeyPicture h (u64 (capNs q.capture) ++ u8 q.keyCause) s

/-- Orders the pictures of every channel that a pipeline carries. -/
def orderAll (p : Nat) (s : State) : State :=
  handles.foldl (fun s h =>
    let c := chan s h
    match c.cfg with
    | some f => if c.runs.any (fun r => decide (r.pipe = p ∧ r.work = 0)) && codesHere s h f then
        orderPics h f c.pics.length s else s
    | none => s) s

/-- Notes the channels whose ready frames wait for credit: their coding activity is throttled in the period, and the wait
begins (R32, R39). -/
def noteCredit (p : Nat) (s : State) : State :=
  ((readyFrames s p).filter fun x => !creditCovers s x.2.1 x.2.2.1).foldl (fun s x =>
    let k := creditKey x.2.1 x.2.2.1
    let y := pipeOf s p
    noteThrottle (actCoding x.2.1) (setPipe p { y with
      held := tabSet y.held k (tabGet s.tim.now y.held k) } s)) s

/-- Bytes of a channel's context in DRAM, by codec (R245). -/
def contextBytes : Codec → Nat
  | .hevc => 40960
  | .vvc => 98304
  | .avc => 24576
  | .jpegxs => 8192

/-- Bytes of the context of a channel's work, by its key. -/
def contextOf (s : State) (k : Nat) : Nat :=
  match (chan s (k / 2)).cfg with
  | none => 0
  | some f => contextBytes (if k % 2 = 1 ∧ f.role = .transcode then f.inCodec else f.codec)

/-- A pipeline turns to the context of a channel's work: while the frame before runs, the idle set takes the context from
DRAM, and the context that goes out is saved the same way. The traffic is charged to the channels' coding activities,
and takes no issue cycles (R245). -/
def switchContext (p k : Nat) (s : State) : State :=
  let x := pipeOf s p
  if x.context = some k then s
  else
    let s1 := setPipe p { x with context := some k, idle := x.context } s
    let s2 := match x.context with
      | some o => traffic (actCoding (o / 2)) (contextOf s o) s1
      | none => s1
    traffic (actCoding (k / 2)) (contextOf s k) s2

/-- A frame begins on a pipeline. -/
def startFrame (p h : Nat) (r : BandRun) (q : Picture) (s : State) : State :=
  let x := pipeOf s p
  let k := creditKey h r
  let wait := s.tim.now - tabGet s.tim.now x.held k
  let s1 := setPipe p { x with
    credits := tabSet x.credits k (tabGet 0 x.credits k - r.frameCost * 256), held := tabErase x.held k
    frame := some (h, r.work, r.band, q.capture)
    slicesLeft := (List.range r.nSlices).map (r.firstSlice + ·), parity := [], poison := [] } s
  let s2 := noteHold (actCoding h) (wait / 65536) (addCycles (actCoding h) r.frameCost
    (modPic h q.capture (fun q => { q with issued := q.issued ++ [issueKey r] }) (switchContext p k s1)))
  if r.work = 0 ∧ q.issued.all (fun i => decide (256 ≤ i)) = true then evKey h q s2 else s2

/-- A pipeline that is free issues the earliest frame whose credit covers it. -/
def issueFrame (p : Nat) (s0 : State) : State :=
  if (pipeOf s0 p).frame.isSome ∨ regionOn s0 p = false then s0
  else
    let s := orderAll p s0
    match earliest (candidates s p) with
    | none => noteCredit p s
    | some (_, h, r, q) => startFrame p h r q (noteCredit p s)

/-- R12, R244. -/
def execPipelineFrameIssue (cp : Fin 8) (s : State) : Out := .next (issueFrame cp.val s)

/-! ### Rate control (R291 to R306) -/

/-- Buckets in units of 1/N_p bit (R292). -/
def cbr (f : ChanCfg) : Bool := !f.rcVbr

/-- The rates of buckets t and a for a picture (R299). -/
def rateT (c : Chan) (f : ChanCfg) (capture : Nat) : Nat :=
  if f.rcVbr then settingAt c 0x11 f.maxBitrate capture else settingAt c 0x10 f.bitrate capture

def rateA (c : Chan) (f : ChanCfg) (capture : Nat) : Nat :=
  if f.rcVbr then settingAt c 0x10 f.bitrate capture else 0

/-- A picture's bounds in bits, lo rounded up and hi down to whole bytes (R292); a JPEG XS picture's are its
size (R300). -/
def picBounds (c : Chan) (f : ChanCfg) (capture : Nat) : Nat × Nat :=
  let np := picNum f
  let b := f.cpbBits * np
  if f.codec = .jpegxs then
    let z := 8 * jxsPicBytes f (rateT c f capture)
    (z, z)
  else
    let h1 := if f.rcVbr then min c.bufT.fill c.bufA.fill else c.bufT.fill
    let hi := min h1 (unitsOf f * unitCap f * np) / np / 8 * 8
    let lo0 := if cbr f then c.bufT.fill + rateT c f capture * f.rateDen - b else 0
    let lo := ceilDiv (ceilDiv lo0 np) 8 * 8
    (min lo hi, hi)

/-- A picture's bounds are taken as its first slice is counted. -/
def takeBounds (c : Chan) (f : ChanCfg) (q : Picture) : Picture :=
  if q.begun then q
  else
    let b := picBounds c f q.capture
    { q with begun := true, lo := b.1, hi := b.2,
             startT := { fill := c.bufT.fill, rate := rateT c f q.capture },
             startA := { fill := c.bufA.fill, rate := rateA c f q.capture } }

/-- A bucket after a picture of `z` units (R292). -/
def fillAfter (f : ChanCfg) (b : Bucket) (z : Nat) : Nat :=
  min (f.cpbBits * picNum f) (b.fill + b.rate * f.rateDen - z)

/-- The buckets after a picture of so many bits. -/
def bucketsAfter (f : ChanCfg) (q : Picture) (bits : Nat) (c : Chan) : Chan :=
  let z := bits * picNum f
  { c with bufT := { q.startT with fill := fillAfter f q.startT z },
           bufA := if f.rcVbr then { q.startA with fill := fillAfter f q.startA z } else c.bufA }

/-- Skip-fill bits of a CTU as an integer (R302). -/
def skipI (f : ChanCfg) : Int := (skipBits f.codec : Int)

/-- The unit allowance and the picture allowance before a CTU (R303): CTUs of the unit and of the picture not
yet coded, this one included, rows of the slice in ripple mode, and overheads of later units. -/
def allowances (f : ChanCfg) (q : Picture) (leftU leftP rip ov : Nat) : Int × Int :=
  ((unitCap f : Int) - q.unitBits - skipI f * leftU - 32 * rip,
   (q.hi : Int) - q.picBits - skipI f * leftP - ov)

/-- One CTU: normal coding, stage 1 at the profile maximum QP, or stage 2 in skip-fill form (R304 to R306). -/
def codeCtu (f : ChanCfg) (leftU leftP rip ov : Nat) (x : Nat × Nat × Nat) (q : Picture) : Picture :=
  let a := allowances f q leftU leftP rip ov
  let small := min a.1 a.2
  let st1 := if q.stage = 0 ∧ small < (q.prevBits : Int) then 1 else q.stage
  let coded := if st1 = 0 then x.1 else x.2.1
  let st2 := if st1 = 2 ∨ small - coded + skipI f < 0 then 2 else st1
  let bits := if st2 = 2 then x.2.2 else coded
  { q with
    stage := st2
    stageScope := if q.stage = 0 ∧ 0 < st2 then (if a.1 < a.2 then 1 else 2) else q.stageScope
    floor := q.floor || decide (0 < st2)
    unitBits := q.unitBits + bits, picBits := q.picBits + bits, prevBits := bits }

/-- The CTUs of a row, or of a run of them (DEDUCED, assumption log 35). -/
def codeRow (f : ChanCfg) (rip ov : Nat) : Nat → Nat → List (Nat × Nat × Nat) → Picture → Picture
  | _, _, [], q => q
  | lu, lp, x :: xs, q => codeRow f rip ov (lu - 1) (lp - 1) xs (codeCtu f lu lp rip ov x q)

/-- The end of emission unit `u`: whole bytes, filler up to the cumulative minimum of R295, and the end of a
stage that belongs to the unit. In ripple mode bits of an unfinished byte go on to the next row of the slice. -/
def endUnit (f : ChanCfg) (u : Nat) (carry : Bool) (q : Picture) : Picture :=
  let n := unitsOf f
  let bytes := if carry then q.unitBits / 8 else ceilDiv q.unitBits 8
  let rest := if carry then q.unitBits % 8 else 0
  let total := q.picBits + (bytes * 8 + rest - q.unitBits)
  let need := if cbr f then ceilDiv (q.lo * (u + 1)) n else 0
  let fill := ceilDiv (need - total) 8
  let ends := q.stageScope = 1
  { q with
    units := q.units ++ [(bytes + fill, fill)], unitBits := rest, picBits := total + fill * 8
    stage := if ends then 0 else q.stage, stageScope := if ends then 0 else q.stageScope }

/-- Overheads of the units after unit `u`. -/
def laterOverheads (f : ChanCfg) (u : Nat) : Nat :=
  ((List.range (unitsOf f - (u + 1))).map fun i => overhead (unitsOf f) (u + 1 + i)).sum

/-- Bits of an access unit that are no CTU's. -/
def addBits (n : Nat) (q : Picture) : Picture := { q with unitBits := q.unitBits + n, picBits := q.picBits + n }

/-- The NAL units before the first slice, and the picture hash after the last (R264). The level of JPEG XS stands in its
picture header, whose bits the first slice brings. -/
def prefixSei (q : Picture) : List (Nat × List Nat) := q.sei.filter fun m => decide (m.1 ≠ 4 ∧ m.1 ≠ 9)
def suffixSei (q : Picture) : List (Nat × List Nat) := q.sei.filter fun m => decide (m.1 = 4)

/-- Bytes of the NAL units of parameter sets and SEI messages: the messages stand in one NAL unit (R414). -/
def seiSizes (f : ChanCfg) (ms : List (Nat × List Nat)) : List Nat :=
  let size (m : Nat × List Nat) : Nat := Config.seiBytes (codecCode f.codec) m.1 m.2
  let msgs := ms.filter fun m => m.1 ≠ 6
  (ms.filter fun m => m.1 = 6).map size ++ (if msgs = [] then [] else [(msgs.map size).sum])

/-- The rows of a slice: `a` its first CTU row, `r` its rows, `j` the rows coded. The suffix SEI follows the last row of
the picture (R264). -/
def codeRows (f : ChanCfg) (a r : Nat) : List (List (Nat × Nat × Nat)) → Nat → Picture → Picture
  | [], _, q => q
  | row :: rows, j, q =>
    let w := ctusPerRow f
    let ripple := decide (f.latency = .ripple)
    let done := (a + j) * w
    let leftP := rowsOf f * w - done
    let u := if ripple then a + j else if f.latency = .slice then q.slicesDone else 0
    let leftU := if ripple then w else if f.latency = .slice then (r - j) * w else leftP
    let after := if a + j + 1 = rowsOf f then 8 * (seiSizes f (suffixSei q)).sum else 0
    let q1 := addBits after (codeRow f (if ripple then r - j else 0) (laterOverheads f u) leftU leftP row q)
    let q2 := if ripple then endUnit f u (decide (j + 1 < r)) q1 else q1
    codeRows f a r rows (j + 1) q2

/-- Cuts a list into `n` rows of `w` (DEDUCED, assumption log 35). -/
def cutRows {α : Type} (w : Nat) : Nat → List α → List (List α)
  | 0, _ => []
  | n + 1, xs => xs.take w :: cutRows w n (xs.drop w)

/-- Counts the next slice of a picture with rate control. The prefix SEI precedes the first (R264, R283). -/
def codeSlice (f : ChanCfg) (res : SliceRes) (q : Picture) : Picture :=
  let i := q.slicesDone
  let (a, r) := (starts 0 (cfgSlices f)).getD i (0, 0)
  let w := ctusPerRow f
  let ctus := (res.ctus ++ List.replicate (r * w) (0, 0, 0)).take (r * w)
  let q0 := addBits (res.headBits + if i = 0 then 8 * (seiSizes f (prefixSei q)).sum else 0) q
  let q1 := codeRows f a r (cutRows w r ctus) 0 q0
  let pad := roundUp q1.picBits 8 - q1.picBits
  let q2 := { q1 with picBits := q1.picBits + pad,
                      unitBits := q1.unitBits + if f.latency = .ripple then 0 else pad }
  let last := decide (i + 1 = f.slices)
  let q3 := if f.latency = .slice then endUnit f i false q2
    else if f.latency ≠ .ripple ∧ last = true then endUnit f 0 false q2 else q2
  { q3 with slicesDone := i + 1, sliceBytes := q3.sliceBytes ++ [ceilDiv (q3.picBits - q.picBits) 8],
            plans := q3.plans ++ [(q3.prevBits * 16 + q3.stage * 4 + q3.stageScope, q3.floor)],
            unitBits := if last then 0 else q3.unitBits }

/-- Counts the next slice of a JPEG XS picture: equal shares, no floor (R300). -/
def codeJxs (f : ChanCfg) (rate : Nat) (q : Picture) : Picture :=
  let i := q.slicesDone
  let (a, r) := (starts 0 (cfgSlices f)).getD i (0, 0)
  let z := jxsUnitBytes f rate a r
  let units := match f.latency with
    | .ripple => (List.range r).map fun j => (jxsUnitBytes f rate (a + j) 1, 0)
    | .slice => [(z, 0)]
    | _ => if i + 1 = f.slices then [(jxsPicBytes f rate, 0)] else []
  { q with slicesDone := i + 1, sliceBytes := q.sliceBytes ++ [z], plans := q.plans ++ [(0, false)], units := q.units ++ units,
           picBits := q.picBits + 8 * z }

/-! ### SEI messages (R264 to R266) -/

/-- The values that ancillary packets carry for an SEI bit. -/
def ancValues (b : Nat) (as : List AncPkt) : List Nat := (as.filter fun a => ancBit a = some b).map AncPkt.payload

/-- The cc_data triplets of a picture's captions. -/
def ccTriplets (as : List AncPkt) : Nat := ((as.filter fun a => ancBit a = some 0).map AncPkt.triplets).sum

/-- Triplets that one picture carries. -/
def ccMost : Nat := 31

/-- The HDR values of a picture: the captured ones, else HDR_STATIC. -/
def hdrValues (f : ChanCfg) (as : List AncPkt) : Option (List Nat) :=
  if ancValues 2 as ≠ [] then some (ancValues 2 as) else f.hdrStatic.map fun v => [v]

/-- Whether a picture writes its HDR values: with every key picture, every refresh start, and when they differ from
those last written. -/
def writesHdr (c : Chan) (f : ChanCfg) (q : Picture) (as : List AncPkt) : Bool :=
  bitAt f.sei 2 && (hdrValues f as).isSome &&
    (q.key || q.refreshStart || decide (hdrValues f as ≠ c.lastHdr))

/-- The parameter sets of a picture: with every key picture and refresh start, or with every picture (R246). -/
def paramSetsOf (f : ChanCfg) (q : Picture) : List (Nat × List Nat) :=
  if q.key ∨ q.refreshStart ∨ f.paramSets = 1 then
    [(6, [f.profile, f.level, f.tier, f.width, picHeight f, f.chroma, f.bitDepth, f.maxBitrate, f.cpbBits, 0])] else []

/-- The buffering period of every key picture and refresh start: its initial CPB removal delay is CPB_BITS / M0, rounded up
to a tick of 90 kHz (R291). -/
def bufferingOf (f : ChanCfg) (q : Picture) : List (Nat × List Nat) :=
  if q.key ∨ q.refreshStart then [(7, [ceilDiv (f.cpbBits * 90000) f.maxBitrate])] else []

/-- The picture timing of every picture: the pictures since the buffering period, and in AVC the captured timecode as its
clock timestamp (R264, R291). -/
def picTiming (f : ChanCfg) (q : Picture) (as : List AncPkt) : List (Nat × List Nat) :=
  [(8, q.sinceBp :: if f.codec = .avc ∧ bitAt f.sei 1 = true then ancValues 1 as else [])]

/-- The recovery point of a picture that begins a refresh cycle in AVC or HEVC: its recovery count is the cycle length
minus 1 (R261). -/
def recoveryOf (c : Chan) (f : ChanCfg) (q : Picture) : List (Nat × List Nat) :=
  if q.refreshStart ∧ (f.codec = .avc ∨ f.codec = .hevc) then [(5, [(refreshStep c f q.capture).2 - 1])] else []

/-- The lowest JPEG XS level and sublevel that the configuration fits, which every picture signals (R230). -/
def jxsLevelOf (f : ChanCfg) : Nat × List Nat :=
  (9, Config.jxsLevel [f.width, picHeight f, picNum f, f.rateDen, f.maxBitrate])

/-- The parameter sets and SEI messages of a picture's access unit; JPEG XS carries none, but its level. -/
def seiOf (c : Chan) (f : ChanCfg) (h : Nat) (q : Picture) (as : List AncPkt) : List (Nat × List Nat) :=
  let plain (b : Nat) (head : List Nat) : List (Nat × List Nat) :=
    if bitAt f.sei b ∧ ancValues b as ≠ [] then [(b, head ++ ancValues b as)] else []
  if f.codec = .jpegxs then [jxsLevelOf f]
  else
    paramSetsOf f q ++ bufferingOf f q ++ picTiming f q as ++ recoveryOf c f q ++
      plain 0 [min ccMost (ccTriplets as)] ++ (if f.codec = .avc then [] else plain 1 []) ++
      (if writesHdr c f q as then [(2, (hdrValues f as).getD [])] else []) ++ plain 3 [] ++
      (if f.picHash ≠ 0 then [(4, [f.picHash, Config.decodedPicture 0 h q.capture])] else [])

/-- The SEI messages of a picture whose first slice is to be counted: the HDR values written last are noted, and caption
data beyond 31 triplets counts with the input's ancillary discards (DEDUCED, assumption log 80). -/
def formSei (h : Nat) (f : ChanCfg) (q : Picture) (s : State) : State :=
  let c := chan s h
  let as := pictureAnc s f q
  let s1 := modPic h q.capture (fun q => { q with sei := seiOf c f h q as }) s
  let s2 := if writesHdr c f q as ∧ f.codec ≠ .jpegxs then modChan h (fun c => { c with lastHdr := hdrValues f as }) s1
    else s1
  if bitAt f.sei 0 = true ∧ f.codec ≠ .jpegxs then
    modInput f.input (fun x => { x with ancDiscards := x.ancDiscards + (ccTriplets as - ccMost) }) s2
  else s2

/-- The picture that is counted next: the earliest in coding order that is not complete. -/
def countNext (c : Chan) (f : ChanCfg) : Option Picture :=
  firstCoded (c.pics.filter fun q => q.ordered && decide (q.slicesDone < f.slices))

/-- EV_RC_FLOOR, once for each picture in which a stage began (R306). -/
def evFloor (h : Nat) (old new : Picture) (s : State) : State :=
  if new.floor ∧ !old.floor then
    raise evRcFloor h (u64 (capNs new.capture))
      (modChan h (fun c => { c with rcFloors := c.rcFloors + 1 }) s)
  else s

/-- A picture is coded: the buckets move on, its reconstruction enters the reference space, and its search is complete
(R253, R255, R292). -/
def pictureCoded (h : Nat) (f : ChanCfg) (q : Picture) (s : State) : State :=
  searchDone h f q (writeRef h f 0 q.capture q.codingNo { content := Config.decodedPicture 0 h q.capture, grey := false }
    (modChan h (bucketsAfter f q q.picBits) s))

/-- Counts the next slice, if its result is there: rate control takes the slices of a channel in order, whatever
the order in which pipelines finish them (R275; DEDUCED, assumption log 28). Its coded bytes go to the bitstream
buffer in DRAM and are charged to the coding activity (R9). -/
def countSlice (h : Nat) (f : ChanCfg) (s : State) : Option State :=
  let c := chan s h
  match countNext c f with
  | none => none
  | some q0 =>
    match q0.results.find? fun r => decide (r.slice = q0.slicesDone) with
    | none => none
    | some res =>
      let s := if q0.slicesDone = 0 then formSei h f q0 s else s
      let q := (picOf (chan s h) q0.capture).getD q0
      let q1 := takeBounds c f { q with results := q.results.filter fun r => r.slice ≠ q.slicesDone }
      let q2 := if f.codec = .jpegxs then codeJxs f (rateT c f q.capture) q1 else codeSlice f res q1
      let s1 := traffic (actCoding h) (q2.picBits / 8 - q1.picBits / 8)
        (evFloor h q1 q2 (modPic h q.capture (fun _ => q2) s))
      some (if q2.slicesDone = f.slices then pictureCoded h f q2 s1 else s1)

/-- Counts every slice that can be counted (DEDUCED, assumption log 28). -/
def countSlices (h : Nat) (f : ChanCfg) : Nat → State → State
  | 0, s => s
  | fuel + 1, s => match countSlice h f s with
    | some t => countSlices h f fuel t
    | none => s

/-! ### Decoded slices (R267 to R272) -/

/-- What one decoded slice adds to its picture's integrity. -/
def decodeOne (res : SliceRes) (q : Picture) : Picture :=
  { q with
    decoded := q.decoded + 1, anc := q.anc ++ res.anc
    flag := if res.concealed ∨ q.flag = 1 then 1 else if res.derived ∨ q.flag = 2 then 2 else 0
    decClean := q.decClean || res.cleanPoint
    decFmt := if q.decFmt = 0 then res.formatDiff else q.decFmt }

/-- Whether the stream of a picture is not decoded, so that it is output as mid-grey: it differs from the configuration
(R270), or no parameter sets have come yet (R267), until a key picture decodes. -/
def notDecoded (c : Chan) (q : Picture) : Bool := decide (q.decFmt ≠ 0 ∨ (c.decFmt ≠ 0 ∧ !q.decClean))

/-- The flag of a complete decoded picture: flags go on until a clean point decodes clean (R269, R270; DEDUCED,
assumption log 32). -/
def flagOf (c : Chan) (q : Picture) : Nat :=
  if notDecoded c q then 1
  else if q.flag = 1 then 1
  else if q.flag = 2 then 2
  else if c.flag ≠ 0 ∧ !q.decClean then 2
  else 0

/-- A decoded picture is complete: its flag, its reconstruction, the counts of the second, the events, and, in a gateway
decode, its one unit; `absent` says that its access unit is (DEDUCED, assumption log 32). -/
def decodeDone (h : Nat) (f : ChanCfg) (absent : Bool) (q : Picture) (s : State) : State :=
  let c := chan s h
  let g := flagOf c q
  let x := decodedRecon s h f q.capture (notDecoded c q) absent
  let fmt := if q.decFmt ≠ 0 then q.decFmt else if q.decClean then 0 else c.decFmt
  let bytes := rawBytes f
  let s1 := writeRef h f 1 q.capture q.codingNo x (modPic h q.capture (fun q =>
    { q with flag := g, recon := some x, units := if f.role = .gateway then [(bytes, 0)] else q.units }) s)
  let s2 := modChan h (fun c => { c with
    flag := g, decFmt := fmt, lastRecon := some x
    concealSec := c.concealSec + if g = 1 then 1 else 0, deriveSec := c.deriveSec + if g = 2 then 1 else 0
    firstFlag := if g ≠ 0 ∧ c.concealSec + c.deriveSec = 0 then capNs q.capture else c.firstFlag }) s1
  let s2 := if f.latency = .lookahead ∧ f.role = .transcode then
    traffic (actCoding h) (2 * decodedBytes f (chanFormat s f)) s2 else s2
  let s3 := raiseIf (decide (q.decFmt ≠ 0 ∧ q.decFmt ≤ 5 ∧ (c.decFmt = 0 ∨ c.decFmt = 6))) evDecodeFormat h
    (u8 q.decFmt ++ List.replicate 7 0 ++ u64 (capNs q.capture)) s2
  raiseIf (decide (c.flag ≠ 0 ∧ g = 0)) evDecodeClean h (u64 (capNs q.capture)) s3

/-- A decoded slice of a picture. -/
def decodeSlice (h : Nat) (f : ChanCfg) (res : SliceRes) (s : State) : State :=
  let s1 := modPic h res.capture (decodeOne res) s
  match picOf (chan s1 h) res.capture with
  | some q => if q.decoded = decodeSlices s f then decodeDone h f false q s1 else s1
  | none => s1

/-- The deadline of an access unit (R290). -/
def auDeadline (s : State) (f : ChanCfg) (capture : Nat) : Nat :=
  let i := inputOf s f.input
  capture + ns f.delayNs + ns (windowNs i) - ns (minDelay f i)

/-- An access unit not complete at its deadline: absent, its packets late, and the picture concealed by a copy of
the one before (R267, R290). -/
def execDecodeAuDeadline (ch : Fin 64) (capture : Nat) (s : State) : Out :=
  let h := ch.val
  let c := chan s h
  match c.cfg with
  | none => .next s
  | some f =>
    match picOf c capture with
    | none => .next s
    | some q =>
      if (f.role = .gateway ∨ f.role = .transcode) ∧ auDeadline s f capture ≤ s.tim.now ∧
          q.decoded < decodeSlices s f ∧ q.issued.all (fun i => decide (i < 256)) = true ∧
          auReady s f capture = false then
        let drop (x : Input) : Input :=
          let mine := x.asm.filter fun a => decide (a.picture = capture)
          { x with late := x.late + (mine.map fun a => a.data.length).sum
                   asm := x.asm.filter fun a => decide (a.picture ≠ capture) }
        let s1 := modInput f.input drop s
        .next (decodeDone h f true { q with flag := 1 }
          (modPic h capture (fun q => { q with decoded := decodeSlices s f, flag := 1 }) s1))
      else .next s

/-! ### SLICE_CODED (R259, R282, R473, R501) -/

/-- The mark of a scene change: the first picture not yet put into coding order begins the new scene (DESIGN
CHOICE, assumption log 31). -/
def markScene (h : Nat) (f : ChanCfg) (s : State) : State :=
  if f.latency = .lookahead ∧ f.sceneKey then
    match (chan s h).pics.find? fun q => !q.ordered with
    | some q => if q.key then s else modPic h q.capture (fun q => { q with key := true, keyCause := 4 }) s
    | none => s
  else s

/-- An encoded slice of a picture; a slice coded again after a retirement counts once (DEDUCED, assumption log
28). -/
def encodeSlice (h : Nat) (f : ChanCfg) (res : SliceRes) (s : State) : State :=
  let add (q : Picture) : Picture :=
    if res.slice < q.slicesDone ∨ q.results.any (fun r => decide (r.slice = res.slice)) then q
    else { q with results := q.results ++ [res] }
  let s1 := modPic h res.capture add s
  let n := ((chan s1 h).pics.map fun q => q.results.length).sum
  let s2 := countSlices h f n s1
  if res.sceneChange then markScene h f s2 else s2

/-- The band tokens of a slice: one for each CTU row of the band that it covers (R317, R318; DEDUCED, assumption log
76). -/
def sliceTokens (f : ChanCfg) (h band slice : Nat) : List (Nat × Nat × Nat) :=
  match worksOf f none with
  | [] => []
  | w :: ws =>
    let (w, set) := (ws.getLast?).getD w
    let g := (groupOf w set).getD 1
    let band0 := ((starts 0 (bandRows w g)).getD band (0, 0)).1
    let (a, n) := (starts 0 (sliceRows w g).flatten).getD slice (0, 0)
    (List.range n).map fun i => (h, band, a + i - band0)

/-- Whether a pipeline may have executed a slice: an encoded one once its region's dispatcher has released the token of
each of its rows, and with motion that the search could give (R12, R247, R318). -/
def mayCode (s : State) (f : ChanCfg) (h work band : Nat) (res : SliceRes) : Bool :=
  decide (work ≠ 0) ||
    ((sliceTokens f h band res.slice).all (fun k => s.tsk.tokens.contains k) &&
      (res.motion.isEmpty || (chan s h).pics.any fun q =>
        decide (q.capture = res.capture) && res.motion.all (motionOk s h f q)))

/-- A slice uses up its rows' tokens. -/
def useTokens (f : ChanCfg) (h work band slice : Nat) (s : State) : State :=
  if work = 0 then
    { s with tsk := { s.tsk with tokens := (sliceTokens f h band slice).foldl (fun ts k => ts.erase k) s.tsk.tokens } }
  else s

/-- A pipeline finishes a slice of the frame that it runs. -/
def sliceWork (p h : Nat) (res : SliceRes) (s : State) : State :=
  let x := pipeOf s p
  match x.frame, (chan s h).cfg with
  | some (ch, work, band, capture), some f =>
    if ch = h ∧ capture = res.capture ∧ x.slicesLeft.contains res.slice = true ∧ mayCode s f h work band res = true then
      let left := x.slicesLeft.filter (· ≠ res.slice)
      let s1 := setPipe p { x with slicesLeft := left, frame := if left = [] then none else x.frame }
        (useTokens f h work band res.slice s)
      if work = 0 then encodeSlice h f res s1 else decodeSlice h f res s1
    else s
  | _, _ => s

/-- Cycles of one slice of a channel's work. -/
def sliceCycles (s : State) (h work i : Nat) : Nat :=
  match (chan s h).cfg with
  | none => 0
  | some f =>
    match (worksOf f (chanFormat s f)).find? fun w => decide (w.1.kind = work) with
    | some w => sliceCost w.1 ((groupOf w.1 w.2).getD 1) i
    | none => 0

/-- A parity error of a pipeline: code 6 on its region; every slice that had begun and not finished is issued
again, and a third error on a slice exhausts it (R501). How many of the frame's remaining slices had begun is a
free value (R11, R29; DESIGN CHOICE, assumption log 29). -/
def execPipelineParityError (cp : Fin 8) (s : State) : Out :=
  let p := cp.val
  let x := pipeOf s p
  match x.frame with
  | none => .next (countFault (.region cp) 6 0xFF 0 s)
  | some (h, work, _, _) =>
    let s1 := countFault (.region cp) 6 h 0 s
    let (n, s2) := takeFree s1
    let begun := x.slicesLeft.take (1 + n % x.slicesLeft.length)
    let parity := begun.foldl (fun t i => tabMod 0 t i (· + 1)) x.parity
    if begun.any fun i => decide (3 ≤ tabGet 0 parity i) then
      .next (exhaustChan h (setPipe p { x with frame := none, slicesLeft := [], parity := [] } s2))
    else
      .next (addCycles actRetry ((begun.map (sliceCycles s h work)).sum)
        (setPipe p { x with parity := parity, reissues := x.reissues + begun.length } s2))

end Sys2Proof.Machine
end

