-- ==== Sys2Proof/Machine/Pixels.lean ====
section
/-! DEFINITION. Machine/Pixels.lean: pixels of graphics buffers, and what the conversion chain, scalers, LUTs and
compositors make of pixels (R209 to R215, R217, R224). Standards' filters and the roundings that the spec does not give
are free (assumption log 10). -/

namespace Sys2Proof.Machine

/-! ### Pixels of a buffer (R217, R224) -/

/-- Bytes per pixel of a layer format (R217). -/
def pixelBytes (format : Nat) : Nat :=
  if format ≤ 1 then 2 else if format = 2 then 3 else 4

/-- Component widths of a format: alpha, red, green, blue. -/
def compBits (format : Nat) : Nat × Nat × Nat × Nat :=
  match format with
  | 0 => (0, 5, 6, 5)
  | 1 => (1, 5, 5, 5)
  | 2 => (0, 8, 8, 8)
  | 3 => (8, 8, 8, 8)
  | _ => (2, 10, 10, 10)

/-- The components of a pixel: blue lowest, then green, red and alpha (assumption log 24). -/
def unpack (format v : Nat) : Nat × Nat × Nat × Nat :=
  let (a, r, g, b) := compBits format
  (bitsAt v (b + g + r) a, bitsAt v (b + g) r, bitsAt v b g, bitsAt v 0 b)

/-- Packing of pixel components (PRESUMED, assumption log 24). -/
def pack (format : Nat) (x : Nat × Nat × Nat × Nat) : Nat :=
  let (_, r, g, b) := compBits format
  x.2.2.2 + 2 ^ b * (x.2.2.1 + 2 ^ g * (x.2.1 + 2 ^ r * x.1))

/-- A value of `n` bits in `m` bits: truncated, or widened by bit replication. -/
def resize (n m v : Nat) : Nat :=
  if m ≤ n then v / 2 ^ (n - m)
  else if n = 0 then 0
  else (List.range m).foldl (fun acc i => acc + (if bitAt v ((n - 1) - (i % n)) then 2 ^ (m - 1 - i) else 0)) 0

/-- The alpha of a source pixel at 8 bits; a format without alpha counts as 255. -/
def alpha8 (format v : Nat) : Nat :=
  let (a, _, _, _) := compBits format
  if a = 0 then 255 else resize a 8 (unpack format v).1

/-- A pixel of a memory; one of a poisoned sector reads 0. The flag says that it was poisoned. -/
def readPixel (poison : List Nat) (m : Mem) (a n : Nat) : Nat × Bool :=
  let hit := poison.any fun p => decide (a < (p + 1) * 64 ∧ p * 64 < a + n)
  (if hit then 0 else ofLe (byteNats (memReads m a n)), hit)

/-! ### Scalers (R213, R214) -/

/-- The source position of output sample `i` along an axis, in 2^-32 of a sample: (i + 0.5) × source / output − 0.5. -/
def scalePos (src out i : Nat) : Int := (((2 * i + 1) * src * 2147483648 / out : Nat) : Int) - 2147483648

/-- The phase of an output sample: the top 6 bits of its position's fraction. -/
def scalePhase (src out i : Nat) : Nat := (scalePos src out i % 4294967296).toNat / 67108864

/-- The source samples under the taps of an output sample, `before` of them below its position; those outside the source
repeat its edge. -/
def scaleTaps (before taps src out i : Nat) : List Nat :=
  (List.range taps).map fun k =>
    (max 0 (min (src - 1 : Int) (scalePos src out i / 4294967296 - before + k))).toNat

/-! ### Images -/

/-- A picture between stages (R209): its width, and its pixels in raster order. -/
structure Image where
  width : Nat
  px : List (List Nat)
  deriving DecidableEq, Repr

/-- The lines of an image. -/
def imageLines (im : Image) : Nat := im.px.length / im.width

/-- The pixel of an image at a place. -/
def pixelAt (im : Image) (x y : Nat) : List Nat := im.px.getD (y * im.width + x) []

/-- An image of some size by its pixels. -/
def imageOf (w h : Nat) (f : Nat → Nat → List Nat) : Image :=
  { width := w, px := ((List.range h).map fun y => (List.range w).map fun x => f x y).flatten }

/-- A rectangle of an image: x, y, width, height (stage 1). -/
def cropImage (r : List Nat) (im : Image) : Image :=
  imageOf (r.getD 2 0) (r.getD 3 0) fun x y => pixelAt im (r.getD 0 0 + x) (r.getD 1 0 + y)

/-- The coefficients of a slot: 64 phases of 8 horizontal taps, then 64 of 6 vertical ones (R215). -/
def coefTable (s : State) (slot : Nat) : List Int :=
  if slot < 2 then Config.coefBuiltIn slot else tabGet [] s.pix.coefs slot

/-- The sum of a filter whose coefficients start at a place of a table, over some pixels. -/
def filterPixels (cs : List Int) (base : Nat) (ps : List (List Nat)) : List Nat :=
  (List.range (ps.headD []).length).map fun c =>
    Config.weighted 4096 (((cs.drop base).take ps.length).zip (ps.map fun p => p.getD c 0))

/-- The vertical filter of 6 taps from floor(p) − 2, with the phases after the 512 horizontal coefficients. -/
def scaleRows (cs : List Int) (h : Nat) (im : Image) : Image :=
  let src := imageLines im
  imageOf im.width h fun x j =>
    filterPixels cs (512 + 6 * scalePhase src h j) ((scaleTaps 2 6 src h j).map fun y => pixelAt im x y)

/-- The horizontal filter of 8 taps from floor(p) − 3. -/
def scaleColumns (cs : List Int) (w : Nat) (im : Image) : Image :=
  imageOf w (imageLines im) fun i y =>
    filterPixels cs (8 * scalePhase im.width w i) ((scaleTaps 3 8 im.width w i).map fun x => pixelAt im x y)

/-- A scaler: first vertically, then horizontally; an image that has its size passes as it is (R209, R213). -/
def scaleImage (s : State) (slot w h : Nat) (im : Image) : Image :=
  if im.width = w ∧ imageLines im = h then im
  else scaleColumns (coefTable s slot) w (scaleRows (coefTable s slot) h im)

/-! ### The 3D LUT (R211) -/

/-- An entry of a table of 33 × 33 × 33, red fastest: a component of the corner at some steps. -/
def lutEntry (t : List Nat) (r g b c : Nat) : Nat := t.getD (3 * (r + 33 * g + 1089 * b) + c) 0

/-- A pixel through a LUT by tetrahedral interpolation: from the low corner of its cube along the axes in falling order of
their fractions. -/
def lutPixel (t p : List Nat) : List Nat :=
  let base (k : Nat) : Nat := min 31 (p.getD k 0 * 32 / 65535)
  let frac (k : Nat) : Nat := p.getD k 0 * 32 - 65535 * base k
  let hi := if frac 1 ≤ frac 0 ∧ frac 2 ≤ frac 0 then 0 else if frac 2 ≤ frac 1 then 1 else 2
  let lo := match hi with
    | 0 => if frac 1 ≤ frac 2 then 1 else 2
    | 1 => if frac 0 ≤ frac 2 then 0 else 2
    | _ => if frac 0 ≤ frac 1 then 0 else 1
  let mid := 3 - hi - lo
  let corner (up : List Nat) (c : Nat) : Nat :=
    let at_ (k : Nat) : Nat := base k + (up.contains k).toNat
    lutEntry t (at_ 0) (at_ 1) (at_ 2) c
  (List.range 3).map fun c => Config.weighted 65535
    [((65535 - frac hi : Nat), corner [] c), ((frac hi - frac mid : Nat), corner [hi] c),
     ((frac mid - frac lo : Nat), corner [hi, mid] c), ((frac lo : Nat), corner [0, 1, 2] c)]

/-- Stage 5: slot 0 is the identity. -/
def lutStage (s : State) (slot : Nat) (im : Image) : Image :=
  if slot = 0 then im else { im with px := im.px.map (lutPixel (tabGet [] s.pix.luts slot)) }

/-! ### Rounding and dither (R212) -/

/-- A sample of some bits at fewer: rounded half up, or with the ordered dither before truncation. -/
def reduceSample (bits depth dither x y n v : Nat) : Nat :=
  let d := 2 ^ (bits - depth)
  let add := if d = 1 then 0 else if dither = 1 then Config.ditherAt ((x + n) % 4) ((y + n) % 4) d else d / 2
  min (2 ^ depth - 1) ((v + add) / d)

/-- Stage 10 over an image, for the picture with index `n` on its frame grid. -/
def reduceImage (depth dither n : Nat) (im : Image) : Image :=
  imageOf im.width (imageLines im) fun x y => (pixelAt im x y).map (reduceSample 16 depth dither x y n)

/-! ### Composition (R224) -/

/-- What a layer shows: its image, each pixel alpha and three components in the blending signal, and its place. -/
structure LayerImage where
  image : Image
  dst : List Nat
  blend : Nat
  alpha : Nat
  deriving DecidableEq, Repr

/-- A sample laid over another with a pixel's alpha and the global alpha, both of 8 bits: source-over. Full alpha gives the
sample above, no alpha, when straight, the one under. -/
def blendSample (pre : Bool) (a global top low : Nat) : Nat :=
  if a = 255 ∧ global = 255 then top
  else if !pre && decide (a = 0 ∨ global = 0) then low
  else Config.blend16 top low (a * 256 + global) pre

/-- One layer over a pixel at a place: an opaque one counts as alpha 255. -/
def overPixel (x y : Nat) (under : List Nat) (l : LayerImage) : List Nat :=
  let dx := l.dst.getD 0 0
  let dy := l.dst.getD 1 0
  if dx ≤ x ∧ x < dx + l.dst.getD 2 0 ∧ dy ≤ y ∧ y < dy + l.dst.getD 3 0 then
    let p := pixelAt l.image (x - dx) (y - dy)
    let a := if l.blend = 0 then 255 else p.headD 0
    (List.range 3).map fun c => blendSample (decide (l.blend = 2)) a l.alpha (p.getD (c + 1) 0) (under.getD c 0)
  else under

/-- Whether a layer covers a place. -/
def layerCovers (x y : Nat) (l : LayerImage) : Bool :=
  decide (l.dst.getD 0 0 ≤ x ∧ x < l.dst.getD 0 0 + l.dst.getD 2 0 ∧
    l.dst.getD 1 0 ≤ y ∧ y < l.dst.getD 1 0 + l.dst.getD 3 0)

/-- Layers over an image, in index order. -/
def composeImage (ls : List LayerImage) (im : Image) : Image :=
  imageOf im.width (imageLines im) fun x y => ls.foldl (overPixel x y) (pixelAt im x y)

/-- A graphics pixel of a format: 8-bit alpha, and the components in the blending signal. -/
def gfxPixel (settings : List Nat) (format v : Nat) : List Nat :=
  let (_, r, g, b) := unpack format v
  let (_, nr, ng, nb) := compBits format
  let wide (n : Nat) (c : Nat) : Nat := if n < 8 then resize n 8 c else c
  alpha8 format v :: Config.gfxColour (max nr 8 :: settings) [wide nr r, wide ng g, wide nb b]

end Sys2Proof.Machine
end

