-- ==== Sys2Proof/Machine/Layers.lean ====
section
/-! DEFINITION. Machine/Layers.lean: the layer model that insertion layers and the monitor's layers share: the
checks of a commit, fences, flips and layers whose buffer is gone (R217 to R223, R490). -/

namespace Sys2Proof.Machine

/-- The buffer number of a solid layer. -/
def solidBuf : Nat := 0xFFFFFFFF

/-- Whether a size ratio lies from 1/4 to 8 (R213). -/
def ratioOk (out src : Nat) : Bool := decide (src ≤ 4 * out ∧ out ≤ 8 * src)

/-- The bytes of a layer's buffer that it can read: from its offset, `PITCH × (SRC y + SRC height)`. -/
def layerSpan (l : Layer) : Nat := l.pitch * (l.src.getD 1 0 + l.src.getD 3 0)

/-- The checks of R219 on a layer that shows a buffer, by the index of the offending TLV from ENABLE's. -/
def bufferChecks (s : State) (l : Layer) : List (Bool × Nat) :=
  let b := tabGet? s.mem.bufs l.buf
  [(decide (l.buf ≠ solidBuf) && b.isNone, 1), (decide (l.offset % 64 ≠ 0), 2), (decide (4 < l.format), 3),
   (decide (l.pitch % 64 ≠ 0 ∨
      l.pitch < (l.src.getD 0 0 + l.src.getD 2 0) * pixelBytes l.format), 4),
   ((match b with
      | some x => decide (x.size < l.offset + layerSpan l)
      | none => false), 2),
   (decide (256 ≤ l.acqFence ∧ l.acqFence ≠ 0xFFFF), 10)]

/-- The checks of R219 on every layer against a canvas (DEDUCED, assumption log 50). -/
def layerChecks (w h : Nat) (l : Layer) : List (Bool × Nat) :=
  let sw := l.src.getD 2 0
  let sh := l.src.getD 3 0
  let dw := l.dst.getD 2 0
  let dh := l.dst.getD 3 0
  [(decide (sw = 0 ∨ sh = 0 ∨ 8192 < sw), 5),
   (decide (dw = 0 ∨ dh = 0 ∨ w < l.dst.getD 0 0 + dw ∨ h < l.dst.getD 1 0 + dh), 6),
   (!ratioOk dw sw || !ratioOk dh sh, 6), (decide (2 < l.blend), 7),
   (decide (256 ≤ l.relFence ∧ l.relFence ≠ 0xFFFF), 11), (decide (15 < l.scalerSet), 12)]

/-- The value of a fence at an instant: a write that arrives in the cycle of the instant counts (R221, R222). -/
def fenceAt (s : State) (fence at_ : Nat) : Word32 :=
  (s.pix.wrote.filter fun e => e.1 = fence).foldl (fun v e => if at_ + ns 2 ≤ e.2.1 then e.2.2.1 else v)
    (tabGet 0 s.pix.fences fence)

/-- Whether a fence is signalled for a target at an instant (R221). -/
def signalled (s : State) (at_ fence : Nat) (target : Word32) : Bool :=
  decide ((fenceAt s fence at_ - target).toNat < 2147483648)

/-- Whether every layer of a commit that is enabled and names an acquire fence has it signalled at the latch instant
(R222). A layer that shows a source picture takes no fence (R484). -/
def commitReady (s : State) (at_ : Nat) (m : Commit) : Bool :=
  m.layers.all fun e =>
    !e.2.enable || decide (e.2.srcKind ≠ 0) || decide (256 ≤ e.2.acqFence) ||
      signalled s at_ e.2.acqFence e.2.acqTarget

/-- A fence takes a value; `other` says that a master other than the device's own release writes it (R221). -/
def putFence (other : Bool) (n : Nat) (v : Word32) (s : State) : State :=
  { s with pix := { s.pix with
      fences := tabSet s.pix.fences n v
      wrote := ((n, s.tim.now, tabGet 0 s.pix.fences n, other) :: s.pix.wrote).take 256 } }

/-- A write of a fence by the host or the drawing engine. -/
def setFence (n : Nat) (v : Word32) (s : State) : State := putFence true n v s

/-- A release write: one of another master in the same cycle comes after it, and its value remains (R221, R223). -/
def releaseFence (n : Nat) (v : Word32) (s : State) : State :=
  if s.pix.wrote.any fun e => decide (e.1 = n ∧ e.2.1 = s.tim.now) && e.2.2.2 then s else putFence false n v s

/-- The states that a flip replaces, as far as they are shown. -/
def replaced (ls : LayerSet) (m : Commit) : List Layer :=
  (m.layers.filterMap fun e => tabGet? ls.shown e.1).filter Layer.enable

/-- The layer set after a flip at a latch instant. -/
def flipLayers (at_ : Nat) (m : Commit) (ls : LayerSet) : LayerSet :=
  let shown := m.layers.foldl (fun t e => tabSet t e.1 e.2) ls.shown
  { ls with
    shown := shown, pending := none
    effective := m.layers.foldl (fun t e => tabSet t e.1 m.effective) ls.effective
    faulty := ls.faulty.filter fun i => !m.layers.any fun e => decide (e.1 = i)
    hist := ((at_, shown) :: ls.hist).take 4 }

/-- The layers of a commit as a bitmap. -/
def commitMask (n : Nat) (m : Commit) : Nat := bitmap n fun i => m.layers.any fun e => decide (e.1 = i)

/-- The states in force for a picture: those of the newest flip at or before its latch instant. -/
def shownAt (ls : LayerSet) (at_ : Nat) : Tab Layer :=
  match ls.hist.find? fun e => decide (e.1 ≤ at_) with
  | some e => e.2
  | none => []

/-- Whether a layer reads a buffer that is no longer allocated. -/
def bufferGone (s : State) (l : Layer) : Bool :=
  l.enable && decide (l.srcKind = 0 ∧ l.buf ≠ solidBuf) && (tabGet? s.mem.bufs l.buf).isNone

/-- Whether a layer's read meets a poisoned sector (R352). -/
def layerPoisoned (s : State) (l : Layer) : Bool :=
  match tabGet? s.mem.bufs l.buf with
  | some b =>
    let lo := b.addr + l.offset
    l.enable && decide (l.srcKind = 0) &&
      s.mem.poison.any fun p => decide (lo < (p + 1) * 64 ∧ p * 64 < lo + layerSpan l)
  | none => false

/-- EV_LAYER_FAULT for each of some layers. -/
def evLayerFaults (ch : Nat) (ixs : List Nat) (s : State) : State :=
  ixs.foldl (fun s i => raise evLayerFault ch (u8 i) s) s

/-- The layers that show FILL from a latch instant on: those whose buffer is gone. The newly found ones are named
beside the set (R490). -/
def latchFaults (s : State) (ls : LayerSet) : List Nat × LayerSet :=
  let gone := (ls.shown.filter fun e => bufferGone s e.2).map Prod.fst
  (gone.filter fun i => !ls.faulty.contains i, { ls with faulty := gone })

/-! ### What a layer shows (R217, R224, R486, R490) -/

/-- Whether a layer shows its FILL: a solid one, one whose buffer went before the last latch instant, and one that reads
a poisoned sector. -/
def showsFill (s : State) (ls : LayerSet) (e : Nat × Layer) : Bool :=
  ls.faulty.contains e.1 || decide (e.2.buf = solidBuf) || layerPoisoned s e.2

/-- Whether a layer's content is undefined: its buffer went after the last latch instant (R490). -/
def undefinedNow (s : State) (ls : LayerSet) (e : Nat × Layer) : Bool := !showsFill s ls e && bufferGone s e.2

/-- An image of one colour, of ARGB8888. -/
def plainImage (settings : List Nat) (w h colour : Nat) : Image :=
  imageOf w h fun _ _ => gfxPixel settings 3 colour

/-- The image of a layer that reads a buffer, scaled to its place; an undefined one is a free value. -/
def bufferImage (s : State) (ls : LayerSet) (settings : List Nat) (e : Nat × Layer) : Image :=
  let l := e.2
  let w := l.dst.getD 2 0
  let h := l.dst.getD 3 0
  if showsFill s ls e then plainImage settings w h l.fill.toNat
  else match tabGet? s.mem.bufs l.buf with
    | none => { width := w, px := Config.pixels (Config.freeNat (s.free + e.1)) }
    | some b =>
      let n := pixelBytes l.format
      let at_ (x y : Nat) : Nat :=
        b.addr + l.offset + (l.src.getD 1 0 + y) * l.pitch + (l.src.getD 0 0 + x) * n
      scaleImage s l.scalerSet w h (imageOf (l.src.getD 2 0) (l.src.getD 3 0) fun x y =>
        gfxPixel settings l.format (readPixel s.mem.poison s.mem.dram (at_ x y) n).1)

/-- A layer with its image as the compositor takes it. -/
def placed (l : Layer) (im : Image) : LayerImage :=
  { image := im, dst := l.dst, blend := l.blend, alpha := l.alpha }

/-- Counts the free values that undefined layers take. -/
def layersFreed (s : State) (ls : LayerSet) (es : List (Nat × Layer)) : State :=
  if es.any (undefinedNow s ls) then { s with free := s.free + 20 } else s

end Sys2Proof.Machine
end

