-- ==== Sys2Proof/Machine/Pix.lean ====
section
/-! DEFINITION. Machine/Pix.lean: the PIX opcodes, processing paths, insertion layers and fences (R205 to R228). -/

namespace Sys2Proof.Machine

/-! ### PIX.CONFIGURE (R206 to R216) -/

/-- The rectangle of a CROP value, or the full picture. -/
def cropOf (r : Req) (d : PixCfg) : List Nat :=
  match getTlv r 0x0504 with
  | some v => rectOf v
  | none => d.crop

/-- The processing that a request describes; no TLVs at all remove it. -/
def pixFrom (r : Req) (f : Option Format) : PixCfg :=
  let d := pixDefault f
  { d with
    outColour := tlvD r 0x0501 d.outColour, convert := tlvD r 0x0502 0, lut := tlvD r 0x0503 0,
    crop := cropOf r d, scalerSet := tlvD r 0x0505 0, dither := tlvD r 0x0506 0,
    outRange := tlvD r 0x0507 0, insert := decide (tlvD r 0x0508 0 = 1), gfxWhite := tlvD r 0x0509 203,
    pathReq := tlvD r 0x050A 0xFF }

/-- Whether CONVERT fits the input colorimetry, OUT_COLOUR and the LUT (R210): 0 BT.709, 1 BT.2020, 2 BT.2100
PQ, 3 BT.2100 HLG. -/
def convertOk (inCol : Nat) (p : PixCfg) : Bool :=
  match p.convert with
  | 0 => decide (inCol = p.outColour)
  | 1 => decide ((inCol = 0 ∧ p.outColour = 1) ∨ (inCol = 1 ∧ p.outColour = 0))
  | 2 => decide (inCol = 3 ∧ p.outColour = 2)
  | 3 => decide (inCol = 2 ∧ p.outColour = 3)
  | 4 => decide (inCol ≤ 1 ∧ 2 ≤ p.outColour)
  | 5 => decide (p.lut ≠ 0)
  | _ => false

/-- Whether CROP is refused: outside the picture, odd in 4:2:2, or not scalable to the coded size (R213). -/
def cropBad (c : ChanCfg) (f : Option Format) (p : PixCfg) : Bool :=
  match f with
  | none => false
  | some f =>
    let x := p.crop.getD 0 0
    let y := p.crop.getD 1 0
    let w := p.crop.getD 2 0
    let h := p.crop.getD 3 0
    let scaled := decide (w ≠ c.width ∨ h ≠ c.height)
    decide (w = 0 ∨ h = 0 ∨ f.width < x + w ∨ f.height < y + h) ||
      decide (f.sampling = 2 ∧ (x % 2 ≠ 0 ∨ w % 2 ≠ 0)) ||
      (scaled && (decide (8192 < w) || !ratioOk c.width w || !ratioOk c.height h))

/-- The parameter checks of PIX.CONFIGURE (DEDUCED, assumption log 50). -/
def pixChecks (c : ChanCfg) (f : Option Format) (p : PixCfg) (r : Req) : List (Bool × Nat) :=
  let rate := match f with
    | some f => decide (f.rateNum * c.rateDen ≠ c.rateNum * f.rateDen ∨ c.interlaced ≠ decide (f.scan = 1))
    | none => false
  [(rate, 0x0214), (decide (3 < p.outColour), 0x0501),
   (!convertOk (match f with | some f => f.colorimetry | none => p.outColour) p, 0x0502),
   (decide (15 < p.lut), 0x0503), (cropBad c f p, 0x0504), (decide (15 < p.scalerSet), 0x0505),
   (decide (1 < p.dither), 0x0506), (decide (1 < p.outRange), 0x0507), (decide (1 < tlvD r 0x0508 0), 0x0508),
   (decide (p.gfxWhite < 80 ∨ 1000 < p.gfxWhite), 0x0509), (decide (3 < p.pathReq ∧ p.pathReq ≠ 0xFF), 0x050A)]

/-- The channel takes the processing: its path share and its ingest budget, while it holds a booking; without
insertion its layers stop being shown. -/
def installPix (h : Nat) (p : PixCfg) (ingest : Nat) (s : State) : State :=
  let s1 := modChan h (fun c => { c with
    pix := some p, ingestBudget := if booked c.state then ingest else c.ingestBudget }) s
  if p.insert then s1 else dropShown h (dropCommit h s1)

/-- PIX.CONFIGURE, checked as a repeated CHAN.CONFIGURE. -/
def pixConfigureWith (r : Req) (s : State) : Verdict :=
  let h := r.channel
  let c := chan s h
  if ¬(c.state = .configured ∨ c.state = .faulted) then badState s h
  else match c.cfg with
    | none => badState s h
    | some f =>
      let fmt := chanFormat s f
      let p := pixFrom r fmt
      paramsThen (pixChecks f fmt p r)
        (match placePath s h f fmt p with
         | none => noRoom 5
         | some q =>
           let ingest := ingestBudgetOf f (inputOf s f.input) q
           if memBookable s < memBookedBut s h + chanMem { c with ingestBudget := ingest } then noRoom 3
           else .ok (installPix h q ingest s) [] false)

/-- Held as every admitting command (R28, R120, R206). -/
def pixConfigureWork (r : Req) (s : State) : Verdict :=
  if mustHold r s then holdAdmit 0x0501 r s else pixConfigureWith r s

/-! ### PIX.LOAD (R211, R215) -/

def lutBytes : Nat := 215622
def coefBytes : Nat := 1792

/-- Little-endian u16 values of a run of bytes. -/
def pairs16 : List Nat → List Nat
  | a :: b :: rest => (a + 256 * b) :: pairs16 rest
  | _ => []

/-- Coefficients: 64 phases of 8 taps, then 64 of 6, as int16. -/
def coefsOf (bs : List Nat) : List Int := (pairs16 bs).map (signed 2)

/-- Whether every phase's taps sum to 4,096. -/
def coefsOk (cs : List Int) : Bool :=
  ((List.range 64).all fun i => decide (((cs.drop (8 * i)).take 8).sum = 4096)) &&
    (List.range 64).all fun i => decide (((cs.drop (512 + 6 * i)).take 6).sum = 4096)

/-- A channel in a running state that names a LUT slot, or a coefficient slot for its video or a layer. -/
def slotUser (s : State) (kind slot : Nat) : Option Nat :=
  handles.find? fun h =>
    let c := chan s h
    active c.state && match c.pix with
      | none => false
      | some p =>
        if kind = 0 then decide (p.lut = slot)
        else decide (p.scalerSet = slot) || c.layers.shown.any fun e => decide (e.2.scalerSet = slot)

def pixLoadWork (r : Req) (s : State) : Verdict :=
  let kind := tlvD r 0x0520 0
  let slot := tlvD r 0x0522 0
  if 1 < kind then .err stBadParam 0x0520 []
  else
    match slotUser s kind slot with
    | some h => badState s h
    | none =>
      match tabGet? s.mem.bufs (tlvD r 0x0521 0) with
      | none => .err stBadParam 0x0521 []
      | some b =>
        if kind = 0 then
          if b.size < lutBytes ∨ slot = 0 ∨ 15 < slot then .err stBadParam 0x0521 []
          else
            let t := pairs16 (byteNats (memReads s.mem.dram b.addr lutBytes))
            .ok { s with pix := { s.pix with luts := tabSet s.pix.luts slot t } } [] false
        else
          let cs := coefsOf (byteNats (memReads s.mem.dram b.addr coefBytes))
          if b.size < coefBytes ∨ slot < 2 ∨ 15 < slot ∨ coefsOk cs = false then .err stBadParam 0x0521 []
          else .ok { s with pix := { s.pix with coefs := tabSet s.pix.coefs slot cs } } [] false

def execPixLoad (r : Req) (s : State) : Out := .next (serve sPixLoad r pixLoadWork s)

/-! ### PIX.LAYER and PIX.COMMIT (R218 to R220) -/

/-- Whether a channel has insertion. -/
def inserts (s : State) (h : Nat) : Bool :=
  match (chan s h).pix with
  | some p => p.insert
  | none => false

def pixLayerWork (r : Req) (s : State) : Verdict :=
  let h := r.channel
  let i := tlvD r 0x0530 0
  if 3 < i ∨ inserts s h = false then .err stBadParam 0x0530 []
  else .ok (modChan h (fun c => { c with layers := { c.layers with
    staged := tabSet c.layers.staged i (layerFrom r 0x0531 (tabGet Layer.reset c.layers.staged i)) } }) s) [] false

def execPixLayer (r : Req) (s : State) : Out := .next (serve sPixLayer r pixLayerWork s)

/-- The first refused TLV of the enabled layers of a group (DEDUCED, assumption log 50). -/
def pixCommitBad (s : State) (f : ChanCfg) (ls : List (Nat × Layer)) : Option Nat :=
  firstBad (((ls.filter fun e => e.2.enable).map fun e =>
    (bufferChecks s e.2 ++ layerChecks f.width (picHeight f) e.2).map fun x => (x.1, 0x0531 + x.2)).flatten)

def pixCommitWork (r : Req) (s : State) : Verdict :=
  let h := r.channel
  let c := chan s h
  let group := tlvD r 0x0540 0
  if c.layers.pending.isSome then .err stBusy 0 []
  else match c.cfg with
    | none => .err stBadParam 0x0540 []
    | some f =>
      let ls := (bitList 4 group).map fun i => (i, tabGet Layer.reset c.layers.staged i)
      if group = 0 ∨ 15 < group ∨ inserts s h = false then .err stBadParam 0x0540 []
      else match pixCommitBad s f ls with
        | some t => .err stBadParam t []
        | none =>
          let e := tlvD r 0x0541 (acceptedAt r s + ceilDiv (2 * periodT f) 65536)
          if hasTlv r 0x0541 ∧ effectiveBad c f e = true then .err stBadParam 0x0541 []
          else
            let m : Commit := { layers := ls, effective := e, open_ := !hasTlv r 0x0541 }
            .ok (modChan h (fun c => { c with layers := { c.layers with pending := some m } }) s) [] false

def execPixCommit (r : Req) (s : State) : Out := .next (serve sPixCommit r pixCommitWork s)

/-! ### LAYER_LATCH (R222, R226, R228, R490) -/

/-- Whether a pending commit flips at a picture: by its fences; on a shadow as the checkpoint of the picture's first slice
says, and by its fences only for a picture that no checkpoint covers after a takeover. None: a shadow that holds no
checkpoint of the picture decides nothing yet (R226). -/
def flipsAt (s : State) (h capture : Nat) (m : Commit) : Option Bool :=
  match (chan s h).cfg, group? s h with
  | some f, some g =>
    match g.layersOf.find? fun e => decide (e.1 = capNs capture) with
    | some e => if f.role = .shadow then some (m.layers.all fun l => decide (e.2.getD l.1 0 = m.effective))
        else some (commitReady s capture m)
    | none => if f.role = .shadow ∧ g.reencoding = false then none else some (commitReady s capture m)
  | _, _ => some (commitReady s capture m)

/-- Whether a channel waits for a checkpoint before it composes a picture (R226). -/
def waitsCheckpoint (s : State) (h capture : Nat) : Bool :=
  inserts s h && match (chan s h).cfg, group? s h with
    | some f, some g => decide (f.role = .shadow) && !g.reencoding &&
        !g.layersOf.any fun e => decide (e.1 = capNs capture)
    | _, _ => false

/-- Whether the composition of every picture that a channel began before a capture time has ended. -/
def composedBefore (c : Chan) (capture : Nat) : Bool :=
  (c.begun.filter fun x => decide (x < capture)).all fun x => c.srcPics.any fun p => decide (p.capture = x)

/-- The release writes of replaced states: due once the composition of the last picture that shows them has
ended (R223). -/
def releaseReplaced (h capture : Nat) (ls : List Layer) (s : State) : State :=
  if composedBefore (chan s h) capture then addReleases ls s.tim.now s
  else { s with pix := { s.pix with
    waiting := s.pix.waiting ++ (ls.filter fun l => decide (l.relFence < 256)).map fun l =>
      (h, capture, l.relFence, l.relValue) } }

/-- The data of EV_LAYER_MISS and EV_LAYER_FLIP. -/
def layerEvent (mask t : Nat) : List Nat := u8 mask ++ List.replicate 7 0 ++ u64 t

/-- A commit without EFFECTIVE takes effect at the first picture whose capture time has come to its instant (R220). -/
def fixEffective (capture : Nat) (m : Commit) : Commit :=
  if m.open_ ∧ m.effective ≤ capNs capture then { m with effective := capNs capture, open_ := false } else m

/-- A commit stays pending. -/
def holdCommit (h : Nat) (m : Commit) (s : State) : State :=
  modChan h (fun c => { c with layers := { c.layers with pending := some m } }) s

/-- A channel's layers at the latch instant of a picture. -/
def latchLayers (h capture : Nat) (s : State) : State :=
  let c := chan s h
  let (lost, ls) := latchFaults s c.layers
  let s1 := evLayerFaults h lost (modChan h (fun c => { c with layers := ls }) s)
  match ls.pending with
  | none => s1
  | some m0 =>
    let m := fixEffective capture m0
    if capNs capture < m.effective then s1
    else match flipsAt s1 h capture m with
      | none => holdCommit h m s1
      | some true =>
        let s2 := modChan h (fun c => { c with layers := flipLayers capture m c.layers }) s1
        raise evLayerFlip h (layerEvent (commitMask 4 m) (capNs capture))
          (releaseReplaced h capture (replaced ls m) s2)
      | some false => raise evLayerMiss h (layerEvent (commitMask 4 m) (capNs capture)) (holdCommit h m s1)

def execLayerLatch (ch : Fin 64) (capture : Nat) (s : State) : Out :=
  let done := (chan s ch.val).srcPics.any fun p => decide (p.capture = capture)
  if inserts s ch.val ∧ active (chan s ch.val).state = true ∧ capture ≤ s.tim.now ∧ done = false then
    .next (latchLayers ch.val capture s)
  else .next s

/-! ### PIX_PATH_PICTURE (R209, R212, R224) -/

/-- Whether stages 3, 4, 5 and 8 are bypassed: colorimetry, range and sampling stay, and the LUT slot is 0 (R209). -/
def bypassed (fmt : Option Format) (f : ChanCfg) (p : PixCfg) : Bool :=
  match fmt with
  | some x => decide (x.colorimetry = p.outColour ∧ x.sampling ≠ 4 ∧ chromaOf x.sampling = f.chroma ∧ p.lut = 0 ∧
      p.outRange = 0 ∧ p.convert = 0)
  | none => decide (p.lut = 0 ∧ p.outRange = 0 ∧ p.convert = 0)

/-- The index of a picture on the frame grid of its input (R166, R212). -/
def gridOf (s : State) (f : ChanCfg) (capture : Nat) : Nat :=
  match (inputOf s f.input).bind fun i => inputRate s f.input i with
  | some q => gridIndex q capture
  | none => 0

/-- The rectangle that CROP takes of one picture of the input: half its lines where pictures are fields (R231). -/
def cropRect (f : ChanCfg) (p : PixCfg) : List Nat :=
  let k := if f.interlaced then 2 else 1
  [p.crop.getD 0 0, p.crop.getD 1 0 / k, p.crop.getD 2 0, p.crop.getD 3 0 / k]

/-- The layers of a channel that a picture shows, in index order (R224). -/
def insertLayers (c : Chan) (p : PixCfg) (capture : Nat) : List (Nat × Layer) :=
  if p.insert then (shownAt c.layers capture).filter fun e => e.2.enable else []

/-- What a path makes of a picture's content: the stages of R209 in order. Where the colour stages are bypassed and size
and depth stay, the samples outside every layer pass unchanged. -/
def pathContent (s : State) (h : Nat) (f : ChanCfg) (p : PixCfg) (capture content : Nat) : Nat :=
  let c := chan s h
  let fmt := chanFormat s f
  let (w, inCol, inCh, depth) := match fmt with
    | some x => (x.width, x.colorimetry, chromaOf x.sampling, x.depth)
    | none => (f.width, p.outColour, f.chroma, f.bitDepth)
  let st (k : Nat) (v : List Nat) (im : Image) : Image := { im with px := Config.pixStage k v im.px }
  let out := bypassed fmt f p
  let im1 := cropImage (cropRect f p) { width := w, px := Config.pixels content }
  let im2 := st 2 [inCh] im1
  let im5 := if out then im2 else lutStage s p.lut (st 4 [p.convert, p.gfxWhite] (st 3 [inCol] im2))
  let im6 := scaleImage s p.scalerSet f.width (picHeight f) im5
  let ls := (insertLayers c p capture).map fun e =>
    placed e.2 (bufferImage s c.layers [p.outColour, p.gfxWhite, (!out).toNat] e)
  let im8 := if out then composeImage ls im6 else st 8 [p.outColour, p.outRange] (composeImage ls im6)
  let im10 := reduceImage f.bitDepth p.dither (gridOf s f capture) (st 9 [f.chroma] im8)
  let same := out && decide (im1.width = f.width ∧ imageLines im1 = picHeight f ∧ depth = f.bitDepth)
  let im := if same then imageOf f.width (picHeight f) fun x y =>
      if ls.any (layerCovers x y) then pixelAt im10 x y else (pixelAt im1 x y).map fun v => v / 2 ^ (16 - depth)
    else im10
  Config.pixelsContent im.px

/-- Bytes that a path moves for one picture (R356): it reads the input picture and the layers, and writes the encode
source picture. -/
def pathBytes (f : ChanCfg) (fmt : Option Format) (p : PixCfg) : Nat :=
  let src := packedBytes f.width (picHeight f) f.chroma f.bitDepth
  (match fmt with | some x => ringBytes x | none => src) + src + if p.insert then 4 * f.width * picHeight f * 4 else 0

/-- PIX writes the encode source picture of a capture time, charged to the ingest activity (R31). The source picture is the decoded one in a
transcode and the ring's of an uncompressed input; `content` counts only where there is neither. Poisoned layers show FILL (R490). -/
def pathPicture (h capture content : Nat) (s : State) : State :=
  let c := chan s h
  match c.cfg, c.pix with
  | some f, some p =>
    if p.path.isNone ∨ active c.state = false ∨ c.srcPics.any (fun x => x.capture = capture) = true ∨
        waitsCheckpoint s h capture = true then s
    else
      let src := match inputOf s f.input with
        | some _ => if f.role = .transcode then decodedContent s h f capture else (match sourcePicture s h f capture with
          | some lines => Config.pictureContent lines
          | none => content)
        | none => content
      let out : SrcPic :=
        { capture := capture, content := pathContent s h f p capture src }
      let bad := ((shownAt c.layers capture).filter fun e => p.insert && layerPoisoned s e.2).map Prod.fst
      let keep := (c.srcPics ++ [out]).drop (c.srcPics.length + 1 - (keptK f + f.lookahead + 4))
      let s1 := traffic (actIngest h) (pathBytes f (chanFormat s f) p)
        (evLayerFaults h bad (modChan h (fun c => { c with srcPics := keep })
          (layersFreed s c.layers (insertLayers c p capture))))
      flushWaiting h (fun cap => composedBefore (chan s1 h) cap) s1
  | _, _ => s

def execPixPathPicture (ch : Fin 64) (capture content : Nat) (s : State) : Out :=
  .next (pathPicture ch.val capture content s)

/-! ### Fences (R221, R223) -/

/-- A write of PIX_FENCEn by a master that reaches the register space. -/
def execPixFenceWrite (n : Fin 256) (m : Master) (v : Word32) (s : State) : Out :=
  if regPath s m then .next (setFence n.val v s)
  else .next (busError m true (regAddr (0x42000 + 4 * n.val)) s)

/-- The device makes the release writes that are due, in order. -/
def execReleaseFenceWrite (s : State) : Out :=
  let due (e : Nat × Word32 × Nat) : Bool := decide (e.2.2 ≤ s.tim.now)
  let s1 := { s with pix := { s.pix with releases := s.pix.releases.filter fun e => !due e } }
  .next ((s.pix.releases.filter due).foldl (fun s e => releaseFence e.1 e.2.1 s) s1)

end Sys2Proof.Machine
end

