-- ==== Sys2Proof/Machine/Egress.lean ====
section
/-! DEFINITION. Machine/Egress.lean: units as packets, egress queues and launches, mirror records (R59, R71, R170,
R171, R281, R282, R411 to R424, R454 to R456, R463, R466, R468, R473, R474). -/

namespace Sys2Proof.Machine

/-! ### Packets of a unit (R414, R418, R420) -/

/-- Whether a unit is the last of its picture. -/
def lastUnitOf (f : ChanCfg) (u : Nat) : Bool := decide (u + 1 = (if f.role = .gateway then 1 else unitsOf f))

/-- The NAL units or parts of a unit that hold slices: bytes, whether it holds the NAL unit's header, and whether it is
whole (DESIGN CHOICE, assumption log 18). -/
def sliceParts (f : ChanCfg) (q : Picture) (u : Nat) : List (Nat × Bool × Bool) :=
  let (bytes, fill) := q.units.getD u (0, 0)
  match f.latency with
  | .slice => [(bytes - fill, true, true)]
  | .ripple =>
    match (starts 0 (cfgSlices f)).find? fun p => decide (p.1 ≤ u ∧ u < p.1 + p.2) with
    | some p => [(bytes - fill, decide (p.1 = u), decide (p.2 = 1))]
    | none => [(bytes - fill, true, true)]
  | _ =>
    let n := q.sliceBytes.length
    ((List.range n).zip q.sliceBytes).map fun e => (if e.1 + 1 = n then e.2 - fill else e.2, true, true)

/-- Takes bytes out of the first of some parts. -/
def lessBytes (n : Nat) : List (Nat × Bool × Bool) → List (Nat × Bool × Bool)
  | [] => []
  | p :: ps => (p.1 - n, p.2) :: ps

/-- The NAL units or parts of a unit: the prefix SEI before the first slice, the slices, the suffix SEI after the last
and the filler (R264, R283, R295). -/
def nalParts (f : ChanCfg) (q : Picture) (u : Nat) : List (Nat × Bool × Bool) :=
  let whole (n : Nat) : Nat × Bool × Bool := (n, true, true)
  let pre := if u = 0 then seiSizes f (prefixSei q) else []
  let suf := if lastUnitOf f u then seiSizes f (suffixSei q) else []
  let fill := (q.units.getD u (0, 0)).2
  let video := (lessBytes suf.sum (lessBytes pre.sum (sliceParts f q u)).reverse).reverse
  pre.map whole ++ video ++ suf.map whole ++ (if f.fillerOut ∧ 0 < fill then [whole fill] else [])

/-- Payload bytes of the packets of one NAL unit or part (DESIGN CHOICE, assumption log 18). -/
def nalPackets (mtu : Nat) (p : Nat × Bool × Bool) : List Nat :=
  let (bytes, head, whole) := p
  if whole ∧ bytes ≤ mtu - 40 then [bytes]
  else
    let data := if head then bytes - 2 else bytes
    let n := ceilDiv data (mtu - 43)
    (List.range n).map fun i => if i + 1 = n then data - (n - 1) * (mtu - 43) + 3 else mtu - 40

/-- `bytes` in pieces of at most `cap`. -/
def pieces (bytes cap : Nat) : List Nat :=
  let n := ceilDiv bytes cap
  (List.range n).map fun i => if i + 1 = n then bytes - (n - 1) * cap else cap

/-- The time of TS slot `k` of a picture (R418). -/
def tsTime (f : ChanCfg) (q : Picture) (n k : Nat) : Nat :=
  q.slot + ns f.delayNs + k * f.rateDen * 1000000000 * 65536 / (picNum f * n)

/-- Audio packets of each PID in a picture of a transport stream: the PES packet of the picture captured two periods
before, of the frames whose grid instants lie in it (R445). -/
def tsAudioUsed (s : State) (h : Nat) (f : ChanCfg) (o : Nat) (q : Picture) : Nat × Nat :=
  let p := tsPairs s o
  match (chan s h).firstPic with
  | none => (0, 0)
  | some c0 =>
    if c0 + 2 * periodT f ≤ q.slot + 65536 then
      let c := q.slot - 2 * periodT f
      let n := frameAt (capNs (c + periodT f)) 48000 - frameAt (capNs c) 48000
      (audioPackets n p.1, audioPackets n p.2)
    else (0, 0)

/-- The runs of TS slots that the video of units 0 to `u` takes: unit, first slot and number. A unit takes the free slots
from its launch time on (R418; DEDUCED, assumption log 18). -/
def tsRuns (s : State) (f : ChanCfg) (o : Nat) (q : Picture) (n u : Nat) : List (Nat × Nat × Nat) :=
  ((List.range (u + 1)).foldl (fun (x : Nat × List (Nat × Nat × Nat)) v =>
    let m := Config.tsVideo (q.units.getD v (0, 0)).1 v
    let first := max x.1 (max (2 + tsAudioSlots s f o) (ceilDiv (v * n) (unitsOf f)))
    (first + m, x.2 ++ [(v, first, m)])) (0, [])).2

/-- The time stamp of an instant (2^-16 ns) plus D plus CPB_BITS / M0, in units of 90 kHz modulo 2^33, exactly rounded down
(R418, R445). -/
def stamp90 (f : ChanCfg) (t : Nat) : Nat :=
  let m0 := max 1 f.maxBitrate
  ((t + ns f.delayNs) * m0 + ns (f.cpbBits * 1000000000)) * 9 / (ns 100000 * m0) % 8589934592

/-- The DTS and PTS of a picture: its first datagram's launch plus CPB_BITS / M0, and its capture time on the same path
with the reorder delay of its mini-GOP (R418, R445; DEDUCED, assumption log 18). -/
def tsStamps (f : ChanCfg) (q : Picture) : Nat × Nat :=
  (stamp90 f q.slot, stamp90 f (q.capture + (miniGop f - 1) * periodT f))

/-- Whether slot `k` of a run that begins at `first` carries the PCR: the first, and the first after each further 20 ms. -/
def tsHasPcr (f : ChanCfg) (q : Picture) (n first k : Nat) : Bool :=
  let since (j : Nat) : Nat := (tsTime f q n j - tsTime f q n first) / ns 20000000
  decide (k = first) || decide (since (k - 1) < since k)

/-- The stream type of a codec's video (R417). -/
def streamType : Codec → Nat
  | .hevc => 0x24
  | .vvc => 0x33
  | _ => 0x1B

/-- The streams that the PMT lists: the video and the audio PIDs that carry channels (R417, R445). -/
def tsStreams (s : State) (f : ChanCfg) (o : Nat) : List (Nat × Nat) :=
  let p := tsPairs s o
  (streamType f.codec, 0x100) :: (if p.1 = 0 then [] else [(6, 0x110)]) ++ (if p.2 = 0 then [] else [(6, 0x111)])

/-- The PTS of the audio of the picture captured two periods before (R445). -/
def tsAudioPts (f : ChanCfg) (q : Picture) : Nat :=
  stamp90 f (q.slot - 2 * periodT f + (miniGop f - 1) * periodT f)

/-- What slot `k` of a picture carries, once units 0 to `u` are complete (R417, R418, R445). -/
def tsSlotOf (s : State) (h : Nat) (f : ChanCfg) (o : Nat) (q : Picture) (n u k : Nat) : TsSlot :=
  let res := tsAudioPids s f o
  let used := tsAudioUsed s h f o q
  if k = 0 then .pat
  else if k = 1 then .pmt (tsStreams s f o)
  else if k < 2 + res.1 then (if k < 2 + used.1 then .audio 0 (if k = 2 then some (tsAudioPts f q) else none) else .null)
  else if k < 2 + res.1 + res.2 then
    (if k < 2 + res.1 + used.2 then .audio 1 (if k = 2 + res.1 then some (tsAudioPts f q) else none) else .null)
  else match (tsRuns s f o q n u).find? fun r => decide (r.2.1 ≤ k ∧ k < r.2.1 + r.2.2) with
    | none => .null
    | some r =>
      let pcr := capNs (tsTime f q n k * 27 / 1000) % (300 * 8589934592)
      .video r.1 (if tsHasPcr f q n r.2.1 k then some pcr else none)
        (if r.1 = 0 ∧ k = r.2.1 then some (tsStamps f q) else none)

/-- The datagrams that are complete with unit `u`: those of whose slots the last belongs to it (R418). -/
def tsDatagrams (f : ChanCfg) (n u : Nat) : List Nat :=
  (List.range (n / 7)).filter fun j => decide ((7 * j + 6) * unitsOf f / n = u)

/-- The TS slots of each packet of a unit; none but for transport streams. -/
def unitSlots (s : State) (h : Nat) (f : ChanCfg) (o : Nat) (x : Output) (q : Picture) (u : Nat) : List (List TsSlot) :=
  if x.kind = 6 then
    let n := tsPacketsOf s f o x
    (tsDatagrams f n u).map fun j => (List.range 7).map fun i => tsSlotOf s h f o q n u (7 * j + i)
  else []

/-- Which continuity counter a slot counts in: PAT, PMT, video or an audio PID; null packets count in none. -/
def ccIndex : TsSlot → Option Nat
  | .pat => some 0
  | .pmt _ => some 1
  | .video _ _ _ => some 2
  | .audio k _ => some (3 + k)
  | .null => none

/-- The PID of a slot's packet (R417). -/
def tsPid : TsSlot → Nat
  | .pat => 0
  | .pmt _ => 0x1000
  | .video _ _ _ => 0x100
  | .audio k _ => 0x110 + k
  | .null => 0x1FFF

/-- PID and continuity counter of each TS packet of a datagram, from the counters after it. -/
def tsIds (after : List Nat) (ts : List TsSlot) : List (Nat × Option Nat) :=
  (List.range ts.length).map fun i =>
    let t := ts.getD i .null
    (tsPid t, (ccIndex t).map fun j =>
      (after.getD j 0 + 112 - ((ts.drop i).filter fun u => decide (ccIndex u = some j)).length) % 16)

/-- Continuity counters after some slots (R71, R418). -/
def ccAfter (cc : List Nat) (ts : List TsSlot) : List Nat :=
  (List.range 5).map fun i => (cc.getD i 0 + (ts.filter fun t => decide (ccIndex t = some i)).length) % 16

/-- Launch times and payload bytes of the packets of unit `u` of a picture on an output (DESIGN CHOICE,
assumption log 18). -/
def unitPackets (s : State) (f : ChanCfg) (o : Nat) (x : Output) (mtu : Nat) (q : Picture) (u : Nat) :
    List (Nat × Nat) :=
  let spread (ps : List Nat) : List (Nat × Nat) :=
    ((List.range ps.length).zip ps).map fun e => (launchTime f q.slot u e.1 ps.length, e.2)
  match x.kind with
  | 2 =>
    let ps := pieces (q.units.getD 0 (0, 0)).1 (rawPayload f mtu)
    let n := ps.length
    let gap (k : Nat) : Nat :=
      if x.senderType = some 0 then
        k * f.rateDen * 1000000000 * Config.rActive (picHeight f) / (picNum f * n)
      else k * f.rateDen * 1000000000 * 65536 / (picNum f * n)
    ((List.range n).zip ps).map fun e => (q.slot + ns f.delayNs + gap e.1, e.2)
  | 3 => spread (pieces (q.units.getD u (0, 0)).1 (mtu - 40))
  | 4 => spread ((nalParts f q u).map (nalPackets mtu)).flatten
  | 5 => spread ((nalParts f q u).map (nalPackets mtu)).flatten
  | 6 =>
    let n := tsPacketsOf s f o x
    (tsDatagrams f n u).map fun j => (tsTime f q n (7 * j), 1316)
  | 7 =>
    if u = 0 then
      let anc := match inputOf s f.input with
        | some i => (match i.ring.find? fun p => decide (p.capture = q.slot) with
          | some p => p.anc.map AncPkt.payload
          | none => [])
        | none => []
      [(q.slot + ns f.delayNs, Config.ancBytes anc)]
    else []
  | _ => []

/-- The capture time that an output's packets of a picture carry: an ancillary packet goes with the picture whose
slot it is. -/
def carries (x : Output) (q : Picture) : Nat := if x.kind = 7 then q.slot else q.capture

/-- The RTP timestamp of a capture time (R413). -/
def rtpTimestamp (capture : Nat) : Nat := capNs capture * 9 / 100000 % 4294967296

/-- The destination of one of a channel's legs for a picture (R69, R412). -/
def legDest (c : Chan) (ix capture : Nat) (l : Leg) : Word32 × Nat :=
  match (c.applied.filter fun m =>
      decide (m.index = 0x23 ∧ destLeg m.value = ix ∧ m.effective ≤ capNs capture)).getLast? with
  | some m => (destIp m.value, destPort m.value)
  | none => (l.dstIp, l.dstPort)

/-- The place of a leg among a channel's legs. -/
def legIndex (s : State) (f : ChanCfg) (o i : Nat) : Nat :=
  ((chanLegs s f).findIdx? fun e => decide (e = (o, i))).getD 0

/-- Units of a picture as it is sent: a gateway's picture is one. -/
def unitCount (f : ChanCfg) : Nat := if f.role = .gateway then 1 else unitsOf f

/-- Enters a unit of a picture in the queues of one output. -/
def enqueueOutput (h : Nat) (f : ChanCfg) (q : Picture) (u : Nat) (held mirrored : Bool) (s : State) (o : Nat) :
    State :=
  match outputOf s o with
  | none => s
  | some x =>
    let c := chan s h
    let mtu := match x.legs with | l :: _ => l.mtu | [] => 1500
    let ps := unitPackets s f o x mtu q u
    let n := ps.length
    let cap := carries x q
    let last := lastUnitOf f u || decide (x.kind = 7)
    let ts := unitSlots s h f o x q u
    let ccAt (k : Nat) : List Nat := if x.kind = 6 then ccAfter x.cc (ts.take k).flatten else x.cc
    let pkt (i : Nat) (l : Leg) (e : Nat × Nat × Nat) : Pkt :=
      let d := legDest c (legIndex s f o i) cap l
      { chan := h, output := o, leg := l.leg, capture := q.capture, unit := u, k := e.1, n := n,
        lastUnit := lastUnitOf f u, launch := some e.2.1, enqueued := s.tim.now,
        lineBytes := e.2.2 + 78 + vlanExtra s l.iface, rtpSeq := (x.rtpSeq + e.1) % 65536,
        rtpTs := rtpTimestamp cap, marker := last && decide (e.1 + 1 = n), dstIp := d.1, dstPort := d.2,
        held := held, mirrored := mirrored, bypass := false, ccAfter := ccAt (e.1 + 1),
        ts := ts.getD e.1 [] }
    let s1 := ((List.range x.legs.length).zip x.legs).foldl (fun s e =>
      ((List.range n).zip ps).foldl (fun s p => pushPkt e.2.queue (pkt e.1 e.2 p) s) s) s
    { s1 with outputs := tabSet s1.outputs o { x with rtpSeq := x.rtpSeq + n, cc := ccAt n } }

/-- Whether a channel feeds an SDI output. -/
def feedsSdi (s : State) (f : ChanCfg) : Bool :=
  f.outputs.any fun o => match outputOf s o with
    | some x => decide (x.kind ≤ 1)
    | none => false

/-! ### Mirror records (R454 to R456) -/

/-- The output state of a checkpoint: by output the next RTP sequence number and five continuity counters
(DEDUCED, assumption log 20). -/
def outState (s : State) (f : ChanCfg) : List (Nat × List Nat) :=
  f.outputs.map fun o => match outputOf s o with
    | some x => (x.rtpSeq % 65536, x.cc)
    | none => (0, [0, 0, 0, 0, 0])

/-- The lines of a slice's CTU rows of the picture that a channel codes: the encode source picture, where a path writes it
(R227), the ring picture, or what its active relays. -/
def sourceLines (s : State) (h : Nat) (f : ChanCfg) (capture slice : Nat) : List (Nat × Nat) :=
  let rows := (starts 0 (cfgSlices f)).getD slice (0, 0)
  let n := ctuLines f.codec
  let mine (l : Nat) : Bool := decide (rows.1 * n ≤ l ∧ l < (rows.1 + rows.2) * n)
  match (chan s h).srcPics.find? fun p => decide (p.capture = capture) with
  | some p => [(0, p.content)]
  | none =>
    if (match (chan s h).pix with | some p => p.path.isSome | none => false) then []
    else match inputOf s f.input with
    | none =>
      match group? s h with
      | some g => ((g.relaySeen.filter fun e => decide (e.1 = capNs capture)).map Prod.snd).filter fun l => mine l.1
      | none => []
    | some _ =>
      match sourcePicture s h f capture with
      | none => []
      | some ls => if f.role = .transcode then ls else ls.filter fun l => mine l.1

/-- What the digest of slice 0 covers after the lines: the picture's ancillary packets and the audio routed to
the channel's kind 4 sinks for it. -/
def sourceExtra (s : State) (f : ChanCfg) (capture slice : Nat) : List Nat :=
  if slice ≠ 0 then []
  else
    let anc := match inputOf s f.input with
      | some x => (match x.ring.find? fun p => decide (p.capture = capture) with
        | some p => p.anc.map AncPkt.payload
        | none => [])
      | none => []
    let sinks := s.aud.routes.filter fun r => epKind r.sink = 4 && f.outputs.contains (epUnit r.sink)
    anc ++ (sinks.map fun r =>
      ((tabGet [] s.aud.rings r.src.toNat).filter fun e =>
        decide (frameAt (capNs capture) 48000 ≤ e.1 ∧ e.1 < frameAt (capNs (capture + periodT f)) 48000)).map
          fun e => e.2.1).flatten

/-- The source digest of a slice. -/
def digestOf (s : State) (h : Nat) (f : ChanCfg) (capture slice : Nat) : Nat :=
  Config.sourceDigest (capNs capture) slice (sourceLines s h f capture slice) (sourceExtra s f capture slice)

/-- The requested key picture of a checkpoint: the first picture not yet in coding order that a request made one. -/
def requestedKey (c : Chan) : Nat × Nat :=
  match c.pics.find? fun q => !q.ordered && q.key with
  | some q => (capNs q.capture, q.keyCause)
  | none => (0, 0)

/-- The modification that is pending at a picture: acknowledged, and effective after it (DEDUCED, assumption log 48). -/
def pendingAt (c : Chan) (cap : Nat) : Option PendingMod :=
  (c.applied ++ c.pending.toList).find? fun m => m.acked && decide (cap < m.effective)

/-- The checkpoint after a slice (R455). -/
def checkpointOf (h : Nat) (f : ChanCfg) (c : Chan) (q : Picture) (i : Nat) (outs : List (Nat × List Nat)) :
    Checkpoint :=
  let (plan, floor) := q.plans.getD i (0, false)
  let key := requestedKey c
  let m := pendingAt c (capNs q.capture)
  { format := 1, activeCh := h, lastSlice := decide (i + 1 = f.slices), keyPicture := q.key,
    refreshStart := q.refreshStart, rcFloor := floor, slice := i, slices := f.slices,
    capture := capNs q.capture, codingNo := q.codingNo, gopPos := q.gopPos, gopLen := q.gopLen,
    sliceBytes := q.sliceBytes.getD i 0, pictureBytes := (q.sliceBytes.take (i + 1)).sum, bucketT := q.startT,
    bucketA := q.startA, sinceBp := q.sinceBp, lastKey := q.lastKey, lastHashReset := q.lastHash,
    refreshCol := q.refCol, refreshLeft := q.refLeft, reqKey := key.1, reqKeyCause := key.2,
    modIndex := (m.map PendingMod.index).getD 0, modValue := (m.map PendingMod.value).getD 0,
    modEffective := (m.map PendingMod.effective).getD 0, handoverPeer := c.handoverPeer.getD 0xFFFF,
    handoverPicture := c.handoverPic,
    layerEffective := (List.range 4).map (tabGet 0 c.layers.effective), outputs := outs, plan := plan }

/-- An output's entry in a checkpoint: the next RTP sequence number and five continuity counters in nibbles, padded to 8
bytes. -/
def outBytes (e : Nat × List Nat) : List Nat :=
  u16 e.1 ++ le 6 ((List.range 5).foldl (fun n i => n + e.2.getD i 0 % 16 * 16 ^ i) 0)

/-- The 64 bytes of an output state: eight entries, unused ones 0. -/
def outStateBytes (outs : List (Nat × List Nat)) : List Nat :=
  let bs := (outs.map outBytes).flatten
  (bs ++ List.replicate (64 - bs.length) 0).take 64

/-- A modification's value in a checkpoint: for OUT_DEST the leg, the port and the address. -/
def modBytes (k : Checkpoint) : List Nat :=
  if k.modIndex = 0x23 then u16 (destLeg k.modValue) ++ u16 (destPort k.modValue) ++ u32 (destIp k.modValue).toNat
  else u64 k.modValue

/-- A checkpoint's bytes before its CRC (R455). -/
def checkpointHead (k : Checkpoint) : List Nat :=
  u16 k.format ++ u8 k.activeCh ++
    u8 (k.lastSlice.toNat + 2 * k.keyPicture.toNat + 4 * k.refreshStart.toNat + 8 * k.rcFloor.toNat) ++
    u16 k.slice ++ u16 k.slices ++ u64 k.capture ++ u32 k.codingNo ++ u8 k.gopPos ++ u8 k.gopLen ++ u16 0 ++
    u32 k.sliceBytes ++ u32 k.pictureBytes ++ u64 k.bucketT.fill ++ u64 k.bucketA.fill ++ u64 k.bucketT.rate ++
    u64 k.bucketA.rate ++ u32 k.sinceBp ++ u32 k.lastKey ++ u32 k.lastHashReset ++ u16 k.refreshCol ++
    u16 k.refreshLeft ++ u64 k.reqKey ++ u8 k.reqKeyCause ++ u8 k.modIndex ++ u16 k.handoverPeer ++ u32 0 ++ modBytes k ++
    u64 k.modEffective ++ u64 k.handoverPicture ++
    ((List.range 4).map fun i => u64 (k.layerEffective.getD i 0)).flatten ++ outStateBytes k.outputs ++ le 36 k.plan

/-- A checkpoint's 256 bytes (R455). -/
def checkpointBytes (k : Checkpoint) : List Nat := checkpointHead k ++ u32 (crc32c (checkpointHead k))

/-- Sends the packets of a mirror record on VC1: the slice's bytes with TAG 1, then the checkpoint and the digest with TAG 2
(R454). -/
def sendRecord (dest h : Nat) (k : Checkpoint) (digest : Nat) (s : State) : State :=
  let arg := k.codingNo % 65536 * 65536 + k.slice % 65536
  let p := { blankPkt with type := 8, vc := 1, dest := dest, arg := arg, activity := actMirror h }
  let s1 := if k.sliceBytes = 0 then s else sendRun { p with tag := 1, last := false } k.sliceBytes s
  inject { p with tag := 2, length := 264, received := 264, first := decide (k.sliceBytes = 0),
                  body := .bytes (checkpointBytes k ++ u64 digest) } s1

/-- Sends the mirror record of one slice if the channel is the active of a group that has joined (DEDUCED,
assumption log 20). -/
def mirrorSlice (h : Nat) (f : ChanCfg) (q : Picture) (i : Nat) (outs : List (Nat × List Nat)) (s : State) :
    State :=
  match group? s h with
  | some g =>
    if g.role = 0 ∧ g.joined then
      let k := checkpointOf h f (chan s h) q i outs
      let d := digestOf s h f q.capture i
      sendRecord g.shadow h k d <| traffic (actMirror h) k.sliceBytes
        { s with prt := { s.prt with sentMirror := s.prt.sentMirror ++ [(g.shadow, k, d)] } }
    else s
  | none => s

/-- Mirrors the slices that the entered units now hold: the last with the output state after the unit, the others,
whose unit is not complete without it, with the state before (assumption log 20). -/
def mirrorUnits (h : Nat) (f : ChanCfg) (capture : Nat) (old new : List (Nat × List Nat)) (s : State) : State :=
  match picOf (chan s h) capture with
  | none => s
  | some q =>
    let upTo := slicesIn f q.unitsEnq
    let due := (List.range upTo).drop q.mirrored
    let s1 := due.foldl (fun s i => mirrorSlice h f q i (if i + 1 = upTo then new else old) s) s
    checkYield h (modPic h capture (fun q => { q with mirrored := max q.mirrored upTo }) s1)

/-! ### UNIT_ENQUEUE (R282) -/

/-- The first picture of a channel with units to come: in coding order, for a gateway in order of capture. -/
def nextToSend (c : Chan) (f : ChanCfg) : Option Picture :=
  let open_ := c.pics.filter fun q => decide (q.unitsEnq < unitCount f)
  if f.role = .gateway then open_.head? else firstCoded (open_.filter Picture.ordered)

/-- Whether a unit may enter the queues: it is complete, no boundary of a yield excludes it, and the peer of a
planned handover has CONTINUE. A shadow enters units that records completed, or that it codes itself. -/
def mayEnqueue (s : State) (h : Nat) (f : ChanCfg) (q : Picture) : Bool :=
  let c := chan s h
  let b : Bool := match group? s h with
    | some g => (match g.boundary with
      | some b => decide (g.role = 1) || unitBefore c f b q q.unitsEnq
      | none => true)
    | none => true
  decide (q.unitsEnq < q.units.length) && b && !(c.continueDue && decide (c.state = .starting))

/-- Enters the next complete unit of a channel in the queues of its legs. -/
def enqueueUnit (h : Nat) (s : State) : State :=
  let c := chan s h
  match c.cfg with
  | none => s
  | some f =>
    if !active c.state then s
    else match nextToSend c f with
      | none => s
      | some q =>
        if !mayEnqueue s h f q then s
        else
          let u := q.unitsEnq
          let old := outState s f
          let held := decide (f.role = .shadow)
          let mirrored := held && decide (slicesIn f (u + 1) ≤ q.mirrored)
          let s1 := f.outputs.foldl (enqueueOutput h f q u held mirrored) s
          let s2 := modPic h q.capture (fun q => { q with
            unitsEnq := u + 1, sdiDue := q.sdiDue || (lastUnitOf f u && feedsSdi s f) }) s1
          if f.role = .gateway ∨ held = true then s2
          else mirrorUnits h f q.capture old (outState s2 f) s2

/-! ### CONTINUE (R473) -/

/-- When the last slice before a handover picture is coded, the channel sends CONTINUE with the output state
that follows it (DESIGN CHOICE, assumption log 47). -/
def tryContinue (h : Nat) (s : State) : State :=
  let c := chan s h
  match c.handoverPeer, c.cfg with
  | some peer, some f =>
    if c.continueDue ∧ (c.state = .migrating ∨ (c.state = .stopping ∧ c.startTime < c.handoverPic)) ∧ noMore s h f = true ∧
        c.pics.all (fun q => decide (q.slicesDone = f.slices)) = true then
      let left := (c.pics.map fun q => unitCount f - q.unitsEnq).sum
      let after := (List.range left).foldl (fun s _ => enqueueUnit h s) s
      let s1 := modChan h (fun c => { c with continueDue := false }) s
      sendBytes 9 1 1 peer (outStateBytes (outState after f))
        { s1 with prt := { s1.prt with sentContinue := s1.prt.sentContinue ++ [(peer, h, outState after f)] } }
    else s
  | _, _ => s

/-- A pipeline finishes a slice (R259, R282, R473). -/
def execSliceCoded (cp : Fin 8) (ch : Fin 64) (res : SliceRes) (s : State) : Out :=
  .next (tryContinue ch.val (sliceWork cp.val ch.val res s))

/-! ### Launches (R59, R170, R171, R411, R421, R423, R424) -/

/-- Whether an active's lease has run out: it launches nothing (R462). -/
def fencedOff (s : State) (h : Nat) : Bool :=
  match group? s h with
  | some g => (match g.leaseH with
    | some t => decide (g.role = 0 ∧ t ≤ nowNs s)
    | none => false)
  | none => false

/-- The instant from which a bucket holds a number of tokens, if ever. -/
def tokenInstant (q : Queue) (need : Nat) : Option Nat :=
  if need ≤ q.tokens then some q.tokAt
  else if q.rateKbps = 0 ∨ q.burst * tokScale < need then none
  else some (q.tokAt + ceilDiv (need - q.tokens) q.rateKbps)

/-- When a queue's head becomes eligible. -/
def eligibleAt (q : Queue) (p : Pkt) : Option Nat :=
  let due := p.launch.getD p.enqueued
  if p.bypass then some due else (tokenInstant q (p.lineBytes * tokScale)).map (max due)

/-- The leg that a packet belongs to. -/
def legOfPkt (s : State) (p : Pkt) : Option Leg :=
  match outputOf s p.output with
  | some x => x.legs.find? fun l => decide (l.leg = p.leg)
  | none => none

/-- Whether a leg can send: its interface is up and its address resolved. -/
def legSends (s : State) (p : Pkt) (n : Nat) : Bool :=
  let mac := match legOfPkt s p with
    | some l => isMulticast p.dstIp || l.mac.isSome
    | none => false
  mac && mediaOn s (n / 4) && !s.modes.portsOff.contains (.media (Fin.ofNat 2 (n / 4))) &&
    ifaceExists s n && (mniIf s n).linkUp && (mniIf s n).en

/-- Device time at a media port: its island's local copy, against which it compares launch times (R15, R16). -/
def portNow (s : State) (port : Nat) : Nat := (s.tim.copies.getD port TimeCopy.reset).value

/-- The heads of the queues of an interface that may leave now: eligibility instant, queue and packet. A leg that
cannot send waits for no tokens. -/
def readyHeads (s : State) (n : Nat) : List (Nat × Nat × Pkt) :=
  s.tmg.queues.filterMap fun e =>
    let q := e.2
    if e.1 / 256 = n / 4 ∧ q.iface = n % 4 ∧ q.en then
      match q.entries with
      | [] => none
      | p :: _ =>
        let lease := decide (p.chan < 64) && fencedOff s p.chan
        let at_ := if legSends s p n then eligibleAt q p else some (p.launch.getD p.enqueued)
        match at_ with
        | some t => if !p.held && !lease && decide (t ≤ portNow s (n / 4)) then some (t, e.1, p) else none
        | none => none
    else none

/-- The earliest of some heads; the lower queue number goes first. -/
def earliestHead : List (Nat × Nat × Pkt) → Option (Nat × Nat × Pkt)
  | [] => none
  | x :: xs => match earliestHead xs with
    | none => some x
    | some y => if y.1 < x.1 then some y else some x

/-- Changes the leg that a packet belongs to. -/
def modLeg (p : Pkt) (f : Leg → Leg) (s : State) : State :=
  match outputOf s p.output with
  | none => s
  | some x =>
    let y := { x with legs := x.legs.map fun l => if l.leg = p.leg then f l else l }
    { s with outputs := tabSet s.outputs p.output y }

/-- Line rate of an interface in bits per ns. -/
def lineRate (s : State) (n : Nat) : Nat :=
  match tabGet .absent s.mediaMode (n / 4) with
  | .breakout => 25
  | _ => 100

/-- A picture that has launched in full is counted and leaves the records. -/
def pictureDone (h : Nat) (f : ChanCfg) (s : State) : State :=
  let c := chan s h
  let done (q : Picture) : Bool :=
    decide (f.role ≠ .shadow ∧ q.unitsEnq = unitCount f) && !q.sdiDue &&
      !hasPackets (fun k => ofChan h k && decide (k.capture = q.capture)) s
  let gone := (c.pics.filter done).map Picture.capture
  if gone = [] then s
  else modChan h (fun c => { c with
    launched := c.launched + gone.length, begun := c.begun.filter fun x => !gone.contains x,
    pics := c.pics.filter fun q => !gone.contains q.capture }) s

/-- The end of TAKEOVER: the first unit that no mirror record held has launched (R466; DESIGN CHOICE,
assumption log 47). -/
def endTakeover (h : Nat) (s : State) : State :=
  match group? s h with
  | some g =>
    if g.role = 1 ∧ g.state = 4 then
      let late := (chan s h).late - g.lateAt
      raise evProtTakeover h (u8 1 ++ u8 g.yielded.toNat ++ u16 g.active ++ u32 late ++ u64 (g.grantB.getD 0))
        (endGroup h s)
    else s
  | none => s

/-- What follows once all packets before a planned handover's picture have gone and the peer's launch time of it
is reached (R474): the former active is CONFIGURED, its group ends, and its shadow stops before that picture (DESIGN CHOICE, assumption log 47). -/
def checkHandover (h : Nat) (s : State) : State :=
  let c := chan s h
  match c.handoverPeer, c.cfg with
  | some peer, some f =>
    if c.state = .migrating ∧ !c.continueDue ∧ noMore s h f = true ∧ c.begun = [] ∧
        ns c.handoverPic + ns f.delayNs ≤ s.tim.now then
      finishMigration h peer c.handoverPic .configured (stopGroup h (c.handoverPic - 1) s)
    else s
  | _, _ => s

/-- A takeover whose source lacks a picture ends in FAULTED once what it held has launched (R466). -/
def lostSource (h : Nat) (s : State) : State :=
  match group? s h with
  | some g => if g.sourceLost ∧ hasPackets (ofChan h) s = false then faultChan h s else s
  | none => s

/-- What a channel does when a part of one of its pictures has left, or was discarded at its launch time. -/
def hasLeft (h capture : Nat) (mirrored : Bool) (s : State) : State :=
  let c := chan s h
  match c.cfg with
  | none => s
  | some f =>
    let s1 := modChan h (fun c => { c with newestLaunched := some (max capture (c.newestLaunched.getD 0)) }) s
    let s2 := if c.state = .starting then
        settle (raise evChanRunning h (u64 (capNs (c.firstPic.getD capture))) (toState h .running s1))
      else s1
    let s3 := if mirrored then s2 else endTakeover h s2
    lostSource h (checkHandover h (checkRelease h (checkStop h (pictureDone h f s3))))

/-- The counts of a packet that has left late by so much, in 2^-16 ns (R171, R172; DEDUCED, assumption log 34). -/
def countLate (p : Pkt) (late : Nat) (s : State) : State :=
  if late ≤ ns 1000 then s
  else
    let lateNs := capNs late
    let s1 := modLeg p (fun l => { l with
      late := l.late + 1, lateMax := max l.lateMax lateNs, secLate := l.secLate + 1,
      secMax := max l.secMax lateNs }) s
    if p.chan < 64 then modChan p.chan (fun c => { c with late := c.late + 1 }) s1 else s1

/-- The 12-byte RTP header of a packet of a leg: version 2, no padding, extension or contributing sources (R413). -/
def rtpHeader (l : Leg) (p : Pkt) : List Nat :=
  [0x80, p.marker.toNat * 128 + l.pt % 128] ++ beBytes 2 p.rtpSeq ++ beBytes 4 p.rtpTs ++ beBytes 4 l.ssrc.toNat

/-- A packet as it leaves an interface (R410, R411, R413). -/
def sentOf (s : State) (n now : Nat) (p : Pkt) : Sent :=
  let x := mniIf s n
  let l := legOfPkt s p
  { iface := n, pkt := p, at_ := now,
    mac := if isMulticast p.dstIp then some (multicastMac p.dstIp) else l.bind Leg.mac,
    vlan := if x.vlanEn then some x.vlanId else none,
    dscp := (l.map Leg.dscp).getD 0, ttl := (l.map Leg.ttl).getD 0,
    rtp := (l.map fun l => rtpHeader l p).getD [], ts := tsIds p.ccAfter p.ts }

/-- A packet's first symbol leaves an interface, which its line bytes then occupy. -/
def putOnWire (n : Nat) (p : Pkt) (s : State) : State :=
  let now := portNow s (n / 4)
  let until_ := now + p.lineBytes * 8 * 65536 / lineRate s n
  let out := sentOf s n now p
  { s with tmg := { s.tmg with sent := s.tmg.sent ++ [out]
                               ifBusyUntil := tabSet s.tmg.ifBusyUntil n until_ } }

/-- A packet's bytes are read from the bitstream buffer as it leaves (R422); those of the monitor's route are charged to
activity 256 (R481). -/
def readPkt (n : Nat) (p : Pkt) (s : State) : State :=
  let bytes := p.lineBytes - 78 - vlanExtra s n
  if p.chan < 64 then traffic (actEgress p.chan) bytes s
  else if p.chan = 256 then traffic actMonitor bytes s
  else s

/-- A packet leaves its queue: sent, with tokens and line time, or discarded. -/
def launchPkt (n qn : Nat) (p : Pkt) (s : State) : State :=
  let sends := legSends s p n
  let now := portNow s (n / 4)
  let late := now - p.launch.getD now
  let take (q : Queue) : Queue :=
    let es := q.entries.drop 1
    if sends then
      let have_ := min (q.burst * tokScale) (q.tokens + (now - q.tokAt) * q.rateKbps)
      { q with
        entries := es, tokens := if p.bypass then q.tokens else have_ - p.lineBytes * tokScale
        tokAt := if p.bypass then q.tokAt else now
        curRes := max q.curRes ((now - p.enqueued) / 65536), curLate := max q.curLate (capNs late) }
    else { q with entries := es }
  let s1 := { s with tmg := { s.tmg with queues := tabMod Queue.reset s.tmg.queues qn take } }
  let s2 := if sends then
      countLate p late (putOnWire n p (readPkt n p s1))
    else modLeg p (fun l => { l with discards := l.discards + 1 }) s1
  let s3 := match outputOf s2 p.output with
    | some x =>
      let seq := x.rtpSeq - (x.rtpSeq - (p.rtpSeq + 1)) % 65536
      let y := { x with launchedSeq := max x.launchedSeq seq, launchedCc := p.ccAfter }
      { s2 with outputs := tabSet s2.outputs p.output y }
    | none => s2
  let gone (c : Chan) : Chan :=
    { c with lastLaunch := some (max (c.lastLaunch.getD 0) (p.launch.getD now)) }
  if p.chan < 64 then hasLeft p.chan p.capture p.mirrored (modChan p.chan gone s3) else s3

/-- The bytes of a picture that its SDI outputs send. -/
def sdiBytes (s : State) (f : ChanCfg) (q : Picture) : Nat :=
  (q.units.getD 0 (0, 0)).1 * (f.outputs.filter fun o => match outputOf s o with
    | some x => decide (x.kind ≤ 1)
    | none => false).length

/-- The first words of SDI pictures that are due leave (R420; DESIGN CHOICE, assumption log 46). -/
def sdiLaunch (s : State) : State :=
  handles.foldl (fun s h =>
    let c := chan s h
    match c.cfg with
    | none => s
    | some f =>
      (c.pics.filter fun q => q.sdiDue && decide (q.slot + ns f.delayNs ≤ s.tim.now)).foldl (fun s q =>
        hasLeft h q.capture false (modPic h q.capture (fun q => { q with sdiDue := false })
          (traffic (actEgress h) (sdiBytes s f q) s))) s) s

/-- The head that an interface sends now. -/
def launchOne (n : Nat) (s : State) : State :=
  if s.prt.stopped then s
  else match earliestHead (readyHeads s n) with
    | none => s
    | some (_, qn, p) =>
      if legSends s p n ∧ portNow s (n / 4) < tabGet 0 s.tmg.ifBusyUntil n then s else launchPkt n qn p s

/-- R15, R171. -/
def execPacketLaunch (iface : Fin 8) (s : State) : Out :=
  let s1 := launchOne iface.val s
  .next (handles.foldl (fun s h => checkHandover h s) (if s.prt.stopped then s1 else sdiLaunch s1))

/-- A complete unit enters the queues (R21, R169, R282, R557). -/
def execUnitEnqueue (ch : Fin 64) (s : State) : Out :=
  let s1 := enqueueUnit ch.val s
  .next (if s1.prt.stopped then s1 else sdiLaunch s1)

end Sys2Proof.Machine
end

