-- ==== Sys2Proof/Machine/Prot.lean ====
section
/-! DEFINITION. Machine/Prot.lean: protection groups (R70, R125, R141, R403, R448 to R475): forming and ending a
group, heartbeat frames, the lease and its witness, mirror records as a shadow takes them, takeovers, yields and
planned handovers, and the answers of peers and of the fabric manager. -/

namespace Sys2Proof.Machine

/-! ### PROT.CONFIGURE (R448, R449) -/

/-- The group that a PROT.CONFIGURE describes. Every member counts as heard at its forming. -/
def groupFrom (r : Req) (s : State) : Group :=
  let now := some (nowNs s)
  { role := tlvD r 0x0801 0, active := tlvD r 0x0802 0, shadow := tlvD r 0x0803 0, witness := tlvD r 0x0804 0,
    alts := (List.range 4).map fun i => fieldAt (tlvD r 0x0807 (256 ^ 8 - 1)) (2 * i) 2,
    peerChannel := tlvD r 0x0805 0, source := tlvD r 0x0806 0, state := 0, everProtected := false,
    joined := false, epoch := 0, newWitness := none, triedAlts := 0, leaseH := none, fenced := false,
    activeHeard := now, shadowHeard := now, witnessHeard := now, activeSilent := false,
    shadowSilent := false, witnessSilent := false, activeSend := 0, through := 0, checkpoint := none,
    layersOf := [], suspectAt := none, mirrorBad := false, digestBad := 0, hashWait := false, wasProtected := false, reencoding := false,
    grantB := none, yielded := false, boundary := none, relaySeen := [], digestSec := 0, digestFirst := 0,
    grantKind := 0, leaseReq := none, lateAt := 0, sourceLost := false, unbooked := 0 }

/-- Whether the channel of a request fits the role that it names. -/
def roleFits (s : State) (h role : Nat) : Bool :=
  let c := chan s h
  match c.cfg with
  | none => false
  | some f =>
    if role = 0 then
      decide (f.role = .encode ∨ f.role = .transcode) && decide (c.state = .configured ∨ c.state = .running)
    else decide (f.role = .shadow ∧ c.state = .configured)

/-- PROT.CONFIGURE; `granted` says that the manager has booked the mirror's fabric bytes. -/
def protConfigureWith (granted : Bool) (r : Req) (s : State) : Verdict :=
  let h := r.channel
  let g := groupFrom r s
  let own := if g.role = 0 then g.active else g.shadow
  if 1 < g.role then .err stBadParam 0x0801 []
  else if !roleFits s h g.role then badState s h
  else if (group? s h).isSome then .err stBusy 0 []
  else match (chan s h).cfg with
    | none => badState s h
    | some f => paramsThen
        [(decide (s.fab.valid = false ∨ own ≠ s.fab.node ∨ g.active = g.shadow ∨ g.active = g.witness ∨
            g.shadow = g.witness), 0x0801),
         (decide (511 < g.active), 0x0802), (decide (511 < g.shadow), 0x0803), (decide (511 < g.witness), 0x0804),
         (decide (63 < g.peerChannel), 0x0805),
         (decide (1 < g.source) || decide (g.role = 1 ∧ ¬(g.source = 1 ↔ f.input = 0xFFFF)), 0x0806)]
        (if g.role = 1 then .ok (setGroup h g s) [] false
         else
           let need := mirrorBudgetOf f + if g.source = 1 then relayBudgetOf f else 0
           let c := { (chan s h) with mirrorBudget := mirrorBudgetOf f, fabBudget := need }
           if memBookable s < memBookedBut s h + chanMem c then noRoom 3
           else if granted then .ok (setGroup h g (setChan h c s)) [] false
           else if s.fab.office.isNone then noRoom 4
           else askBooking 0x0801 g.shadow need r s)

def protConfigureWork (r : Req) (s : State) : Verdict :=
  if mustHold r s then holdAdmit 0x0801 r s else protConfigureWith false r s

/-! ### PROT.STATUS (R452, R471) -/

/-- Cp in ns: the luma samples of the largest slice times the encode codec factor, over 2.4 Gsample/s. -/
def sliceNs (f : ChanCfg) : Nat :=
  let big := ((starts 0 (cfgSlices f)).map fun p => lumaOf (encodeWork f) p.1 (p.1 + p.2)).foldl max 0
  ceilDiv (big * factor4 f.codec 0 * 5) 48

/-- The reserve that a group needs, N. -/
def reserveNeed (f : ChanCfg) : Nat := roundUp (max 1600000 (sliceNs f + 300000)) 100000

/-- The protection reserve of a channel, R (R289). -/
def reserveOf (s : State) (f : ChanCfg) : Nat := f.delayNs - minDelay f (inputOf s f.input)

/-- The capture time of the newest checkpoint that a member sent or holds (DEDUCED, assumption log 48). -/
def lastCheckpoint (s : State) (h : Nat) : Nat :=
  match group? s h with
  | none => 0
  | some g =>
    if g.role = 1 then (g.checkpoint.map Checkpoint.capture).getD 0
    else match (s.prt.sentMirror.filter fun e => decide (e.1 = g.shadow ∧ e.2.1.activeCh = h)).getLast? with
      | some e => e.2.1.capture
      | none => 0

def protStatusWork (r : Req) (s : State) : Verdict :=
  let h := r.channel
  let res : List Tlv := match (chan s h).cfg with
    | some f => [tlv 0x0815 8 (reserveOf s f), tlv 0x0816 8 (reserveNeed f)]
    | none => [tlv 0x0815 8 0, tlv 0x0816 8 0]
  .ok s ([tlv 0x0810 1 (groupStateOf s h), tlv 0x0811 8 (lastCheckpoint s h)] ++ res) false

def execProtStatus (r : Req) (s : State) : Out := .next (serve sProtStatus r protStatusWork s)

/-! ### PROT.DISSOLVE (R475) -/

/-- PROT.DISSOLVE: the member that takes it tells the other with a copy of RELEASE (DESIGN CHOICE, assumption log 81). -/
def protDissolveWork (r : Req) (s : State) : Verdict :=
  let h := r.channel
  match group? s h with
  | none => badState s h
  | some g =>
    if g.state = 4 then .err stBusy 0 []
    else if g.role = 0 then .ok (stopGroup h 0 s) [] false
    else
      let s1 := endGroup h (sendLease g.active 9 (leaseMsg h g 0 0 0 0) s)
      .ok (if active (chan s1 h).state then stopAbort h s1 else s1) [] false

def execProtDissolve (r : Req) (s : State) : Out := .next (serve sProtDissolve r protDissolveWork s)

/-! ### The lease on the active (R451, R462, R464) -/

/-- REQUEST to the witness. -/
def requestLease (h : Nat) (s : State) : State :=
  match group? s h with
  | some g => sendLease g.witness 1 (leaseMsg h g 0 0 0 0)
      (setGroup h { g with leaseReq := some (nowNs s) } s)
  | none => s

/-- The hops to a node by the unicast table, if it has a valid entry. -/
def hopsTo (s : State) (n : Nat) : Option Nat :=
  match tabGet? s.fab.ucast n with
  | some v => if bitAt v 7 then some (bitsAt v 8 5) else none
  | none => none

/-- The nearest of some nodes, the lower address on a tie. -/
def nearest (s : State) : List Nat → Option Nat
  | [] => none
  | n :: ns => match hopsTo s n, nearest s ns with
    | none, b => b
    | some _, none => some n
    | some d, some m => if (hopsTo s m).getD 32 < d then some m else some n

/-- The next witness to try: the entries of WITNESS_ALT in order, then the module nearest by HOPCOUNT, other
than the two coding members and the witness that failed (DEDUCED, assumption log 48). -/
def nextWitness (s : State) (g : Group) : Option Nat × Nat :=
  let rest := (List.range 4).filter fun i => decide (g.triedAlts ≤ i ∧ g.alts.getD i 0xFFFF ≠ 0xFFFF)
  match rest with
  | i :: _ => (some (g.alts.getD i 0xFFFF), i + 1)
  | [] =>
    (nearest s ((List.range 512).filter fun n =>
      decide (n ≠ g.active ∧ n ≠ g.shadow ∧ n ≠ g.witness ∧ n ≠ s.fab.node)), 4)

/-- The active chooses a new witness and sends MOVE to the shadow. -/
def moveWitness (h : Nat) (s : State) : State :=
  match group? s h with
  | none => s
  | some g =>
    match nextWitness s g with
    | (none, _) => setGroup h { g with leaseReq := none } s
    | (some w, n) =>
      let g1 := { g with newWitness := some w, triedAlts := n, leaseReq := none }
      let m := { leaseMsg h g1 0 0 0 0 with witness := w, epoch := g.epoch + 1 }
      sendLease g.shadow 7 m (setGroup h g1 s)

/-- The group of a lease message as one coding member holds it: its handle and the group. -/
def groupOfMsg (s : State) (role : Nat) (m : LeaseMsg) : Option (Nat × Group) :=
  let h := if role = 0 then m.activeCh else m.shadowCh
  match group? s h with
  | some g => if g.role = role ∧ g.active = m.activeNode ∧ g.shadow = m.shadowNode then some (h, g) else none
  | none => none

def execWitnessRequestTimeout (ch : Fin 64) (s : State) : Out :=
  match group? s ch.val with
  | some g => match g.leaseReq with
    | some t => if g.role = 0 ∧ t + 1000000 ≤ nowNs s then .next (moveWitness ch.val s) else .next s
    | none => .next s
  | none => .next s

def execRefuse (msg : LeaseMsg) (s : State) : Out :=
  match groupOfMsg s 0 msg with
  | some (h, g) => if msg.witness = g.witness then .next (moveWitness h s) else .next s
  | none => .next s

/-! ### Group state on the shadow (R453) -/

/-- Whether every condition of R453 but Lease and Hearing holds. -/
def replicaOk (s : State) (h : Nat) (g : Group) : Bool :=
  !g.mirrorBad && decide ((chan s h).flag = 0 ∧ g.digestBad = 0) && !g.hashWait && g.checkpoint.isSome

/-- Whether the active holds a lease, as the shadow knows. -/
def leaseHeld (s : State) (g : Group) : Bool :=
  match g.leaseH with
  | some t => decide (nowNs s < t)
  | none => false

/-- The state of a group as its conditions make it. -/
def recheck (h : Nat) (s : State) : State :=
  match group? s h with
  | some g =>
    if g.role = 1 ∧ g.joined ∧ g.state ≠ 4 then
      let s := if g.activeSilent ∧ replicaOk s h g = false then setGroup h { g with wasProtected := false } s else s
      if replicaOk s h g && leaseHeld s g && !g.activeSilent then setGroupState h 2 s
      else setGroupState h (if g.everProtected then 3 else 1) s
    else s
  | none => s

/-- The newest lease runs out: the active launches nothing more (R462), and the shadow's group loses a condition (R453). -/
def execLeaseExpiry (ch : Fin 64) (s : State) : Out :=
  let h := ch.val
  match group? s h with
  | some g => match g.leaseH with
    | some t =>
      if g.role = 0 ∧ g.fenced = false ∧ t ≤ nowNs s then
        let held := (s.tmg.queues.map fun e => (e.2.entries.filter (ofChan h)).length).sum
        .next (raise evProtFenced h ([0, 0, 0, 0] ++ u32 held ++ u64 t) (setGroup h { g with fenced := true } s))
      else .next (recheck h s)
    | none => .next s
  | none => .next s

/-- The held packets that a launched-through time covers are discarded (R463). -/
def dropThrough (h t : Nat) (s : State) : State :=
  match group? s h with
  | some g =>
    if g.role = 1 then
      let t1 := max g.through t
      dropPackets (fun k => ofChan h k && k.held && decide (k.launch.getD 0 ≤ ns t1))
        (setGroup h { g with through := t1 } s)
    else s
  | none => s

/-- A RENEW, at the active or as the shadow's copy. -/
def renewAt (role : Nat) (msg : LeaseMsg) (s : State) : State :=
  match groupOfMsg s role msg with
  | some (h, g) =>
    if msg.epoch = g.epoch ∧ msg.witness = g.witness then
      let t := max msg.timeA (g.leaseH.getD 0)
      let s1 := setGroup h { g with
        leaseH := some t, leaseReq := none, fenced := g.fenced && decide (t ≤ nowNs s) } s
      if role = 1 then recheck h (dropThrough h msg.timeB s1) else s1
    else s
  | none => s

def execRenew (msg : LeaseMsg) (s : State) : Out := .next (renewAt 1 msg (renewAt 0 msg s))

/-! ### MOVE (R464) -/

/-- EV_PROT_WITNESS (DEDUCED, assumption log 48). -/
def evWitness (h old new epoch : Nat) (s : State) : State :=
  raise evProtWitness h (u16 old ++ u16 new ++ u32 epoch) s

def execMove (msg : LeaseMsg) (s : State) : Out :=
  match groupOfMsg s 1 msg with
  | some (h, g) =>
    if g.state = 4 then .next (sendLease g.active 8 { msg with reason := 1 } s)
    else
      let s1 := setGroup h { g with witness := msg.witness, epoch := msg.epoch, witnessSilent := false,
                                    witnessHeard := some (nowNs s) } s
      .next (sendLease g.active 8 { msg with reason := 0 } (evWitness h g.witness msg.witness msg.epoch s1))
  | none => .next s

def execMoveAck (msg : LeaseMsg) (s : State) : Out :=
  match groupOfMsg s 0 msg with
  | some (h, g) =>
    match g.newWitness with
    | none => .next s
    | some w =>
      if msg.reason = 0 ∧ msg.witness = w ∧ msg.epoch = g.epoch + 1 then
        let s1 := setGroup h { g with witness := w, epoch := g.epoch + 1, newWitness := none, witnessSilent := false,
                                      witnessHeard := some (nowNs s) } s
        .next (requestLease h (evWitness h g.witness w (g.epoch + 1) s1))
      else .next (setGroup h { g with newWitness := none } s)
  | none => .next s

/-! ### The witness (R451, R462, R465, R468, R475) -/

def witnessKey (node ch : Nat) : Nat := node * 64 + ch

def setWitness (k : Nat) (w : Witness) (s : State) : State :=
  { s with prt := { s.prt with witnesses := tabSet s.prt.witnesses k w } }

def witness? (s : State) (node ch : Nat) : Option Witness := tabGet? s.prt.witnesses (witnessKey node ch)

/-- The lease message of a witness's entry. -/
def witnessMsg (s : State) (w : Witness) (reason timeA timeB : Nat) : LeaseMsg :=
  { activeNode := w.activeNode, activeCh := w.activeCh, shadowCh := w.shadowCh, shadowNode := w.shadowNode,
    witness := s.fab.node, epoch := w.epoch, slice := 0, reason := reason, timeA := timeA, timeB := timeB }

/-- A REQUEST: a new entry, a newer epoch of one held, or REFUSE. -/
def execRequest (msg : LeaseMsg) (s : State) : Out :=
  let k := witnessKey msg.activeNode msg.activeCh
  let fresh : Witness :=
    { activeNode := msg.activeNode, activeCh := msg.activeCh, shadowNode := msg.shadowNode,
      shadowCh := msg.shadowCh, epoch := msg.epoch, heard := none, heardAt := nowNs s,
      shadowHeardAt := nowNs s, through := 0, lastH := 0, suspected := false, granted := false,
      yielded := false, released := none, silentSince := none, renewedAt := none }
  let refuse (why : Nat) : Out := .next (sendLease msg.activeNode 3 { msg with reason := why } s)
  match tabGet? s.prt.witnesses k with
  | some w =>
    if msg.epoch < w.epoch then refuse 3
    else if s.modes.mode = .ready ∨ s.modes.mode = .operate ∨ s.modes.mode = .dormant then
      if msg.epoch = w.epoch ∧ w.released = none then .next s else .next (setWitness k fresh s)
    else refuse 2
  | none =>
    if s.modes.mode ≠ .ready ∧ s.modes.mode ≠ .operate ∧ s.modes.mode ≠ .dormant then refuse 2
    else if 256 ≤ s.prt.witnesses.length then refuse 1
    else .next (setWitness k fresh s)

/-- Whether so much time (ns) has passed since an instant, or there was none. -/
def since (s : State) (at_ : Option Nat) (n : Nat) : Bool :=
  match at_ with
  | some t => decide (t + n ≤ nowNs s)
  | none => true

/-- RENEW of one entry every 250 us, to the active with a copy to the shadow: while the active was heard in the last 200 us,
nothing was granted but to a yield, and no RELEASE has come (R462). -/
def renewOne (s : State) (e : Nat × Witness) : State :=
  let w := e.2
  match w.heard with
  | none => s
  | some sent =>
    if since s w.renewedAt 250000 = true ∧ nowNs s < w.heardAt + 200000 ∧ (w.granted = false ∨ w.yielded = true) ∧ w.released = none then
      let t := sent + 1000000
      let m := witnessMsg s w 0 t w.through
      sendLease w.shadowNode 2 m (sendLease w.activeNode 2 m (setWitness e.1
        { w with lastH := max w.lastH t, renewedAt := some (nowNs s) } s))
    else s

def execRenewTimer (s : State) : Out :=
  if s.prt.stopped then .next s else .next (s.prt.witnesses.foldl renewOne s)

def execSuspect (msg : LeaseMsg) (s : State) : Out :=
  match witness? s msg.activeNode msg.activeCh with
  | some w =>
    if msg.epoch = w.epoch then
      .next (setWitness (witnessKey msg.activeNode msg.activeCh) { w with suspected := true } s)
    else .next s
  | none => .next s

/-- GRANT to the shadow with a copy to the active, and EV_PROT_TAKEOVER with role 2 and its kind (DESIGN CHOICE,
assumption log 23). -/
def grantEntry (w : Witness) (kind timeB : Nat) (s : State) : State :=
  let m := witnessMsg s w 0 w.lastH timeB
  let s1 := setWitness (witnessKey w.activeNode w.activeCh)
    { w with granted := true, yielded := decide (kind = 1) } s
  raise evProtTakeover noChan (u8 2 ++ u8 kind ++ u16 w.shadowNode ++ u32 0 ++ u64 timeB)
    (sendLease w.activeNode 5 m (sendLease w.shadowNode 5 m s1))

/-- Time B of a GRANT that follows a yield: free at the witness (DESIGN CHOICE, assumption log 23). -/
def execGrantGuardExpiry (node ch : Nat) (s : State) : Out :=
  match witness? s node ch with
  | some w =>
    if w.granted = false ∧ w.suspected = true ∧ w.heardAt + 200000 ≤ nowNs s ∧
        w.lastH + 100000 ≤ nowNs s then .next (grantEntry w 0 w.through s)
    else .next s
  | none => .next s

/-- RELEASE at the witness. -/
def releaseEntry (msg : LeaseMsg) (s : State) : State :=
  match witness? s msg.activeNode msg.activeCh with
  | some w =>
    if msg.epoch = w.epoch then
      setWitness (witnessKey msg.activeNode msg.activeCh) { w with released := some (nowNs s) } s
    else s
  | none => s

/-- A copy of RELEASE at the other coding member: the group ends; a shadow that is not in TAKEOVER stops at the stop picture
that time A names, or with the abort flag where it is 0 (R67, R475; DESIGN CHOICE, assumption log 81). -/
def releaseGroup (msg : LeaseMsg) (s : State) : State :=
  match groupOfMsg s 1 msg with
  | some (h, g) =>
    if g.state = 4 then s
    else
      let s1 := endGroup h s
      if active (chan s1 h).state = false then s1
      else if msg.timeA = 0 then stopAbort h s1
      else stopAt h (some msg.timeA) s1
  | none => match groupOfMsg s 0 msg with
    | some (h, _) => endGroup h (sendRelease h s)
    | none => s

def execRelease (msg : LeaseMsg) (s : State) : Out := .next (releaseGroup msg (releaseEntry msg s))

/-- The entry goes 10 ms after RELEASE, or after both coding members were found silent (R475). -/
def execWitnessEntryFree (node ch : Nat) (s : State) : Out :=
  match witness? s node ch with
  | some w =>
    let past (t : Option Nat) : Bool := match t with
      | some t => decide (t + 10000000 ≤ nowNs s)
      | none => false
    if past w.released || past w.silentSince then
      .next { s with prt := { s.prt with witnesses := tabErase s.prt.witnesses (witnessKey node ch) } }
    else .next s
  | none => .next s

/-! ### Heartbeat frames (R459, R460) -/

/-- The launch time of the first packet of a channel's emission schedule that has not left (2^-16 ns; DEDUCED,
assumption log 21). -/
def firstOpen (s : State) (h : Nat) (f : ChanCfg) : Option Nat :=
  let c := chan s h
  let queued := (s.tmg.queues.map fun e => (e.2.entries.filter (ofChan h)).map fun k => k.launch.getD 0).flatten
  let units := c.pics.filterMap fun q =>
    if q.unitsEnq < unitCount f then some (launchTime f q.slot q.unitsEnq 0 1) else none
  let next := match c.lastBegun with
    | some l => if noMore s h f then [] else [launchTime f (l + periodT f) 0 0 1]
    | none => []
  match queued ++ units ++ next with
  | [] => none
  | x :: xs => some (xs.foldl min x)

/-- The launched-through time of a channel in ns, if a packet has left (R459; assumption log 21). -/
def launchedThrough (s : State) (h : Nat) : Option Nat :=
  let c := chan s h
  match c.cfg, c.lastLaunch with
  | some f, some l => some (capNs (match firstOpen s h f with
      | some t => min l (t - 1)
      | none => l))
  | _, _ => none

/-- The entry of a group that this module codes in. -/
def codingEntry (s : State) (h : Nat) (g : Group) : CroakEntry :=
  let off := match launchedThrough s h with
    | some t => if nowNs s - t < 4290000000 then nowNs s - t else 4294967295
    | none => 4294967295
  { activeNode := g.active, activeCh := activeHandle h g, role := g.role, state := g.state,
    through := if g.role = 0 then off else 0 }

/-- The entry of a group that this module witnesses. -/
def witnessEntry (w : Witness) : CroakEntry :=
  { activeNode := w.activeNode, activeCh := w.activeCh, role := 2,
    state := if w.granted then 4 else 2, through := 0 }

/-- The entries that this module shares with another, ascending by active node and handle. -/
def entriesFor (s : State) (node : Nat) : List CroakEntry :=
  let coding := s.prt.groups.filterMap fun e =>
    if e.2.active = node ∨ e.2.shadow = node ∨ e.2.witness = node then some (codingEntry s e.1 e.2) else none
  let wit := s.prt.witnesses.filterMap fun e =>
    if e.2.activeNode = node ∨ e.2.shadowNode = node then some (witnessEntry e.2) else none
  (coding ++ wit).foldl insertEntry []
where
  /-- Inserts in order. -/
  insertEntry : List CroakEntry → CroakEntry → List CroakEntry
    | [], e => [e]
    | x :: xs, e =>
      if e.activeNode * 64 + e.activeCh < x.activeNode * 64 + x.activeCh then e :: x :: xs
      else x :: insertEntry xs e

/-- Cuts entries into frames of at most 64. -/
def frames64 : Nat → List CroakEntry → List (List CroakEntry)
  | 0, _ => []
  | _ + 1, [] => []
  | n + 1, es => es.take 64 :: frames64 n (es.drop 64)

/-- The nodes that share a group with this module. -/
def groupNodes (s : State) : List Nat :=
  let all := (s.prt.groups.map fun e => [e.2.active, e.2.shadow, e.2.witness]).flatten ++
    (s.prt.witnesses.map fun e => [e.2.activeNode, e.2.shadowNode]).flatten
  (List.range 512).filter fun n => decide (n ≠ s.fab.node) && all.contains n

/-- A heartbeat frame's bytes: head and entries (R459). -/
def croakBytes (c : CroakMsg) : List Nat :=
  u16 c.sender ++ u8 c.entries.length ++ u8 c.mode ++ u8 c.part ++ u8 c.parts ++ u16 0 ++ u64 c.sendTime ++
    (c.entries.map fun e =>
      u16 e.activeNode ++ u8 e.activeCh ++ u8 e.role ++ u8 e.state ++ [0, 0, 0] ++ u32 e.through).flatten

/-- Sends a heartbeat frame to a node, a timed packet of type 0x01 (R459). -/
def sendCroak (node : Nat) (c : CroakMsg) (s : State) : State :=
  sendBytes 1 0 0 node (croakBytes c) { s with prt := { s.prt with sentCroak := s.prt.sentCroak ++ [(node, c)] } }

/-- The heartbeat frames to one node in an interval. -/
def croaksFor (s : State) (n : Nat) : List CroakMsg :=
  let fs := frames64 5 (entriesFor s n)
  ((List.range fs.length).zip fs).map fun e =>
    { sender := s.fab.node, mode := modeCode s.modes.mode, part := e.1, parts := fs.length, sendTime := nowNs s, entries := e.2 }

/-- The heartbeat frames of one interval, every 50 us. -/
def execCroakTimer (s : State) : Out :=
  if since s s.prt.croakAt 50000 then
    .next ((groupNodes s).foldl (fun t n => (croaksFor s n).foldl (fun t c => sendCroak n c t) t)
      { s with prt := { s.prt with croakAt := some (nowNs s) } })
  else .next s

/-! ### Re-encoding on the shadow (R465, R466) -/

/-- Whether the shadow's own source holds every picture that it has begun and not yet taken from records. -/
def sourceHolds (s : State) (h : Nat) (g : Group) (f : ChanCfg) : Bool :=
  let c := chan s h
  (c.pics.filter fun q => decide (q.mirrored < f.slices)).all fun q =>
    match inputOf s f.input with
    | some x => x.ring.any fun p => decide (p.capture = q.capture)
    | none => g.relaySeen.any fun e => decide (e.1 = capNs q.capture)

/-- Changes the picture whose capture time is so many ns. -/
def modPicNs (h cap : Nat) (f : Picture → Picture) (s : State) : State :=
  modChan h (fun c => { c with pics := c.pics.map fun q => if capNs q.capture = cap then f q else q }) s

/-- A capture time `k` periods after another, exact but for the last rounding. -/
def periodsFrom (f : ChanCfg) (t : Nat) (k : Int) : Nat :=
  ((t : Int) + k * (f.rateDen * 1000000000 * 65536 : Nat) / (picNum f : Int)).toNat

/-- The capture time of a channel's input nearest an instant, of its pictures and those that its input has passed: active
and shadow take the slots of the same capture times (R21, R284). -/
def captureNear (s : State) (h : Nat) (f : ChanCfg) (at_ : Nat) : Nat :=
  let own := (chan s h).pics.map Picture.capture
  let caps := own ++ match inputOf s f.input with
    | some x => x.passed
    | none => []
  (caps.find? fun c => decide (2 * dist c at_ < periodT f)).getD at_

/-- The pictures of the mini-GOP in progress after a checkpoint's picture take their places in coding order. -/
def resumeGroup (h : Nat) (f : ChanCfg) (k : Checkpoint) (s : State) : State :=
  let order := codingOrder k.gopLen
  let i := order.idxOf k.gopPos
  let here := captureNear s h f (ns k.capture)
  let member (j : Nat) : Nat := captureNear s h f (periodsFrom f here ((j : Int) - k.gopPos))
  let rest := (List.range k.gopLen).drop (i + 1)
  let s1 := rest.foldl (fun s j =>
    match (chan s h).pics.find? fun q => !q.ordered && decide (q.capture = member (order.getD j 1)) with
    | some q => orderOne h f false none (member (j + 1)) (order.getD j 1) k.gopLen q s
    | none => s) s
  modChan h (fun c => { c with sinceKey := c.codingNo - c.lastKey - 1 }) s1

/-- The shadow begins re-encoding from the checkpoint of the newest slice record that it holds. -/
def startReencode (h : Nat) (s : State) : State :=
  match group? s h, (chan s h).cfg with
  | some g, some f =>
    match g.checkpoint with
    | none => s
    | some k =>
      let done : Picture :=
        { Picture.new 0 with startT := k.bucketT, startA := k.bucketA, picBits := 8 * k.pictureBytes }
      let s1 := modChan h (fun c =>
        let c1 := { c with
          bufT := k.bucketT, bufA := k.bucketA, codingNo := k.codingNo + 1, sinceBp := k.sinceBp,
          lastKey := k.lastKey, lastHashReset := k.lastHashReset, refreshCol := k.refreshCol,
          refreshLeft := k.refreshLeft, handoverPic := k.handoverPicture
          handoverPeer := if k.handoverPeer = 0xFFFF then none else some k.handoverPeer }
        if k.lastSlice then bucketsAfter f done (8 * k.pictureBytes) c1 else c1) s
      let s2 := modPicNs h k.reqKey (fun q =>
        if q.ordered ∨ k.reqKey = 0 then q else { q with key := true, keyCause := k.reqKeyCause }) s1
      let s3 := if k.lastSlice then s2
        else modPicNs h k.capture (fun q => { q with
          begun := false, picBits := 8 * k.pictureBytes, prevBits := k.plan / 16,
          stage := k.plan / 4 % 4, stageScope := k.plan % 4, floor := k.rcFloor
          unitBits := if f.latency = .frame ∨ f.latency = .lookahead then 8 * k.pictureBytes else 0 }) s2
      modGroup h (fun g => { g with reencoding := true }) (resumeGroup h f k s3)
  | _, _ => s

/-- The output state of a checkpoint becomes that of a channel's outputs. -/
def setOutputs (f : ChanCfg) (outs : List (Nat × List Nat)) (s : State) : State :=
  ((List.range outs.length).zip outs).foldl (fun s e =>
    match f.outputs[e.1]? with
    | none => s
    | some o => match outputOf s o with
      | some x => { s with outputs := tabSet s.outputs o { x with rtpSeq := e.2.1, cc := e.2.2 } }
      | none => s) s

/-- The units that the first `m` slices of a picture complete. -/
def unitsOfSlices (f : ChanCfg) (m : Nat) : Nat :=
  match f.latency with
  | .ripple => ((cfgSlices f).take m).sum
  | .slice => m
  | .frame => if m = f.slices then 1 else 0
  | .lookahead => if m = f.slices then 1 else 0

/-- A picture as the records alone leave it. -/
def recordsOnly (f : ChanCfg) (q : Picture) : Picture :=
  let n := unitsOfSlices f q.mirrored
  { q with
    ordered := decide (0 < q.mirrored), slicesDone := q.mirrored, sliceBytes := q.sliceBytes.take q.mirrored,
    plans := q.plans.take q.mirrored, units := q.units.take n, unitsEnq := min q.unitsEnq n, results := [],
    issued := [], begun := false }

/-- The shadow discards its re-encoded work (R466). -/
def dropReencode (h : Nat) (s : State) : State :=
  match group? s h, (chan s h).cfg with
  | some g, some f =>
    if !g.reencoding then s
    else
      let s1 := dropPackets (fun k => ofChan h k && k.held && !k.mirrored) s
      let s2 := modChan h (fun c => { c with pics := c.pics.map (recordsOnly f), handoverPeer := none }) s1
      let s3 := { s2 with pipes := s2.pipes.map fun e =>
        (e.1, match e.2.frame with
          | some (x, _, _, _) => if x = h then { e.2 with frame := none, slicesLeft := [] } else e.2
          | none => e.2) }
      let s4 := match g.checkpoint with
        | some k => setOutputs f k.outputs s3
        | none => s3
      setGroup h { g with reencoding := false } s4
  | _, _ => s

/-- Whether the shadow may seek and prepare a takeover (R465). -/
def seeks (s : State) (h : Nat) (g : Group) : Bool :=
  match (chan s h).cfg with
  | some f => g.activeSilent && g.wasProtected && replicaOk s h g && sourceHolds s h g f && decide (g.state ≠ 4)
  | none => false

/-- The shadow finds its active silent. -/
def activeGoesSilent (h : Nat) (s : State) : State :=
  match group? s h with
  | some g =>
    if g.activeSilent then s
    else
      let s1 := setGroup h { g with activeSilent := true, wasProtected := decide (g.state = 2) } s
      match group? s1 h with
      | some g1 => recheck h (if seeks s1 h g1 then startReencode h s1 else s1)
      | none => s1
  | none => s

/-- The shadow hears its active again. -/
def activeHeardAgain (h : Nat) (s : State) : State :=
  recheck h (dropReencode h (modGroup h (fun g => { g with activeSilent := false }) s))

/-- Every 50 us while the active is silent. -/
def execSuspectTimer (s : State) : Out :=
  .next (s.prt.groups.foldl (fun s e =>
    if e.2.role = 1 ∧ seeks s e.1 e.2 = true ∧ since s e.2.suspectAt 50000 = true then
      sendLease e.2.witness 4 (leaseMsg e.1 e.2 0 0 e.2.activeSend 0)
        (setGroup e.1 { e.2 with suspectAt := some (nowNs s) } s)
    else s) s)

/-! ### CROAK and silence (R460, R469) -/

/-- A former active after a silent takeover: stopped as with the abort flag, UNPROTECTED, its tasks cancelled. An
active that yields goes on to its RELEASE. -/
def formerActive (h : Nat) (s : State) : State :=
  match group? s h with
  | some g =>
    if g.yielded then s
    else
      let s1 := endGroup h s
      cancelTasks h (if active (chan s1 h).state then stopAbort h s1 else s1)
  | none => s

/-- What a group's entry in a frame of another member tells a coding member. -/
def hearEntry (c : CroakMsg) (s : State) (e : CroakEntry) : State :=
  let now := some (nowNs s)
  let t := if e.through = 4294967295 then 0 else c.sendTime - e.through
  s.prt.groups.foldl (fun s x =>
    let h := x.1
    let g := x.2
    if g.active ≠ e.activeNode ∨ activeHandle h g ≠ e.activeCh then s
    else if e.role = 0 ∧ g.role = 1 ∧ g.active = c.sender then
      let s1 := setGroup h { g with activeHeard := now, activeSend := max g.activeSend c.sendTime } s
      recheck h (dropThrough h t (if g.activeSilent ∧ g.state ≠ 4 then activeHeardAgain h s1 else s1))
    else if e.role = 1 ∧ g.role = 0 ∧ g.shadow = c.sender then
      let s1 := setGroup h { g with shadowHeard := now, shadowSilent := false } s
      if e.state = 4 then formerActive h s1 else setGroupState h e.state s1
    else if e.role = 2 ∧ g.witness = c.sender then
      setGroup h { g with witnessHeard := now, witnessSilent := false } s
    else s) s

/-- What an entry tells the witness. -/
def hearAsWitness (c : CroakMsg) (s : State) (e : CroakEntry) : State :=
  match witness? s e.activeNode e.activeCh with
  | none => s
  | some w =>
    let k := witnessKey e.activeNode e.activeCh
    if e.role = 0 ∧ w.activeNode = c.sender then
      setWitness k { w with heard := some c.sendTime, heardAt := nowNs s, suspected := false, silentSince := none
                            through := if e.through = 4294967295 then w.through else c.sendTime - e.through } s
    else if e.role = 1 ∧ w.shadowNode = c.sender then
      setWitness k { w with shadowHeardAt := nowNs s, silentSince := none } s
    else s

/-- A coding member finds a node silent in one group. -/
def silentIn (node h : Nat) (s : State) : State :=
  match group? s h with
  | none => s
  | some g =>
    if g.role = 1 ∧ g.active = node then activeGoesSilent h s
    else if g.role = 0 ∧ g.shadow = node then
      if g.shadowSilent then s else setGroupState h 0 (setGroup h { g with shadowSilent := true } s)
    else if g.witness = node then
      if g.witnessSilent then s
      else
        let s1 := setGroup h { g with witnessSilent := true } s
        if g.role = 0 ∧ g.joined then moveWitness h s1 else s1
    else s

/-- When a member last heard a node in a group. -/
def heardFrom (g : Group) (node : Nat) : Nat :=
  let t := if node = g.active then g.activeHeard else if node = g.shadow then g.shadowHeard else g.witnessHeard
  t.getD 0

/-- The groups that a frame's last part should have carried and that its interval lacks. -/
def missedGroups (c : CroakMsg) (s : State) : List Nat :=
  if c.part + 1 ≠ c.parts then []
  else (s.prt.groups.filter fun e =>
    decide ((e.2.active = c.sender ∨ e.2.shadow = c.sender ∨ e.2.witness = c.sender) ∧
      heardFrom e.2 c.sender + 50000 ≤ nowNs s)).map Prod.fst

/-- A witness finds a member silent whose frames of an interval lack its entry; with both coding members silent the entry
begins to end (R460, R475). -/
def missedEntry (c : CroakMsg) (now : Nat) (w : Witness) : Witness :=
  let gone (t : Nat) : Bool := decide (c.part + 1 = c.parts ∧ t + 50000 ≤ now)
  let w1 := if w.activeNode = c.sender ∧ gone w.heardAt = true then { w with heardAt := min w.heardAt (now - 200000) } else w
  let w2 := if w.shadowNode = c.sender ∧ gone w.shadowHeardAt = true then
      { w1 with shadowHeardAt := min w.shadowHeardAt (now - 200000) } else w1
  if w2.heardAt + 200000 ≤ now ∧ w2.shadowHeardAt + 200000 ≤ now ∧ w2.silentSince = none ∧
      (w.activeNode = c.sender ∨ w.shadowNode = c.sender) then { w2 with silentSince := some now } else w2

def execCroak (c : CroakMsg) (s : State) : Out :=
  let s1 := c.entries.foldl (hearAsWitness c) (c.entries.foldl (hearEntry c) s)
  let s2 := { s1 with prt := { s1.prt with
    witnesses := s1.prt.witnesses.map fun e => (e.1, missedEntry c (nowNs s) e.2) } }
  .next ((missedGroups c s2).foldl (fun s h => silentIn c.sender h s) s2)

/-- 200 us without a frame of a node: silent in every group in which that much time has passed (DEDUCED,
assumption log 48). -/
def execSenderSilent (node : Fin 512) (s : State) : Out :=
  let due (t : Nat) : Bool := decide (t + 200000 ≤ nowNs s)
  let hs := (s.prt.groups.filter fun e =>
    decide (e.2.active = node.val ∨ e.2.shadow = node.val ∨ e.2.witness = node.val) &&
      due (heardFrom e.2 node.val)).map Prod.fst
  let s1 := hs.foldl (fun s h => silentIn node.val h s) s
  let mark (w : Witness) : Witness :=
    if (w.activeNode = node.val ∨ w.shadowNode = node.val) ∧ due w.heardAt = true ∧ due w.shadowHeardAt = true ∧
        w.silentSince = none then { w with silentSince := some (nowNs s) } else w
  .next { s1 with prt := { s1.prt with witnesses := s1.prt.witnesses.map fun e => (e.1, mark e.2) } }

/-! ### PROT.JOIN and PROT.SETTING (R70, R141, R450) -/

/-- R476. -/
def protJoinWork (r : Req) (s : State) : Verdict :=
  let h := r.channel
  match group? s h with
  | some g =>
    if g.role ≠ 0 ∨ g.shadow ≠ r.node then badState s h
    else if tlvD r 0x0830 0 ≠ (cfgDigest s h).toNat then .err stBadParam 0x0830 []
    else if tlvD r 0x0831 0 ≠ s.hif.detClass then .err stBadParam 0x0831 []
    else .ok (requestLease h (setGroupState h 1 (setGroup h { g with joined := true } s))) [] false
  | none => badState s h

/-- A refused join changes the group's state on the active; with CHECK_ONLY it does not. -/
def joinRefused (r : Req) (s : State) : State :=
  let h := r.channel
  match group? s h with
  | some g =>
    if s.ctl.fwRunning = false ∨ checkOnly r ∨ (precheck sProtJoin r s).isSome ∨ g.role ≠ 0 ∨ g.shadow ≠ r.node then s
    else if tlvD r 0x0830 0 ≠ (cfgDigest s h).toNat then setGroupState h 0 s
    else if tlvD r 0x0831 0 ≠ s.hif.detClass then setGroupState h 5 s
    else s
  | none => s

def execProtJoin (r : Req) (s : State) : Out := .next (serve sProtJoin r protJoinWork (joinRefused r s))

/-- A shadow takes a forwarded setting no later than one frame period before its effective picture. -/
def protSettingWork (r : Req) (s : State) : Verdict :=
  let h := r.channel
  let c := chan s h
  let e := tlvD r 0x0824 0
  let tags := (r.tlvs.map fun t => baseTag t.tag).filter fun t => settingTags.contains t
  match group? s h, c.cfg, tags with
  | some g, some f, [tag] =>
    if g.role ≠ 1 ∨ g.active ≠ r.node then badState s h
    else if c.pending.isSome then .err stBusy 0 []
    else if e < nowNs s + capNs (periodT f) then .err stTimeout s.fab.node []
    else .ok (pend h true tag (tlvD r tag 0) e s) [] false
  | some _, some _, _ => .err stBadParam 0x0824 []
  | _, _, _ => badState s h

def execProtSetting (r : Req) (s : State) : Out := .next (serve sProtSetting r protSettingWork s)

/-! ### PROT.HANDOVER (R472) -/

/-- What the peer compares of a channel (R472). -/
def handoverCfg (s : State) (f : ChanCfg) : HandoverCfg :=
  { delayNs := f.delayNs, rateNum := f.rateNum, rateDen := f.rateDen
    outputs := f.outputs.map fun o => match outputOf s o with
      | some x => x.kind :: (x.legs.map fun l => [l.dstIp.toNat, l.dstPort, l.srcPort, l.ssrc.toNat, l.pt]).flatten
      | none => [] }

/-- The peer's checks of D, outputs and frame rate against the active's. Where the request does not tell them, whether they
are equal is a free value, 0 for all equal (assumption log 22). -/
def peerMismatch (mine : HandoverCfg) (theirs : Option HandoverCfg) (n : Nat) : Option Nat :=
  match theirs with
  | some x => firstBad
      [(decide (x.delayNs ≠ mine.delayNs), 0x020C), (decide (x.outputs ≠ mine.outputs), 0x0215),
       (decide (x.rateNum * mine.rateDen ≠ mine.rateNum * x.rateDen), 0x0214)]
  | none => match n % 4 with
    | 0 => none
    | 1 => some 0x020C
    | 2 => some 0x0215
    | _ => some 0x0214

/-- PROT.HANDOVER on the peer: it starts its channel at the handover picture and waits for CONTINUE. -/
def peerHandover (r : Req) (s : State) : Verdict :=
  let h := r.channel
  let c := chan s h
  let pic := tlvD r 0x0821 0
  match c.cfg with
  | none => badState s h
  | some f =>
    if c.state ≠ .configured ∨ ¬(f.role = .encode ∨ f.role = .transcode) ∨ anyOff s (chanPorts s f) = true then
      badState s h
    else
      match peerMismatch (handoverCfg s f) r.sender (takeFree s).1 with
      | some t => .err stBadParam t []
      | none =>
        if pic < acceptedAt r s + capNs (periodT f) then .err stBadParam 0x0821 []
        else
          let s1 := startChan h pic (if r.sender.isSome then s else (takeFree s).2)
          .ok (modChan h (fun c => { c with handoverPeer := some r.node, handoverPic := pic, continueDue := true })
            s1) [] false

/-- PROT.HANDOVER on the active: MIGRATING, and the request goes to the peer, whose answer decides. -/
def activeHandover (r : Req) (s : State) : Verdict :=
  let h := r.channel
  let c := chan s h
  let peer := tlvD r 0x0820 0
  let pic := tlvD r 0x0821 0
  match c.cfg with
  | none => badState s h
  | some f =>
    if c.state = .stopping then .err stStopping 0 []
    else if c.state = .migrating then .err stBusy 0 []
    else if c.state ≠ .running then badState s h
    else if 511 < peer ∨ peer = s.fab.node then .err stBadParam 0x0820 []
    else if effectiveBad c f pic then .err stBadParam 0x0821 []
    else
      .wait (modChan h (fun c => { c with handoverPic := pic })
        (awaitPeer peer 0x0803 h (nowNs s + peerLimit) (some r)
          (sendMbxFor (some (handoverCfg s f)) peer 0x0803 h [tlv 0x0820 2 peer, tlv 0x0821 8 pic]
            (toState h .migrating s))))

/-- PROT.HANDOVER: of the host at the active, of the active at its peer (R472; DEDUCED, assumption log 48). -/
def protHandoverWork (r : Req) (s : State) : Verdict :=
  if r.path = .fabric then peerHandover r s else activeHandover r s

def execProtHandover (r : Req) (s : State) : Out := .next (serve sProtHandover r protHandoverWork s)

/-! ### Answers of peers (R125, R141, R450, R472) -/

/-- Takes a wait off the list and answers its request. -/
def endWait (w : PeerWait) (st detail : Nat) (s : State) : State :=
  let s1 := { s with mbx := { s.mbx with peerWaits := s.mbx.peerWaits.erase w } }
  match w.req with
  | some r => answer w.opcode r st detail [] false s1
  | none => s1

/-- A forwarded setting's answer: CHAN.MODIFY is answered under its own opcode; an acknowledgement after the limit comes
too late (R70, R141; DEDUCED, assumption log 48). -/
def settingAnswer (w : PeerWait) (st0 detail0 : Nat) (s : State) : State :=
  let late := decide (w.limit < nowNs s)
  let st := if late then stTimeout else st0
  let detail := if late then w.node else detail0
  let s1 := { s with mbx := { s.mbx with peerWaits := s.mbx.peerWaits.erase w } }
  let s2 := modChan w.channel (fun c =>
    { c with pending := if st = stOk then c.pending.map fun m => { m with acked := true } else none }) s1
  match w.req with
  | some r => answer 0x0204 r st detail [] false s2
  | none => s2

/-- The answer to PROT.JOIN, on the shadow. -/
def joinAnswer (w : PeerWait) (st detail : Nat) (s : State) : State :=
  let h := w.channel
  let s1 := { s with mbx := { s.mbx with peerWaits := s.mbx.peerWaits.erase w } }
  if st = stOk then
    setGroupState h 1 (modChan h (fun c => { c with flag := 1 }) (modGroup h (fun g => { g with joined := true }) s1))
  else setGroupState h (if detail = 0x0831 then 5 else 0) s1

/-- The peer's answer to PROT.HANDOVER: accepted while coding of h has not begun, it takes effect. -/
def handoverAnswer (w : PeerWait) (st detail : Nat) (s : State) : State :=
  let h := w.channel
  let c := chan s h
  let begun : Bool := match lastNs c with
    | some l => decide (c.handoverPic ≤ l)
    | none => false
  if c.state ≠ .migrating then endWait w stTimeout w.node s
  else if st = stOk ∧ begun = false then
    tryContinue h (modChan h (fun c => { c with handoverPeer := some w.node, continueDue := true })
      (endWait w stOk 0 s))
  else failHandover h (if st = stOk then stTimeout else st) detail s

/-- What an answer does, by the opcode that waits (DEDUCED, assumption log 48). -/
def peerAnswer (w : PeerWait) (st detail : Nat) (tlvs : List Tlv) (s : State) : State :=
  if w.opcode = 0x0101 then
    infoAnswer w.node tlvs { s with mbx := { s.mbx with peerWaits := s.mbx.peerWaits.erase w } }
  else if w.opcode = 0x0806 then settingAnswer w st detail s
  else if w.opcode = 0x0805 then joinAnswer w st detail s
  else handoverAnswer w st detail s

def waitFor (s : State) (node opcode channel : Nat) : Option PeerWait :=
  s.mbx.peerWaits.find? fun w => decide (w.node = node ∧ w.opcode = opcode ∧ w.channel = channel)

def execMailboxResponse (node opcode channel : Nat) (result : PeerResult) (tlvs : List Tlv) (s : State) : Out :=
  match waitFor s node opcode channel with
  | some w => .next (peerAnswer w result.status result.detail tlvs s)
  | none => .next s

/-- No answer by the limit: ST_TIMEOUT, with the peer's node (R118). -/
def execPeerCommandTimeout (node opcode channel : Nat) (s : State) : Out :=
  match waitFor s node opcode channel with
  | some w => if w.limit ≤ nowNs s then .next (peerAnswer w stTimeout w.node [] s) else .next s
  | none => .next s

/-! ### MIRROR_RECORD (R450, R454 to R456, R458) -/

/-- Whether a record follows the newest one held. -/
def follows (g : Group) (k : Checkpoint) : Bool :=
  match g.checkpoint with
  | none => true
  | some p =>
    if p.lastSlice then decide (k.codingNo = p.codingNo + 1 ∧ k.slice = 0)
    else decide (k.codingNo = p.codingNo ∧ k.slice = p.slice + 1)

/-- A picture of the shadow for a capture time in ns, added if its own source has not begun it. -/
def ensurePic (h cap : Nat) (s : State) : State :=
  if (chan s h).pics.any fun q => decide (capNs q.capture = cap) then s
  else modChan h (fun c => { c with
    pics := c.pics ++ [Picture.new (ns cap)], begun := c.begun ++ [ns cap],
    lastBegun := some (max (ns cap) (c.lastBegun.getD 0)), firstPic := some (c.firstPic.getD (ns cap)) }) s

/-- The capture time whose slot a record's picture takes, from its place in the mini-GOP. -/
def slotOfRecord (s : State) (h : Nat) (f : ChanCfg) (k : Checkpoint) : Nat :=
  let i := (codingOrder k.gopLen).idxOf k.gopPos
  captureNear s h f (periodsFrom f (captureNear s h f (ns k.capture)) ((i : Int) + 1 - k.gopPos))

/-- What a record adds to its picture. -/
def addRecord (slot : Nat) (rec_ : MirrorRec) (q : Picture) : Picture :=
  let k := rec_.checkpoint
  let d := rec_.decodeFlag.val
  let next := decide (k.slice = q.mirrored)
  { q with
    ordered := true, codingNo := k.codingNo, gopPos := k.gopPos, gopLen := k.gopLen, key := k.keyPicture,
    refreshStart := k.refreshStart, slot := slot, startT := k.bucketT,
    startA := k.bucketA, sinceBp := k.sinceBp, lastKey := k.lastKey, lastHash := k.lastHashReset,
    refCol := k.refreshCol, refLeft := k.refreshLeft, floor := k.rcFloor
    mirrored := if next then q.mirrored + 1 else q.mirrored
    slicesDone := if next then q.mirrored + 1 else q.slicesDone
    sliceBytes := if next then q.sliceBytes ++ [k.sliceBytes] else q.sliceBytes
    plans := if next then q.plans ++ [(k.plan, k.rcFloor)] else q.plans
    units := if next then q.units ++ rec_.units else q.units
    decoded := q.decoded + 1
    flag := if d = 1 ∨ q.flag = 1 then 1 else if d = 2 ∨ q.flag = 2 then 2 else 0 }

/-- The digest of a record against that of the shadow's own slice: a slice that its source has not counts as a
mismatch. -/
def digestMatches (s : State) (h : Nat) (f : ChanCfg) (rec_ : MirrorRec) (capture : Nat) : Bool :=
  !(sourceLines s h f capture rec_.checkpoint.slice).isEmpty &&
    decide (digestOf s h f capture rec_.checkpoint.slice = rec_.digest)

/-- Pictures in which a mismatch counts, Lp. -/
def digestSpan (f : ChanCfg) : Nat := if f.latency = .lookahead then f.lookahead + 1 else 1

/-- The source condition after a record. -/
def digestStep (f : ChanCfg) (k : Checkpoint) (good : Bool) (g : Group) : Group :=
  let left := if k.slice = 0 then g.digestBad - 1 else g.digestBad
  let reset := decide (k.lastHashReset = k.codingNo ∧ k.slice = 0)
  { g with
    digestBad := if good then left else digestSpan f
    hashWait := if good then g.hashWait && !reset else f.hashSearch
    digestSec := if good then g.digestSec else g.digestSec + 1
    digestFirst := if good ∨ 0 < g.digestSec then g.digestFirst else k.capture }

/-- The replica's flag after the last slice of a picture: it clears at a key picture or at the end of a refresh
cycle that decodes clean. -/
def replicaFlag (c : Chan) (f : ChanCfg) (k : Checkpoint) (q : Picture) : Nat :=
  if q.flag ≠ 0 then q.flag
  else if c.flag = 0 then 0
  else if k.keyPicture || (decide (f.latency = .ripple) && decide (k.refreshLeft = 0)) then 0
  else 2

/-- The shadow packetises the units that a record completes, held, with the output state of the checkpoint
before; a unit with no checkpoint before it is not packetised. -/
def holdUnits (h : Nat) (f : ChanCfg) (had : Bool) (k : Checkpoint) (s : State) : State :=
  let c := chan s h
  let s1 := match c.pics.find? fun q => decide (capNs q.capture = k.capture) with
    | some q =>
      if had then (List.range (q.units.length - q.unitsEnq)).foldl (fun s _ => enqueueUnit h s) s
      else modPicNs h k.capture (fun q => { q with unitsEnq := q.units.length }) s
    | none => s
  setOutputs f k.outputs s1

/-- A setting that the shadow acknowledged and that the record of the picture before its effective one does not name was
not applied by the active: the shadow forgets it (R70, R455; DEDUCED, assumption log 48). -/
def confirmMod (h : Nat) (f : ChanCfg) (k : Checkpoint) (s : State) : State :=
  let lost (m : PendingMod) : Bool :=
    decide (k.capture < m.effective ∧ m.effective ≤ k.capture + capNs (periodT f) + 1) &&
      decide (k.modIndex ≠ m.index ∨ k.modEffective ≠ m.effective)
  modChan h (fun c => { c with pending := c.pending.filter fun m => !lost m, applied := c.applied.filter fun m => !lost m }) s

/-- The shadow composes a picture with layers as soon as it holds the checkpoint of its first slice, with the commits that
the checkpoint names (R226). -/
def composeShadow (h capture : Nat) (k : Checkpoint) (s : State) : State :=
  if k.slice ≠ 0 ∨ inserts s h = false then s
  else
    let note (es : List (Nat × List Nat)) : List (Nat × List Nat) :=
      ((k.capture, k.layerEffective) :: es.filter fun e => e.1 ≠ k.capture).take 64
    let s1 := modGroup h (fun g => { g with layersOf := note g.layersOf }) s
    pathPicture h capture 0 (latchLayers h capture s1)

/-- A mirror record that passed its checks. -/
def takeRecord (h : Nat) (f : ChanCfg) (g : Group) (rec_ : MirrorRec) (s : State) : State :=
  let k := rec_.checkpoint
  let seq := follows g k
  let s1 := ensurePic h k.capture (confirmMod h f k s)
  let s2 := modPicNs h k.capture (addRecord (slotOfRecord s1 h f k) rec_) (traffic (actMirror h) k.sliceBytes s1)
  let s3 := holdUnits h f (seq && g.checkpoint.isSome) k s2
  match (chan s3 h).pics.find? fun q => decide (capNs q.capture = k.capture) with
  | none => s3
  | some q =>
    let s3 := composeShadow h q.capture k s3
    let good := digestMatches s3 h f rec_ q.capture
    let clean := k.lastSlice && decide (q.mirrored = f.slices)
    let s4 := modGroup h (fun g => digestStep f k good
      { g with checkpoint := some k, mirrorBad := if clean then false else g.mirrorBad || !seq }) s3
    let s4 := if clean ∧ f.hashSearch then
        insertPicture h f (k.codingNo, sourceContent s4 h f q.capture, k.lastHashReset) s4 else s4
    let s5 := if k.lastSlice then modChan h (fun c => { c with flag := replicaFlag c f k q }) s4 else s4
    let t := match group? s5 h with | some g => g.through | none => 0
    let s6 := dropThrough h t s5
    let s7 := if (chan s6 h).state = .starting then
        settle (raise evChanRunning h (u64 k.capture) (toState h .running s6))
      else s6
    match group? s7 h with
    | some g1 => recheck h (if seeks s7 h g1 then startReencode h s7 else s7)
    | none => s7

/-- R21, R254, R455. -/
def execMirrorRecord (rec_ : MirrorRec) (s : State) : Out :=
  let h := rec_.ch.val
  match group? s h, (chan s h).cfg with
  | some g, some f =>
    if g.role = 1 ∧ g.joined ∧ g.active = rec_.node ∧ g.state ≠ 4 ∧ f.role = .shadow ∧
        active (chan s h).state = true then
      if rec_.intact then .next (takeRecord h f g rec_ (dropReencode h s))
      else .next (recheck h (setGroup h { g with mirrorBad := true } s))
    else .next s
  | _, _ => .next s

/-- A line of the active's source picture (R457). -/
def execSourceRelay (node : Nat) (ch : Fin 64) (capture line digest : Nat) (s : State) : Out :=
  match group? s ch.val with
  | some g =>
    if g.role = 1 ∧ g.active = node ∧ g.source = 1 then
      let old := g.relaySeen.filter fun e => decide (capture < e.1 + 1000000000)
      .next (setGroup ch.val { g with relaySeen := old ++ [(capture, line, digest)] } s)
    else .next s
  | none => .next s

/-! ### Takeovers and yields (R466, R468) -/

/-- The boundary's first launch time in ns. -/
def boundaryLaunch (f : ChanCfg) (b : Nat × Nat) : Nat := capNs (launchTime f b.1 (unitOfSlice f b.2) 0 1)

/-- The held packets after a grant: those whose launch time is at or before B are gone, the others are free, and
those already due leave outside the shaper, whose bucket is full. -/
def releaseHeld (h b : Nat) (s : State) : State :=
  let s1 := dropPackets (fun k => ofChan h k && k.held && k.mirrored && decide (k.launch.getD 0 ≤ ns b)) s
  let free (k : Pkt) : Pkt :=
    if ofChan h k ∧ k.held then { k with held := false, bypass := decide (k.launch.getD 0 ≤ s.tim.now) } else k
  let open_ (q : Queue) : Queue :=
    if q.entries.any (ofChan h) then
      { q with entries := q.entries.map free, tokens := q.burst * tokScale, tokAt := s.tim.now }
    else q
  { s1 with tmg := { s1.tmg with queues := s1.tmg.queues.map fun e => (e.1, open_ e.2) } }

/-- GRANT at the shadow: TAKEOVER; the channel is an ordinary encode from here on (R470), and the capacity that
is unbooked at this moment sets how fast it catches up (R29). A planned handover that the checkpoint names goes
on: the channel stops before its picture (R474; DEDUCED, assumption log 48). -/
def takeOver (h : Nat) (g : Group) (f : ChanCfg) (timeB : Nat) (s : State) : State :=
  let b := match g.boundary with
    | some x => boundaryLaunch f x
    | none => timeB
  let s1 := if g.reencoding then s else startReencode h s
  let holds := sourceHolds s1 h g f
  let u := luTotal s - luBooked s
  let s2 := modGroup h (fun g => { g with
      lateAt := (chan s h).late, grantB := some b, sourceLost := !holds, unbooked := u })
    (setGroupState h 4 s1)
  let s3 := modChan h (fun c => { c with cfg := some { f with role := .encode }
                                         continueDue := c.handoverPeer.isSome }) s2
  let s4 := releaseHeld h b s3
  let s5 := if !holds then dropPackets (fun k => ofChan h k && !k.mirrored) s4 else s4
  let c := chan s5 h
  let s6 := if c.handoverPeer.isSome then stopAt h (some (c.handoverPic - 1)) s5 else s5
  lostSource h s6

def execGrant (msg : LeaseMsg) (s : State) : Out :=
  match groupOfMsg s 1 msg with
  | some (h, g) =>
    match (chan s h).cfg with
    | some f =>
      if msg.epoch = g.epoch ∧ msg.witness = g.witness ∧ g.joined ∧ g.state ≠ 4 then
        .next (takeOver h g f msg.timeB s)
      else .next s
    | none => .next s
  | none => match groupOfMsg s 0 msg with
    | some (h, g) => if msg.epoch = g.epoch then .next (formerActive h s) else .next s
    | none => .next s

/-- YIELD at the shadow names the boundary; the witness grants at once. The message does not carry the boundary's
launch time, so time B of that GRANT is a free value (assumption log 23). -/
def execYield (msg : LeaseMsg) (s : State) : Out :=
  let s1 := match groupOfMsg s 1 msg with
    | some (h, g) => setGroup h { g with boundary := some (ns msg.timeA, msg.slice), yielded := true,
                                         grantKind := msg.reason } s
    | none => s
  match witness? s1 msg.activeNode msg.activeCh with
  | some w =>
    if msg.epoch = w.epoch ∧ w.granted = false then
      let (b, s2) := takeFree s1
      .next (grantEntry w 1 b s2)
    else .next s1
  | none => .next s1

/-! ### Planned handover on the peer (R473) -/

/-- CONTINUE: the peer may packetise its first picture, with the output state that it carries. -/
def execContinue (node : Nat) (ch : Fin 64) (outputs : List (Nat × List Nat)) (s : State) : Out :=
  let h := ch.val
  let c := chan s h
  match c.cfg with
  | some f =>
    if c.state = .starting ∧ c.continueDue ∧ c.handoverPeer = some node then
      .next (setOutputs f outputs (modChan h (fun c => { c with continueDue := false, handoverPeer := none,
                                                                handoverPic := 0 }) s))
    else .next s
  | none => .next s

/-- No CONTINUE at the launch time of the peer's first unit: its work is discarded. -/
def execHandoverContinueDeadline (ch : Fin 64) (s : State) : Out :=
  let h := ch.val
  let c := chan s h
  match c.cfg with
  | some f =>
    if c.state = .starting ∧ c.continueDue ∧ ns c.handoverPic + ns f.delayNs ≤ s.tim.now then
      let peer := c.handoverPeer.getD 0
      .next (evHandover h peer stTimeout (stopAbort h s))
    else .next s
  | none => .next s

end Sys2Proof.Machine
end

