-- ==== Sys2Proof/Machine/Admit.lean ====
section
/-! DEFINITION. Machine/Admit.lean: the admitting commands in the order of their acceptance, and the fabric manager's answer
to a booking (R28, R58, R120, R206, R403). -/

namespace Sys2Proof.Machine

/-- Carries out an admitting command and answers it. -/
def admitNow (granted : Bool) (w : InWork) (s : State) : State :=
  if w.opcode = 0x0801 then serve sProtConfigure w.req (protConfigureWith granted) s
  else if w.opcode = 0x0501 then serve sPixConfigure w.req pixConfigureWith s
  else serveConfigure w.req (configureWith granted) s

/-- The held command that may be carried out next: none while a booking waits, and none before an earlier one. -/
def nextHeld (s : State) : Option InWork :=
  if s.fab.wantBooking.isSome then none else s.mbx.heldAdmits.find? fun w => !earlierAdmit w.req s

/-- Carries out the held commands that may go, until one asks for a booking itself. `fuel` bounds them (DEDUCED,
assumption log 40). -/
def runHeld : Nat → State → State
  | 0, s => s
  | fuel + 1, s =>
    match nextHeld s with
    | some w =>
      runHeld fuel (admitNow false w { s with mbx := { s.mbx with heldAdmits := s.mbx.heldAdmits.erase w } })
    | none => s

/-- What an admitting command leaves runs next. -/
def thenHeld (s : State) : State := runHeld s.mbx.heldAdmits.length s

def execChanConfigure (r : Req) (s : State) : Out := .next (thenHeld (serveConfigure r chanConfigureWork s))

def execPixConfigure (r : Req) (s : State) : Out := .next (thenHeld (serve sPixConfigure r pixConfigureWork s))

def execProtConfigure (r : Req) (s : State) : Out := .next (thenHeld (serve sProtConfigure r protConfigureWork s))

/-- The booking's command after the manager has granted it: a booking that the command does not take on, as with CHECK_ONLY,
is released, and so is the one that it replaces (R58, R403; DESIGN CHOICE, assumption log 58). -/
def bookedNow (w : InWork) (s : State) : State :=
  let h := w.req.channel
  let (dest, bytes) := s.fab.bookingDest
  let old := (chan s h).fabBudget
  let t := admitNow true w s
  let kept := decide ((chan t h).fabBudget = bytes) && !checkOnly w.req
  if !kept then tellManager (.unbook dest bytes) bytes t
  else if 0 < old then tellManager (.unbook dest old) old t
  else t

/-- The booking's command is answered, granted or refused with failing check 4. -/
def bookingDone (granted : Bool) (s : State) : State :=
  match s.fab.wantBooking with
  | none => s
  | some w =>
    let s1 := { s with fab := { s.fab with wantBooking := none } }
    thenHeld (if granted then bookedNow w s1 else answer w.opcode w.req stNoCapacity 4
      (if w.opcode = 0x0201 then [delayTlv w.req s] else []) false s1)

def execBookingAnswer (granted : Bool) (s : State) : Out := .next (bookingDone granted s)

/-- The manager has not answered within 10 ms. -/
def execBookingAnswerTimeout (s : State) : Out :=
  if s.fab.bookingSince + 10000000 ≤ nowNs s then .next (bookingDone false s) else .next s

end Sys2Proof.Machine
end

