-- ==== Sys2Proof/Machine/Claims.lean ====
section
/-! DEFINITION. Machine/Claims.lean: the candidates that a module has heard of, its own claim, and the HELLOs that it sends
(R384 to R386). -/

namespace Sys2Proof.Machine

/-- Whether a candidate is preferred over another: the lower priority, then the lower UID. -/
def preferred (a b : Cand) : Bool :=
  decide (a.priority < b.priority) || (decide (a.priority = b.priority) && decide (a.uid < b.uid))

/-- A candidate heard in the last 3 ms whose epoch advanced in the last 5 ms, below 32 hops. -/
def candLive (s : State) (c : Cand) : Bool :=
  decide (nowNs s < c.heardAt + 3000000 ∧ nowNs s < c.advancedAt + 5000000 ∧ c.distance < 32)

/-- This module as a candidate for itself. -/
def selfCand (s : State) : Cand :=
  { uid := s.fuses.uid, priority := s.fab.priority, epoch := s.fab.epoch, distance := 0, heardAt := nowNs s,
    advancedAt := nowNs s, office := s.fab.manager, node := if s.fab.valid then s.fab.node else 0xFFFF,
    port := 0 }

/-- The live candidates, this module among them unless its priority is 255. -/
def liveCands (s : State) : List Cand :=
  (if s.fab.priority < 255 then [selfCand s] else []) ++ s.fab.cands.filter (candLive s)

/-- The most preferred of some candidates. -/
def bestCand : List Cand → Option Cand
  | [] => none
  | c :: cs => match bestCand cs with
    | none => some c
    | some b => if preferred b c then some b else some c

/-- Whether this module is its own candidate. -/
def ownCandidate (s : State) : Bool :=
  match bestCand (liveCands s) with
  | some c => decide (c.uid = s.fuses.uid)
  | none => false

/-- The election after a change: how long this module has been its own candidate, a manager that leaves office,
and who holds office (R386). -/
def recheckOffice (s : State) : State :=
  let mine := ownCandidate s
  let s1 := { s with fab := { s.fab with
      selfSince := if mine then some (s.fab.selfSince.getD (nowNs s)) else none
      manager := s.fab.manager && mine } }
  let holder := bestCand ((liveCands s1).filter Cand.office)
  { s1 with fab := { s1.fab with office := holder.map fun c => (c.node, c.uid) } }

/-- The HELLO of a port (R384). -/
def helloOf (s : State) (p : Nat) : HelloMsg :=
  let c := (bestCand (liveCands s)).getD (selfCand s)
  { uid := s.fuses.uid, candUid := c.uid, candEpoch := c.epoch,
    node := if s.fab.valid then s.fab.node else 0xFFFF, ifRevMax := revHigh, priority := s.fab.priority,
    candPriority := c.priority, candDistance := c.distance, level := 2, mode := modeCode s.modes.mode,
    port := p, office := c.office }

/-- A HELLO leaves on a port. -/
def sendHello (p : Nat) (s : State) : State :=
  enterPort false none p { blankPkt with tag := 1, length := 32, received := 32, body := .hello (helloOf s p) } s

/-- A HELLO leaves within 10 us of a port's entry to UP or KEEPALIVE. -/
def helloOnUp (p : Nat) (s : State) : State := if linkUp s p then sendHello p s else s

end Sys2Proof.Machine
end

