-- ==== Sys2Proof/Machine/Link.lean ====
section
/-! DEFINITION. Machine/Link.lean: fabric ports and links: bring-up, width, replay, credits, keep-alive and
port-off, and the link delay (R159, R357 to R378, R399). -/

namespace Sys2Proof.Machine

/-! ### Lane sets (R368) -/

/-- The first set of R368 inside both ends' usable lanes; 0 when none qualifies. -/
def bestSet (own peer : Nat) : Nat :=
  let both (l : Nat) : Bool := bitAt own l && bitAt peer l
  if both 0 ∧ both 1 ∧ both 2 ∧ both 3 then 15
  else if both 0 ∧ both 1 then 3
  else if both 2 ∧ both 3 then 12
  else match (List.range 4).find? both with
    | some l => 2 ^ l
    | none => 0

/-- The usable, unretired receive lanes. -/
def usableMap (f : FPort) : Nat :=
  bitmap 4 fun i => let l := f.lanes.getD i Lane.reset; l.usable && l.deskewed && !l.retired

/-- Makes a set the active one. -/
def setActive (m : Nat) (f : FPort) : FPort :=
  { f with lanes := f.lanes.mapIdx fun i l => { l with active := bitAt m i } }

/-- EV_FAB_WIDTH. -/
def evWidth (p old new cause : Nat) (s : State) : State :=
  raise evFabWidth noChan (u8 p ++ u8 old ++ u8 new ++ u8 cause) s

/-- Records a link frame that leaves. -/
def sendLink (kind : Nat) (bs : List Nat) (f : FPort) : FPort := { f with linkSent := f.linkSent ++ [(kind, linkBody bs)] }

/-- A link frame that arrives: one with a bad CRC is discarded and counted (R377). -/
def linkRx (p : Nat) (good : Bool) (act : State → Out) (s : State) : Out :=
  if good then act s
  else if portState s p = 0 then .next s
  else .next (modFport p (fun f => { f with mrkDrop := rcAdd 65535 1 f.mrkDrop }) s)

/-- A width frame goes to the peer: usable receive lanes, proposed set and generation. -/
def sendWidth (f : FPort) : FPort := sendLink 6 (u8 (usableMap f) ++ u8 f.proposed ++ u8 f.generation) f

/-- A port in UP or KEEPALIVE moves to a lane set. -/
def changeWidth (p m cause : Nat) (s : State) : State :=
  let f := fport s p
  if m = 0 then linkLost p 2 s
  else if m = activeMap f then s
  else evWidth p (activeMap f) m cause (setFport p (setActive m f) s)

/-- A port that may no longer use some lane tells its peer, with a new generation, and moves to the next set of
both ends' usable lanes (R369). -/
def narrow (p cause : Nat) (s : State) : State :=
  let f := fport s p
  let m := bestSet (usableMap f) f.peerUsable
  changeWidth p m cause
    (setFport p (sendWidth { f with generation := (f.generation + 1) % 256, proposed := m }) s)

def modLane (p l : Nat) (g : Lane → Lane) (s : State) : State :=
  modFport p (fun f => { f with lanes := f.lanes.modify l g }) s

def laneAt (s : State) (p l : Nat) : Lane := (fport s p).lanes.getD l Lane.reset

/-! ### Bring-up (R364 to R368) -/

/-- The receive island locks to CK. -/
def execCkLock (p : Fin 8) (s : State) : Out :=
  if portState s p.val = 1 then
    .next (modFport p.val (fun f => { f with state := 1, ckLocked := true }) s)
  else .next s

/-- A lane after its sweep: usable with a figure of merit of 64 or more, unless retired. -/
def adapted (fom : Nat) (inv comma : Bool) (l : Lane) : Lane :=
  { l with fom := min 255 fom, polInv := inv, lock := decide (64 ≤ fom), slips := 0, commaOk := comma,
           deskewed := false, usable := decide (64 ≤ fom) && !l.retired }

/-- The state of a port in ALIGN whose firmware has done what it can. -/
def alignState (f : FPort) : Nat :=
  if f.lanes.all fun l => !l.usable then 6
  else if f.lanes.all fun l => !l.usable || l.commaOk then 3
  else 2

/-- Firmware's part of ALIGN; during a restart the port waits (R364). -/
def checkAlign (p : Nat) (s : State) : State :=
  let f := fport s p
  if f.state = 2 ∧ s.ctl.fwRunning = true then
    let n := alignState f
    setFport p { f with state := n, reason := if n = 6 then 2 else f.reason } s
  else s

/-- A lane found unusable at bring-up counts against it (R500, code 10). -/
def countLanes (p : Nat) (bad : List Nat) (s : State) : State :=
  bad.foldl (fun s i => countFault (.lane (Fin.ofNat 8 p) (Fin.ofNat 5 i)) 10 0xFF 0 s) s

/-- The sweeps end: of every lane in a bring-up, of retrained lanes in service. `commas` names the lanes that
have COMMA_OK without a slip (DEDUCED, assumption log 55). -/
def execLaneAdaptDone (p : Fin 8) (foms : List Nat) (inverted commas : List Bool) (s : State) : Out :=
  let n := p.val
  let f := fport s n
  let one (i : Nat) (l : Lane) : Lane := adapted (foms.getD i 0) (inverted.getD i false) (commas.getD i false) l
  let bad (q : Nat → Lane → Bool) : List Nat :=
    (List.range 4).filter fun i => let l := f.lanes.getD i Lane.reset
                                   q i l && !l.retired && decide (foms.getD i 0 < 64)
  if portState s n = 1 ∧ f.ckLocked = true then
    .next (checkAlign n (countLanes n (bad fun _ _ => true)
      (setFport n { f with state := 2, lanes := f.lanes.mapIdx one } s)))
  else if linkUp s n then
    let again (l : Lane) : Bool := !l.active && !l.lock
    .next (countLanes n (bad fun _ l => again l)
      (setFport n { f with lanes := f.lanes.mapIdx fun i l => if again l then one i l else l } s))
  else .next s

/-- A write of FAB_LANE_CTLn: SLIP in bit 31, RETRAIN in bit 30, RETIRE in bit 0; `comma` says whether the
boundary after a slip shows 16 K28.5 symbols. -/
def laneCtlWrite (p l : Nat) (v : Word32) (comma : Bool) (s : State) : State :=
  let x := laneAt s p l
  let s1 := modLane p l (fun x => { x with retired := v.getLsbD 0 }) s
  let s2 := if v.getLsbD 0 ∧ x.active then narrow p 2 s1 else s1
  let s3 := if v.getLsbD 30 ∧ !(laneAt s2 p l).active then
      let s4 := modLane p l idleLane s2
      if portState s4 p = 6 then modFport p (fun f => { f with state := 1 }) s4 else s4
    else s2
  let y := laneAt s3 p l
  if v.getLsbD 31 ∧ y.lock = true ∧ y.active = false then
    let n := min 9 (y.slips + 1)
    checkAlign p (modLane p l (fun x => { x with
      slips := n, commaOk := comma, usable := x.usable && (comma || decide (n < 9)) }) s3)
  else s3

/-- Register writes to FAB_LANE_CTLn come from the control processor data port only. -/
def laneCtl (p l : Nat) (m : Master) (v : Word32) (comma : Bool) (s : State) : State :=
  if m = .cpuData then laneCtlWrite p l v comma s
  else busError m true (regAddr (0x80000 + 0x100 * p + 8 * l)) s

def execSlip (p : Fin 8) (l : Fin 4) (m : Master) (v : Word32) (comma : Bool) (s : State) : Out :=
  .next (laneCtl p.val l.val m v comma s)

def execRetrain (p : Fin 8) (l : Fin 4) (m : Master) (v : Word32) (s : State) : Out :=
  .next (laneCtl p.val l.val m v false s)

def execRetire (p : Fin 8) (l : Fin 4) (m : Master) (v : Word32) (s : State) : Out :=
  .next (laneCtl p.val l.val m v false s)

/-- The least of some numbers. -/
def leastOf : List Nat → Nat
  | [] => 0
  | [a] => a
  | a :: as => min a (leastOf as)

/-- The usable lanes are aligned by their ALN columns: a lane more than 24 symbols behind the earliest is
unusable, and a lane number that is not the lane's own ends the bring-up. The port then sends a width frame. In
service this concerns a retrained lane. -/
def execDeskewDone (p : Fin 8) (lags laneIds : List Nat) (s : State) : Out :=
  let n := p.val
  let s0 := checkAlign n s
  let f := fport s0 n
  let use (l : Lane) : Bool := l.usable && l.commaOk
  let first := leastOf (((List.range 4).filter fun i => use (f.lanes.getD i Lane.reset)).map fun i => lags.getD i 0)
  let one (i : Nat) (l : Lane) : Lane :=
    if use l then
      let ok : Bool := decide (lags.getD i 0 ≤ first + 24)
      { l with usable := ok, deskewed := ok, laneId := laneIds.getD i 0 % 4 }
    else l
  let lanes := f.lanes.mapIdx one
  let crossed := (List.range 4).any fun i => let l := lanes.getD i Lane.reset
                                             l.deskewed && decide (l.laneId ≠ i)
  let f1 := { f with lanes := lanes }
  if portState s0 n = 3 then
    if crossed then .next (setFport n { f1 with state := 6, reason := 3 } s0)
    else .next (setFport n (sendWidth { f1 with
      proposed := bestSet (usableMap f1) (if f.peerUsable = 0 then 15 else f.peerUsable) }) s0)
  else if linkUp s0 n ∧ s.ctl.fwRunning = true then
    .next (setFport n (sendWidth { f1 with
      generation := (f.generation + 1) % 256, proposed := bestSet (usableMap f1) f.peerUsable }) s0)
  else .next s0

/-! ### Power changes (R372 to R374) -/

/-- Sends a power frame. -/
def sendPower (p request accept : Nat) (s : State) : State :=
  modFport p (fun f => { sendLink 7 (u8 request ++ u8 accept ++ u64 s.fuses.uid) f with powerAt := max 1 (nowNs s) }) s

/-- Asks the peer for a power change: keep-alive once every packet is acknowledged. -/
def askPower (p request : Nat) (s : State) : State :=
  let s1 := modFport p (fun f => { f with powerWant := some request, powerAt := 0 }) s
  if request = 1 ∧ (fport s p).replay ≠ [] then s1 else sendPower p request 0 s1

/-- The port enters KEEPALIVE; what waits on VC1 to VC3 goes to other ports. -/
def enterKeep (p : Nat) (s : State) : State :=
  let f := fport s p
  let stay := f.vcq.filter fun e => decide (e.pkt.vc = 0)
  let go := f.vcq.filter fun e => decide (e.pkt.vc ≠ 0)
  helloOnUp p (reroute go (setFport p { f with state := 5, powerWant := none, vcq := stay } s))

/-- Follows an agreed power change. -/
def applyPower (p request : Nat) (s : State) : State :=
  match request with
  | 0 => if portState s p = 5 then enterUp p s else s
  | 1 => if portState s p = 4 then enterKeep p s else s
  | _ => s

/-- The peer has gone to port-off. -/
def peerOff (p : Nat) (s : State) : State :=
  let old := portState s p
  if old = 0 then s else evLink p old 1 (leaveLink p 1 5 s)

/-- A power frame: an answer to this port's request, or the peer's request. Of two different requests in one
microsecond that of the lower UID prevails. A port that is off or absent receives nothing (R4, R363). -/
def powerRx (n request accept uid : Nat) (s : State) : Out :=
  let s0 := modFport n (fun f => { f with peerUid := uid }) s
  let f := fport s0 n
  if portState s n = 0 then .next s
  else if accept = 1 then
    if f.powerWant = some request then
      .next (applyPower n request (modFport n (fun f => { f with powerWant := none }) s0))
    else .next s0
  else if request = 2 then .next (peerOff n s0)
  else
    let mine : Bool := match f.powerWant with
      | some w => decide (w ≠ request ∧ 0 < f.powerAt ∧ nowNs s < f.powerAt + 1000 ∧ s.fuses.uid < uid)
      | none => false
    if mine then .next s0
    else .next (applyPower n request (sendPower n request 1
      (modFport n (fun f => { f with powerWant := none }) s0)))

def execPower (p : FrameAt) (request accept uid : Nat) (s : State) : Out :=
  linkRx p.port.val p.good (powerRx p.port.val request accept uid) s

/-! ### Width frames (R368, R369) -/

/-- A bring-up ends: the port is UP on its set, and goes on to keep-alive where it is to be there. In DORMANT it always
does, as if it had been in UP at the entry (R48, R53; DEDUCED, assumption log 56). -/
def bringUp (p m : Nat) (s : State) : State :=
  let old := portState s p
  let s1 := helloOnUp p (evLink p old 4 (enterUp p (modFport p (setActive m) s)))
  let s2 := if m = 15 then s1 else evWidth p 0 m 4 s1
  let s3 := if s.modes.mode = .dormant then modFport p (fun f => { f with devKeep := true }) s2 else s2
  let f := fport s3 p
  if f.hostKeep || f.devKeep then askPower p 1 s3 else s3

/-- A width frame of the peer. -/
def widthRx (n usable proposed generation : Nat) (s : State) : Out :=
  let s0 := modFport n (fun f => { f with peerUsable := usable % 16 }) s
  let f := fport s0 n
  let m := bestSet (usableMap f) (usable % 16)
  if portState s n = 3 then
    if m = 0 then .next (setFport n { f with state := 6, reason := 2 } s0)
    else
      let s1 := setFport n (sendWidth { f with proposed := m, generation := generation % 256 }) s0
      if proposed = m then .next (bringUp n m s1) else .next s1
  else if linkUp s n then
    let s1 := setFport n { f with generation := generation % 256, proposed := m } s0
    let wider := decide (laneCount (activeMap f) < laneCount m)
    if wider = true ∧ s.ctl.fwRunning = false then .next s1
    else .next (changeWidth n m (if wider then 3 else 1) s1)
  else .next s

def execWidth (p : FrameAt) (usable proposed generation : Nat) (s : State) : Out :=
  linkRx p.port.val p.good (widthRx p.port.val usable proposed generation) s

/-! ### Lanes in service (R365, R369, R371) -/

/-- A lane's measurement of 1 ms: its figure of merit, whether an ALN pair is missing, and its code errors. A
failing active lane leaves the set (DEDUCED, assumption log 55). An absent lane is ignored (R4). -/
def execFomMeasure (p : Fin 8) (l : Fin 4) (fom : Nat) (alnMissing : Bool) (codeErrs : Nat) (s : State) : Out :=
  let n := p.val
  let s1 := modLane n l.val (fun x => { x with
    fom := min 255 fom, codeErr := rcAdd 4294967295 codeErrs x.codeErr }) s
  let x := laneAt s1 n l.val
  if portState s n = 0 then .next s
  else if linkUp s n ∧ x.active = true ∧ (fom < 32 ∨ alnMissing = true ∨ 16 < codeErrs) then
    .next (narrow n 1 (countLanes n [l.val] (modLane n l.val (fun x => { x with usable := false }) s1)))
  else .next s1

/-- Loss of CK: from UP or KEEPALIVE the link is lost; a bring-up starts again, and its third loss in
succession with a lane locked makes the port permanent (R502). -/
def execCkLoss (p : Fin 8) (s : State) : Out :=
  let n := p.val
  let f := fport s n
  if linkUp s n then .next (linkLost n 1 s)
  else if portState s n = 0 then .next s
  else
    let k := if f.lanes.any fun l => l.lock then f.clockLosses + 1 else f.clockLosses
    let s1 := setFport n { f with state := 1, ckLocked := false, lanes := f.lanes.map idleLane,
                                  clockLosses := k, peerUsable := 0 } s
    .next (if 3 ≤ k then becomePermanent (.fabPort p) 1 s1 else s1)

/-! ### Replay (R375 to R377) -/

/-- An ACK leaves with the last link sequence delivered. -/
def sendAck (f : FPort) : FPort := { sendLink 3 (u16 ((f.rxSeq + 65535) % 65536)) f with sinceAck := 0 }

/-- A numbered frame: delivered to the router when it is good and next in sequence; else discarded, with a NAK
unless it was delivered before (DEDUCED, assumption log 55). -/
def execPacketFrameRx (p : Fin 8) (seq : Nat) (good : Bool) (pkt : FabPkt) (s : State) : Out :=
  let n := p.val
  let f := fport s n
  if !linkUp s n then .next s
  else if good = true ∧ seq % 65536 = f.rxSeq then
    let f1 := { f with rxSeq := (f.rxSeq + 1) % 65536, sinceAck := f.sinceAck + 1 }
    .next (routePacket (some n) pkt (setFport n (if 16 ≤ f1.sinceAck then sendAck f1 else f1) s))
  else if good = true ∧ 32768 ≤ (seq % 65536 + 65536 - f.rxSeq) % 65536 then .next s
  else .next (setFport n (sendLink 4 (u16 f.rxSeq) f) s)

/-- An ACK frees the frames up to its sequence, and what waits may go. -/
def ackRx (n seq : Nat) (s : State) : Out :=
  let f := fport s n
  let keep := f.replay.filter fun e => decide (0 < (e.1 + 65536 - seq % 65536) % 65536 ∧
    (e.1 + 65536 - seq % 65536) % 65536 < 32768)
  if !linkUp s n ∨ keep.length = f.replay.length then .next s
  else
    let s1 := setFport n { f with replay := keep, ackedAt := nowNs s, resendsNoAck := 0 } s
    let s2 := if keep.isEmpty ∧ f.powerWant = some 1 ∧ f.powerAt = 0 then sendPower n 1 0 s1 else s1
    .next (pump n s2)

def execAck (p : FrameAt) (seq : Nat) (s : State) : Out := linkRx p.port.val p.good (ackRx p.port.val seq) s

/-- Sends frames of the replay buffer again; after 8 resends with no ACK advance the link is lost instead
(DEDUCED, assumption log 55). -/
def resend (p : Nat) (es : List (Nat × FabPkt)) (s : State) : State :=
  let f := fport s p
  if es.isEmpty then s
  else if 8 ≤ f.resendsNoAck then linkLost p 4 s
  else
    let s1 := setFport p { f with
      resendsNoAck := f.resendsNoAck + 1, ackedAt := nowNs s, replays := rcAdd 65535 1 f.replays
      secResends := f.secResends + 1 } s
    es.foldl (fun s e => useLine p e.2 s)
      { s1 with fab := { s1.fab with sentPkts := s1.fab.sentPkts ++ es.map fun e => (p, e.1, e.2) } }

/-- A NAK: the frames from its sequence on are sent again. -/
def nakRx (n seq : Nat) (s : State) : Out :=
  if linkUp s n then
    .next (resend n ((fport s n).replay.filter fun e =>
      decide ((e.1 + 65536 - seq % 65536) % 65536 < 32768)) s)
  else .next s

def execNak (p : FrameAt) (seq : Nat) (s : State) : Out := linkRx p.port.val p.good (nakRx p.port.val seq) s

/-- A microsecond with frames delivered and not yet acknowledged. -/
def execAckTimer (p : Fin 8) (s : State) : Out :=
  if linkUp s p.val ∧ 0 < (fport s p.val).sinceAck then .next (modFport p.val sendAck s) else .next s

/-- 8 us without an ACK advance while frames are unacknowledged. -/
def execReplayTimeout (p : Fin 8) (s : State) : Out :=
  let f := fport s p.val
  if linkUp s p.val ∧ f.ackedAt + 8000 ≤ nowNs s then .next (resend p.val f.replay s) else .next s

/-! ### Credits (R399) -/

/-- A credit-return frame: the credits freed since the last one come back, and what waits may go. -/
def creditRx (n : Nat) (counts : List Nat) (s : State) : Out :=
  let f := fport s n
  if !linkUp s n then .next s
  else
    let back (i : Nat) : Nat := (counts.getD i 0 % 4096 + 4096 - f.peerCounts.getD i 0) % 4096
    let credits := f.credits.mapIdx fun i c => min (fullCredits.getD i 0) (c + back i)
    .next (pump n (setFport n { f with
      credits := credits, peerCounts := (List.range 8).map fun i => counts.getD i 0 % 4096 } s))

def execCreditReturn (p : FrameAt) (counts : List Nat) (s : State) : Out :=
  linkRx p.port.val p.good (creditRx p.port.val counts) s

/-- A credit-return frame leaves with the counts of credits freed. -/
def execCreditReturnTimer (p : Fin 8) (s : State) : Out :=
  if linkUp s p.val then
    .next (modFport p.val (fun f => sendLink 5 (creditBytes f.freed) f) s)
  else .next s

/-! ### Link delay (R159, R361) -/

/-- A timing request leaves, stamped in units of 0.25 ns. -/
def execLinkTimingExchange (p : Fin 8) (s : State) : Out :=
  if linkUp s p.val then
    .next (modFport p.val (fun f => { sendLink 1 (u8 ((f.timeSeq + 1) % 256)) f with
      timeSeq := (f.timeSeq + 1) % 256, timeT1 := s.tim.now / 16384 }) s)
  else .next s

/-- A timing request arrives, and its response carries the turnaround t3 - t2. -/
def timingAsked (n seq t2 t3 : Nat) (s : State) : Out :=
  if linkUp s n then .next (modFport n (sendLink 2 (u8 seq ++ u32 (t3 - t2))) s) else .next s

def execTimingRequest (p : FrameAt) (seq t2 t3 : Nat) (s : State) : Out :=
  linkRx p.port.val p.good (timingAsked p.port.val seq t2 t3) s

/-- A timing response completes a measurement; the last 16 are kept. -/
def timingAnswered (n seq turnaround t4 : Nat) (s : State) : Out :=
  let f := fport s n
  if linkUp s n ∧ seq = f.timeSeq then
    let ds := f.delays ++ [t4 - f.timeT1 - turnaround]
    .next (setFport n { f with delays := ds.drop (ds.length - 16) } s)
  else .next s

def execTimingResponse (p : FrameAt) (seq turnaround t4 : Nat) (s : State) : Out :=
  linkRx p.port.val p.good (timingAnswered p.port.val seq turnaround t4) s

/-- DELAY_Q: the mean of half the measurements, saturating. -/
def delayQ (f : FPort) : Nat := min 65535 (f.delays.sum / (2 * max 1 f.delays.length))

/-! ### Leaving port-off (R52) -/

/-- Every port that can be in port-off, in the order in which they relock. -/
def relockOrder : List PortRef :=
  ((List.range 8).map fun n => .fab (Fin.ofNat 8 n)) ++ [.media 0, .media 1] ++
    (List.range 8).map fun n => .sdi (Fin.ofNat 8 n)

/-- A fabric port whose turn it is starts its bring-up. -/
def startTurn (s : State) : State :=
  match s.modes.relocking with
  | .fab n :: _ =>
    if (fport s n.val).hostOff then modFport n.val (fun f => { f with hostOff := false, state := 1 }) s else s
  | _ => s

/-- Ports join those that leave port-off, one at a time in the order of R52. -/
def queueRelock (want : PortRef → Bool) (s : State) : State :=
  startTurn { s with modes := { s.modes with
    relocking := relockOrder.filter fun p => s.modes.relocking.contains p || want p } }

/-- A port leaves the queue, and the next one's turn begins. -/
def endTurn (p : PortRef) (s : State) : State :=
  startTurn { s with modes := { s.modes with relocking := s.modes.relocking.filter fun q => decide (q ≠ p) } }

/-! ### FAB.PORT and FAB.STATUS (R52, R54, R372 to R374, R378) -/

/-- Places a port in port-off, or sets it to full or keep-alive; one in port-off waits for its turn to relock. -/
def setPower (p want : Nat) (s : State) : State :=
  let f := fport s p
  let me : PortRef := .fab (Fin.ofNat 8 p)
  match want with
  | 2 =>
    if f.hostOff then endTurn me s
    else
      let s1 := leaveLink p 0 6 (if linkUp s p then sendPower p 2 0 s else s)
      endTurn me (modFport p (fun f => { f with hostOff := true, hostKeep := false }) s1)
  | w =>
    let s1 := setFport p { f with hostKeep := decide (w = 1) } s
    if f.hostOff then queueRelock (fun q => decide (q = me)) s1
    else if (w = 1 ∧ portState s p = 4) ∨ (w = 0 ∧ portState s p = 5) then askPower p w s1 else s1

def fabPortWork (r : Req) (s : State) : Verdict :=
  let p := tlvD r 0x0710 0
  let w := tlvD r 0x0711 0
  if w = 2 ∧ [Mode.ready, .operate, .dormant].contains s.modes.mode = false then badMode s
  else paramsThen [(decide (7 < p), 0x0710), (decide (2 < w), 0x0711)]
    (if !fabOn s p ∨ (w = 2 ∧ (fport s p).devKeep = true) then badMode s
     else .ok (setPower p w s) [] false)

def execFabPort (r : Req) (s : State) : Out := .next (serve sFabPort r fabPortWork s)

/-- The lowest figure of merit among the active lanes; in KEEPALIVE that of the lane that runs. -/
def lowestFom (s : State) (p : Nat) : Nat :=
  let foms := ((fport s p).lanes.filter fun l => l.active).map Lane.fom
  if portState s p = 5 then foms.headD 0 else leastOf foms

/-- PORT_STATE of a port (DEDUCED, assumption log 57). -/
def portReport (s : State) (p : Nat) : List Nat :=
  let f := fport s p
  let off : Bool := decide (portState s p = 0)
  u8 (portState s p) ++ u8 (if off then 0 else activeMap f) ++ u8 f.reason ++
    u8 (if off then 0 else lowestFom s p) ++ u16 (delayQ f) ++ u16 (min 65535 f.lastSecResends)

/-- NODES: the nodes that the unicast table reaches, this one among them (DEDUCED, assumption log 59). -/
def nodeCount (s : State) : Nat :=
  ((List.range 512).filter fun n => let e := tabGet 0 s.fab.ucast n; bitAt e 7 || bitAt e 13).length

def fabStatusWork (_ : Req) (s : State) : Verdict :=
  .ok s [tlvB 0x0701 ((List.range 8).map (portReport s)).flatten,
         tlv 0x0702 2 (match s.fab.office with | some o => o.1 | none => 0xFFFF),
         tlv 0x0703 2 (nodeCount s)] false

def execFabStatus (r : Req) (s : State) : Out := .next (serve sFabStatus r fabStatusWork s)

end Sys2Proof.Machine
end

