-- ==== Sys2Proof/Machine/Dev.lean ====
section
/-! DEFINITION. Machine/Dev.lean: the DEV opcodes for identity, capacity, the ledger report, buffers,
resets, the management port and the GPIO balls (R3, R39, R132 to R136, R334, R344, R490). -/

namespace Sys2Proof.Machine

/-! ### DEV.INFO -/

/-- NODE of DEV.INFO: 0xFFFF until the module holds an address (R382). -/
def nodeReport (s : State) : Nat := if s.fab.valid then s.fab.node else 0xFFFF

def devInfoWork (_ : Req) (s : State) : Verdict :=
  .ok s [tlv 0x0101 8 s.fuses.uid, tlv 0x0102 1 s.fuses.orderCode, tlv 0x0103 2 s.fuses.stepping,
         tlv 0x0104 4 s.hif.fwVersion, tlv 0x0105 2 s.hif.detClass, tlv 0x0106 2 revLow,
         tlv 0x0107 2 revHigh, tlv 0x0108 2 (nodeReport s),
         tlv 0x0109 1 (modeCode s.modes.mode)] false

def execDevInfo (r : Req) (s : State) : Out := .next (serve sDevInfo r devInfoWork s)

/-! ### DEV.CAPACITY (R25, R26, R36, R132) -/

/-- UNITS: one bit per enabled unit. -/
def unitBytes (s : State) : List Nat :=
  (List.range 128).map (fun b => bitmap 8 fun i => cellOn s (8 * b + i)) ++
    [bitmap 8 (regionOn s), bitmap 8 (mcOn s), bitmap 8 (fabOn s), bitmap 2 (mediaOn s),
     bitmap 8 (sdiOn s), bitmap 8 (sapOn s), 0, 0]

/-- A unicast route's primary port, while the entry is valid (R398). -/
def primaryPort (s : State) (node : Nat) : Option Nat :=
  let e := tabGet 0 s.fab.ucast node
  if bitAt e 7 then some (bitsAt e 0 3) else none

/-- Whether a channel's own mirror bytes are booked on a port. -/
def chanOnPort (s : State) (h p : Nat) : Bool :=
  match group? s h with
  | some g => decide (g.role = 0) && decide (primaryPort s g.shadow = some p)
  | none => false

/-- The transit that a manager booked on a port for other nodes (R403). -/
def transitBooked (s : State) (p : Nat) : Nat :=
  ((s.fab.bookings.filter fun b => b.node ≠ s.fab.node && b.ports.contains (s.fab.node, p)).map Booking.bytes).sum

/-- FAB_BOOKED of a port: the module's own channels and transit (R403). -/
def fabBooked (s : State) (p : Nat) : Nat :=
  ((handles.filter fun h => booked (chan s h).state && chanOnPort s h p).map fun h => (chan s h).fabBudget).sum +
    transitBooked s p

/-- The 36 bytes of a list of eight u32. -/
def eightWords (f : Nat → Nat) : List Nat := ((List.range 8).map fun p => u32 (f p)).flatten

def devCapacityWork (_ : Req) (s : State) : Verdict :=
  .ok s [tlv 0x0110 4 (luTotal s), tlv 0x0111 4 (luLimit s), tlv 0x0112 4 (luBooked s),
         tlvB 0x0113 (unitBytes s), tlv 0x0114 8 (memBookable s), tlv 0x0115 8 (memBooked s),
         tlvB 0x0116 (eightWords (fabBookable s)), tlvB 0x0117 (eightWords (fabBooked s))] false

def execDevCapacity (r : Req) (s : State) : Out := .next (serve sDevCapacity r devCapacityWork s)

/-! ### DEV.LEDGER (R39) -/

/-- LEDGER_REC of an activity. -/
def ledgerRec (s : State) (a : Nat) : Tlv :=
  let x := tabGet LedgerRec.zero s.ledger.recs a
  tlvB 0x0122 (u16 a ++ [0, 0] ++ u32 x.throttled ++ u64 x.lastMem ++ u64 x.lastCycles ++
    u64 x.lastFab ++ u32 x.lastHold ++ [0, 0, 0, 0])

/-- The report of activities from ACT_FIRST on; their counts of throttled periods start again. -/
def devLedgerWork (r : Req) (s : State) : Verdict :=
  let a := tlvD r 0x0120 0
  let n := tlvD r 0x0121 0
  paramsThen [(decide (259 < a), 0x0120), (decide (n < 1 ∨ 64 < n), 0x0121)]
    (let acts := (List.range n).filterMap fun i => if a + i ≤ 259 then some (a + i) else none
     let clear (t : Tab LedgerRec) : Tab LedgerRec :=
       t.map fun e => (e.1, if acts.contains e.1 then { e.2 with throttled := 0 } else e.2)
     .ok { s with ledger := { s.ledger with recs := clear s.ledger.recs } }
       (tlv 0x0123 8 s.ledger.lastPeriodStart :: acts.map (ledgerRec s)) false)

def execDevLedger (r : Req) (s : State) : Out := .next (serve sDevLedger r devLedgerWork s)

/-! ### DEV.ALLOC and DEV.FREE (R133, R138, R334, R344, R490) -/

/-- The address for a buffer: the lowest aligned one that overlaps no other buffer (assumption log 14). It
is 1 GiB or the rounded end of some buffer. -/
def placeBuf (s : State) (size : Nat) : Option Nat :=
  let al := if 67108864 ≤ size then 67108864 else 2097152
  let used := s.mem.bufs.map fun e => (e.2.addr, e.2.addr + e.2.size)
  let fits (a : Nat) : Bool :=
    decide (gib ≤ a ∧ a + size ≤ poolEnd s) && used.all fun u => decide (a + size ≤ u.1 ∨ u.2 ≤ a)
  let cands := (gib :: used.map fun u => roundUp u.2 al).filter fits
  match cands with
  | [] => none
  | a :: as => some (as.foldl min a)

/-- Placement of buffers: lowest fit; SIZE 0 gets an empty buffer (DESIGN CHOICE, assumption log 14). -/
def devAllocWork (r : Req) (s : State) : Verdict :=
  let size := roundUp (tlvD r 0x0130 0) 2097152
  match placeBuf s size with
  | none => noRoom 3
  | some a =>
    let b := s.mem.nextBuf
    .ok { s with mem := { s.mem with bufs := tabSet s.mem.bufs b { addr := a, size := size },
                                     nextBuf := b + 1 } }
      [tlv 0x0131 4 b, tlv 0x0132 8 a] false

def execDevAlloc (r : Req) (s : State) : Out := .next (serve sDevAlloc r devAllocWork s)

/-- DEV.FREE. A layer that shows the buffer shows FILL from its next latch instant (R138, R490; DEDUCED,
assumption log 69). -/
def devFreeWork (r : Req) (s : State) : Verdict :=
  let b := tlvD r 0x0131 0
  if (tabGet? s.mem.bufs b).isNone then .err stBadParam 0x0131 []
  else
    .ok { s with mem := { s.mem with bufs := tabErase s.mem.bufs b } } [] false

def execDevFree (r : Req) (s : State) : Out := .next (serve sDevFree r devFreeWork s)

/-! ### DEV.RESTART and DEV.RESET (R134) -/

/-- Whether a request is carried out. -/
def taken (c : CmdSpec) (r : Req) (s : State) : Bool := s.ctl.fwRunning && (precheck c r s).isNone

/-- Delivers the answer of a request before the device acts on it. -/
def deliverNow (r : Req) (s : State) : State :=
  match r.slot with
  | some n => complete n s
  | none => s

/-- DEV.RESTART is answered before the restart that it triggers (R134). -/
def execDevRestart (r : Req) (s : State) : Out :=
  let s1 := serve sDevRestart r (fun _ s => .ok s [] false) s
  .next (if taken sDevRestart r s then triggerRestart 5 (deliverNow r s1) else s1)

def execDevReset (r : Req) (s : State) : Out :=
  let s1 := serve sDevReset r (fun _ s => .ok s [] false) s
  .next (if taken sDevReset r s then resetBoot (deliverNow r s1) else s1)

/-! ### DEV.MGMT (R122, R123, R130, R135): a new key clears the records of the sources -/

/-- DEV.MGMT sets what it carries; a new key forgets the sources' sequence numbers (R135; DEDUCED, assumption log 69). -/
def devMgmtWork (r : Req) (s : State) : Verdict :=
  let dest (v : Nat) : Option (Word32 × Nat) :=
    if v = 0 then none else some (BitVec.ofNat 32 (fieldAt v 0 4), fieldAt v 4 2)
  paramsThen [(decide (fieldAt (tlvD r 0x0144 0) 6 2 ≠ 0), 0x0144)]
    (.ok { s with mbx := { s.mbx with
        ipv4 := match getTlv r 0x0140 with | some v => BitVec.ofNat 32 v | none => s.mbx.ipv4
        netmask := match getTlv r 0x0141 with | some v => BitVec.ofNat 32 v | none => s.mbx.netmask
        udpPort := tlvD r 0x0142 s.mbx.udpPort
        key := match getTlv r 0x0143 with | some v => some (BitVec.ofNat 256 v) | none => s.mbx.key
        sources := if hasTlv r 0x0143 then [] else s.mbx.sources
        evtDest := match getTlv r 0x0144 with | some v => dest v | none => s.mbx.evtDest } } [] false)

def execDevMgmt (r : Req) (s : State) : Out := .next (serve sDevMgmt r devMgmtWork s)

/-! ### DEV.GPIO (R136) -/

/-- The level at every GPIO ball: an output drives its own. -/
def gpioLevel (g : Gpio) : Word32 := (g.out &&& g.dir) ||| (g.inp &&& ~~~g.dir)

/-- Whether KEY_GPI of a configured channel or an AUD.START that waits names a GPIO. -/
def gpioNamed (s : State) (n : Nat) : Bool :=
  (handles.any fun h => match (chan s h).cfg with
    | some c => decide (c.keyGpi = n)
    | none => false) || s.aud.ports.any fun e => decide (e.2.startGpi = some n)

def devGpioWork (r : Req) (s : State) : Verdict :=
  let m : Word32 := BitVec.ofNat 32 (tlvD r 0x0162 0)
  let d : Word32 := BitVec.ofNat 32 (tlvD r 0x0160 0)
  let o : Word32 := BitVec.ofNat 32 (tlvD r 0x0161 0)
  let g := s.gpio
  let clash := (List.range 32).any fun n => m.getLsbD n && d.getLsbD n && gpioNamed s n
  if clash then .err stBadParam 0x0160 []
  else
    .ok { s with gpio := { g with dir := (d &&& m) ||| (g.dir &&& ~~~m),
                                  out := (o &&& m) ||| (g.out &&& ~~~m) } }
      [tlv 0x0163 4 (gpioLevel g).toNat] false

def execDevGpio (r : Req) (s : State) : Out := .next (serve sDevGpio r devGpioWork s)

end Sys2Proof.Machine
end

