-- ==== Sys2Proof/WellFormed.lean ====
section
/-! DEFINITION. WellFormed.lean: the checks that operands of a command must pass to stand for something
the outside world can send. -/

namespace Sys2Proof

/-- A TLV whose tag, length and value fit their fields (R115). -/
def Tlv.wf (t : Tlv) : Bool :=
  decide (t.tag < 65536) && decide (t.len < 65536) && decide (t.val < 256 ^ t.len)

/-- A request whose header fields fit (R113) and whose TLVs fit the payload of 4,064 bytes. -/
def Req.wf (r : Req) : Bool :=
  decide (r.rev < 65536) && decide (r.channel < 65536) && decide (r.node < 512) && r.tlvs.all Tlv.wf &&
    decide ((r.tlvs.map fun t => 4 + (t.len + 3) / 4 * 4).sum ≤ 4064)

/-- A memory request within one 64-byte sector, with as many bytes as it says (R332). -/
def MemReq.wf (r : MemReq) : Bool :=
  decide (0 < r.len) && decide (r.addr % 64 + r.len ≤ 64) && decide (r.activity < 260) &&
    decide (r.port < 75) &&
    match r.data with
    | some d => decide (d.length = r.len)
    | none => true

/-- The CTUs whose decision tasks a decision task waits for: the left neighbour, and the upper-right one or in the last
column the upper one, where they exist (R317). -/
def CtuPlace.preds (p : CtuPlace) : List (Nat × Nat) :=
  (if 0 < p.x then [(p.x - 1, p.y)] else []) ++
    if p.y = 0 then [] else if p.x + 1 < p.cols then [(p.x + 1, p.y - 1)] else [(p.x, p.y - 1)]

/-- The CTUs whose decision tasks wait for it (R317). -/
def CtuPlace.succs (p : CtuPlace) : List (Nat × Nat) :=
  (if p.x + 1 < p.cols then [(p.x + 1, p.y)] else []) ++
    (if p.y + 1 < p.rows ∧ 0 < p.x then [(p.x - 1, p.y + 1)] else []) ++
    if p.y + 1 < p.rows ∧ p.x + 1 = p.cols then [(p.x, p.y + 1)] else []

/-- Whether a descriptor is that of the decision task of a CTU: its dependence count and the number of its successors
are those of R317. -/
def CtuPlace.fits (p : CtuPlace) (d : TaskDesc) : Bool :=
  decide (p.x < p.cols ∧ p.y < p.rows) && decide (d.depCount = p.preds.length) &&
    decide ((d.succ.filter (· ≠ 0xFFFFFFFF)).length = p.succs.length)

/-- A fabric packet whose header fields fit their widths (R392). -/
def FabPkt.wf (p : FabPkt) : Bool :=
  decide (p.dest < 512) && decide (p.src < 512) && decide (p.type < 64) && decide (p.length ≤ 1024) &&
    decide (p.hops < 32) && decide (p.group < 512) && p.route.all (fun x => decide (x < 256))

/-- The operands of a command are well formed. Commands whose operand types already bound them always
are. -/
def Instr.wf : Instr → Bool
  | .devInfo r | .devMode r | .devCapacity r | .devLedger r | .devAlloc r | .devFree r | .devRestart r
  | .devReset r | .devMgmt r | .devPort r | .devGpio r | .chanConfigure r | .chanStart r | .chanStop r
  | .chanModify r | .chanClear r | .chanStatus r | .chanKey r | .inConfigure r | .inClear r
  | .inStatus r | .inPolice r | .outConfigure r | .outClear r | .outStatus r | .pixConfigure r
  | .pixLoad r | .pixLayer r | .pixCommit r | .monConfigure r | .monStart r | .monStop r | .monLayer r
  | .monCommit r | .timeStatus r | .timeConfigure r | .timeSelect r | .timeIo r | .fabStatus r
  | .fabPort r | .fabPriority r | .fabRoute r | .protConfigure r | .protStatus r | .protHandover r
  | .protDissolve r | .protJoin r | .protSetting r | .audPort r | .audStart r | .audStop r
  | .audRoute r | .audStatus r | .hlthStatus r | .hlthFaults r | .hlthSelftest r | .hlthThresh r
  | .fwInfo r | .fwWrite r | .fwActivate r | .fwRollback r | .fwBootflag r => r.wf
  | .mbxSlotMemoryWrite _ _ offset d =>
    decide (0 < d.length) && decide (offset.val % 4096 + d.length ≤ 4096)
  | .memRequest _ as _ => as.all MemReq.wf
  | .submit _ _ d => d.decision.all fun p => p.fits d.desc
  | .routerForward _ p => p.wf
  | .directedRoutePacket _ p => p.wf
  | .packetFrameRx _ seq _ p => decide (seq < 65536) && p.wf
  | .healthSensorUpdate _ rails temps _ => decide (rails.length = 7) && decide (temps.length = 8)
  | .laneAdaptDone _ foms inv commas =>
    decide (foms.length = 4) && decide (inv.length = 4) && decide (commas.length = 4)
  | .deskewDone _ lags ids => decide (lags.length = 4) && decide (ids.length = 4)
  | .creditReturn _ counts => decide (counts.length = 8)
  | .sliceCoded _ _ res => decide (res.formatDiff ≤ 6)
  | .refreshDue _ bank _ => decide (bank < 1024)
  | .blockClockChange _ mhz => decide (800 ≤ mhz) && decide (mhz ≤ 1600) && decide (mhz % 50 = 0)
  | _ => true

end Sys2Proof
end

