-- ==== Sys2Proof/Machine/Tasks.lean ====
section
/-! DEFINITION. Machine/Tasks.lean: the region dispatchers, task slots, join counters, grants, lending, retries
and block clocks (R17, R308 to R331, R500). Cycles of the dispatcher are device time in 2^-16 ns. -/

namespace Sys2Proof.Machine

/-! ### Tables and handles (R310) -/

/-- No task or join. -/
def noHandle : Nat := 0xFFFFFFFF

def handleGen (h : Nat) : Nat := bitsAt h 19 13
def handleRegion (h : Nat) : Nat := bitsAt h 16 3
def handleSlot (h : Nat) : Nat := bitsAt h 0 16
def joinIndex (h : Nat) : Nat := bitsAt h 0 12

def mkHandle (gen r k : Nat) : Nat := gen * 524288 + r * 65536 + k

/-- The region whose dispatcher an issuer reaches. -/
def issuerRegion : TskIssuer → Nat
  | .cell n => n.val / 128
  | .firmware r => r.val

/-- The task that a cell runs, while it is still the one it was granted. -/
def runningTask (s : State) (c : Nat) : Option (Nat × Nat × Task) :=
  match (cellAt s c).task with
  | none => none
  | some (r, k, g) =>
    let t := taskAt s r k
    if t.gen = g ∧ t.inUse then some (r, k, t) else none

/-- The channel for which an issuer works; 0xFF for firmware. -/
def issuerChannel (s : State) : TskIssuer → Nat
  | .cell n => match runningTask s n.val with
    | some (_, _, t) => t.desc.channel
    | none => 0xFF
  | .firmware _ => 0xFF

/-- The attempt in which an issuer works. -/
def issuerAttempt (s : State) : TskIssuer → Nat
  | .cell n => match runningTask s n.val with
    | some (_, _, t) => t.desc.attempt
    | none => 0
  | .firmware _ => 0

/-! ### Ready lists (R313, R316) -/

/-- A task whose counter is 0 and that has been submitted enters its ready list. -/
def enterReady (r k : Nat) (s : State) : State :=
  let t := taskAt s r k
  if t.inUse ∧ t.submitted ∧ t.counter = 0 ∧ !t.inList ∧ t.running.isNone ∧ !t.held then
    noteDepth (listRegion r t)
      (setTask r k { t with inList := true, entered := s.tim.now,
                            ready := some (t.ready.getD s.tim.now) } s)
  else s

/-! ### Descriptors and their traffic (R308, R309, R311) -/

/-- A descriptor's 64 bytes (R311). -/
def descBytes (d : TaskDesc) : List Nat :=
  u16 d.kernel ++ u8 d.channel ++ u8 d.cls.val ++ u16 d.depCount ++ u16 d.affinity ++
    ((List.range 4).map fun i => u32 (d.succ.getD i noHandle)).flatten ++ u32 d.join ++ u16 d.excluded ++
    u8 d.attempt ++ [0] ++ ((List.range 4).map fun i => u64 (d.args.getD i 0)).flatten

/-- Where a slot's descriptor stands in DRAM (R308). -/
def descAddr (r k : Nat) : Nat := 0x10000000 + r * 0x400000 + k * 64

/-- The activity to which the requests of work for a channel are charged, by the attempt that makes them (R309). -/
def workActivity (ch attempt : Nat) : Nat :=
  if 0 < attempt then actRetry else if ch < 64 then actCoding ch else actFirmware

/-- The activity of a task's requests. -/
def taskActivity (t : Task) : Nat := workActivity t.desc.channel t.desc.attempt

/-- A write of a dispatcher to the descriptor table (R311). -/
def descWrite (r k off a : Nat) (bs : List Nat) : MemReq :=
  { addr := descAddr r k + off, len := bs.length, data := some (natBytes bs), activity := a, cls := .cell,
    port := 4 * r, reader := .other }

/-- The fields that the dispatcher itself writes: affinity, excluded and attempt. -/
def noteFields (r k : Nat) (t : Task) (s : State) : State :=
  enqueueReqs [descWrite r k 6 (taskActivity t) (u16 t.desc.affinity),
    descWrite r k 0x1C (taskActivity t) (u16 t.desc.excluded ++ u8 t.desc.attempt)] s

/-- The fetch of a task's descriptor for a cell, by the dispatcher of the cell's region. -/
def descFetch (c home k : Nat) (t : Task) : MemReq :=
  { addr := descAddr home k, len := 64, data := none, activity := taskActivity t, cls := .cell, port := 4 * (c / 128),
    reader := .dispatcher (Fin.ofNat 1024 c) }

/-- Whether a write that a task made has not completed at its controller (R315). -/
def writesPending (s : State) (r k : Nat) : Bool :=
  let mine (q : MemReq) : Bool := q.data.isSome && match q.reader with
    | .task a b => decide (a.val = r ∧ b = k)
    | .blockDma _ a b _ => decide (a.val = r ∧ b = k)
    | _ => false
  s.mem.mcs.any fun e => e.2.queue.any fun x => mine x.req

/-- The dispatcher's port of a cell's local memory, of its three ports (R308). -/
abbrev framePort : Nat := 2

/-- The dispatcher writes a descriptor to a cell's task frame, past the local memory's arbiter (R308, R312, R40). -/
def taskFrame (c : Nat) (bs : List Byte) (s : State) : State :=
  let x := cellAt s c
  match rrGrant x.localPtr 3 (fun k => decide (k = framePort)) with
  | some k => setCell c { x with local_ := memWrites x.local_ 0xFFC0 bs, localPtr := (k + 1) % 3 } s
  | none => s

/-! ### Stale operations (R314, R330) -/

/-- EV_TASK_FAULT. -/
def evTask (reason cell handle kernel attempts : Nat) (s : State) : State :=
  raise evTaskFault noChan
    (u8 reason ++ [0] ++ u16 cell ++ u32 handle ++ u16 kernel ++ u8 attempts) s

/-- An operation that the dispatcher of a region drops: counted, reported, and its channel treated as one
whose task is exhausted. -/
def staleOp (r reason cell handle kernel attempts ch : Nat) (s : State) : State :=
  let d := regionOf s r
  let s1 := evTask reason cell handle kernel attempts
    (setRegion r { d with stale := rcAdd 65535 1 d.stale } s)
  if ch < 64 then exhaustChan ch s1 else s1

/-- One decrement of a task's counter, on behalf of a task of channel `ch` on a cell. -/
def decTask (cell ch h : Nat) (s : State) : State :=
  let r := handleRegion h
  let k := handleSlot h
  let t := taskAt s r k
  if h = noHandle then s
  else if t.gen = handleGen h ∧ t.inUse then
    if t.counter = 0 then staleOp r 3 cell h t.desc.kernel t.desc.attempt ch s
    else enterReady r k (setTask r k { t with counter := t.counter - 1 } s)
  else if t.gen = handleGen h ∧ t.cancelled then s
  else staleOp r 2 cell h 0 0 ch s

/-- A join counter at 0 releases its target once and is free (R318). -/
def releaseJoin (cell ch r k : Nat) (s : State) : State :=
  let j := joinAt s r k
  let s1 := setJoin r k { j with inUse := false } s
  match j.target with
  | .task h => decTask cell ch h s1
  | .band c b row => { s1 with tsk := { s1.tsk with tokens := s1.tsk.tokens ++ [(c, b, row)] } }
  | .firmware => { s1 with tsk := { s1.tsk with joinIrqs := s1.tsk.joinIrqs ++ [mkHandle j.gen r k] } }

/-- One decrement of a join counter. -/
def decJoin (cell ch h : Nat) (s : State) : State :=
  let r := handleRegion h
  let k := joinIndex h
  let j := joinAt s r k
  if h = noHandle then s
  else if j.gen = handleGen h ∧ j.inUse then
    if j.counter = 0 then staleOp r 3 cell h 0 0 ch s
    else
      let s1 := setJoin r k { j with counter := j.counter - 1 } s
      if j.counter = 1 then releaseJoin cell ch r k s1 else s1
  else if j.gen = handleGen h ∧ j.cancelled then s
  else staleOp r 2 cell h 0 0 ch s

/-! ### ALLOC, SUBMIT, JOIN_ALLOC (R312, R313) -/

/-- A free index below `n`: the first from a start up, going round; none when `tries` are all in use (DESIGN
CHOICE, assumption log 27). -/
def freeFrom (inUse : Nat → Bool) (n : Nat) : Nat → Nat → Option Nat
  | 0, _ => none
  | tries + 1, i => if inUse (i % n) then freeFrom inUse n tries (i + 1) else some (i % n)

/-- A failed ALLOC or JOIN_ALLOC. -/
def allocFailed (r : Nat) (s : State) : State :=
  let d := regionOf s r
  returned noHandle (setRegion r { d with allocFail := rcAdd 65535 1 d.allocFail } s)

/-- Which free slot ALLOC takes the spec leaves open: the search starts at a free value (DESIGN CHOICE,
assumption log 27). -/
def execAlloc (by_ : TskIssuer) (count : Nat) (s : State) : Out :=
  let r := issuerRegion by_
  let (n, s1) := takeFree s
  let used := ((regionOf s r).tasks.filter fun e => e.2.inUse).length
  if 65536 ≤ used then .next (allocFailed r s)
  else match freeFrom (fun k => (taskAt s r k).inUse) 65536 (used + 1) n with
    | none => .next (allocFailed r s)
    | some k =>
      let t : Task := { Task.free with gen := ((taskAt s r k).gen + 1) % 8192, inUse := true,
                                       counter := count % 65536,
                                       desc := { taskBlank with channel := issuerChannel s by_ } }
      .next (returned (mkHandle t.gen r k) (setTask r k t s1))

/-- SUBMIT: the descriptor is written and the task may run once its counter is 0 (R313); a decision task is submitted with
the dependences of its CTU (R317): a kernel makes no other (DESIGN CHOICE, assumption log 72). -/
def execSubmit (by_ : TskIssuer) (handle : Nat) (x : Submission) (s : State) : Out :=
  let d := x.desc
  let r := handleRegion handle
  let k := handleSlot handle
  let t := taskAt s r k
  let cell := match by_ with | .cell n => n.val | .firmware _ => 0xFFFF
  if x.decision.any fun p => !p.fits d then .next s
  else if t.gen = handleGen handle ∧ t.inUse ∧ handle ≠ noHandle then
    let d1 := { d with excluded := 0xFFFF, attempt := 0 }
    let s1 := setTask r k { t with submitted := true, desc := d1 } s
    .next (enterReady r k (enqueueReqs
      [descWrite r k 0 (workActivity (issuerChannel s by_) (issuerAttempt s by_)) (descBytes d1)] s1))
  else .next (staleOp r 2 cell handle d.kernel 0 (issuerChannel s by_) s)

/-- Which free counter JOIN_ALLOC takes the spec leaves open, as for ALLOC (DESIGN CHOICE, assumption log 27).
-/
def execJoinAlloc (by_ : TskIssuer) (count : Nat) (target : JoinTarget) (s : State) : Out :=
  let r := issuerRegion by_
  let (n, s1) := takeFree s
  let used := ((regionOf s r).joins.filter fun e => e.2.inUse).length
  if 4096 ≤ used then .next (allocFailed r s)
  else match freeFrom (fun k => (joinAt s r k).inUse) 4096 (used + 1) n with
    | none => .next (allocFailed r s)
    | some k =>
      let j : Join := { gen := ((joinAt s r k).gen + 1) % 8192, inUse := true, counter := count,
                        target := target, channel := issuerChannel s by_, cancelled := false }
      .next (returned (mkHandle j.gen r k) (setJoin r k j s1))

/-! ### TAKE, DONE and CANCEL (R312, R315, R329) -/

/-- A cell with no task waits for one. -/
def takeWork (c : Nat) (s : State) : State :=
  let x := cellAt s c
  if x.task.isSome ∨ x.state = 1 ∨ x.state = 2 ∨ cellsHeld s = true ∨ cellOn s c = false then s
  else setCell c { x with state := 1, takeAt := s.tim.now } s

def execTake (cell : Fin 1024) (s : State) : Out := .next (takeWork cell.val s)

/-- A successor takes the completing cell as its affinity where it has none. -/
def giveAffinity (c h : Nat) (s : State) : State :=
  let r := handleRegion h
  let k := handleSlot h
  let t := taskAt s r k
  if h ≠ noHandle ∧ t.gen = handleGen h ∧ t.inUse ∧ t.submitted ∧ t.desc.affinity = 0xFFFF then
    let t1 := { t with desc := { t.desc with affinity := c } }
    noteFields r k t1 (setTask r k t1 s)
  else s

/-- Whether a cell of a block runs a task. -/
def blockBusy (s : State) (b : Nat) : Bool := (List.range 16).any fun i => (cellAt s (b * 16 + i)).task.isSome

/-- A block that is changing clock relocks within 4 us of its last task's end (R17). -/
def noteIdle (b : Nat) (s : State) : State :=
  let x := blockAt s b
  if x.changing = true ∧ x.relockFrom.isNone = true ∧ blockBusy s b = false then
    setBlock b { x with relockFrom := some s.tim.now } s
  else s

/-- A cell's attempt ends: its time in the period counts as busy, and it runs no task. -/
def endAttempt (c : Nat) (s : State) : State :=
  let x := cellAt s c
  noteIdle (c / 16) (setCell c { x with
    task := none, state := 0
    curBusy := x.curBusy + (s.tim.now - max x.startedAt (ns s.ledger.periodStart)) } s)

/-- DONE: successors, join, affinities, then the slot (R315); a cancelled task frees nothing more. -/
def completeTask (c : Nat) (s : State) : State :=
  match runningTask s c with
  | none => endAttempt c s
  | some (r, k, t) =>
    let ch := t.desc.channel
    let s1 := t.desc.succ.foldl (fun s h => decTask c ch h s) (endAttempt c s)
    let s2 := decJoin c ch t.desc.join s1
    let s3 := t.desc.succ.foldl (fun s h => giveAffinity c h s) s2
    let u := taskAt s3 r k
    if u.gen = t.gen ∧ u.inUse then
      setTask r k { u with inUse := false, submitted := false, running := none, lent := none } s3
    else s3

/-- A CANCEL of the channel whose task a cell runs takes effect first where it reaches the dispatcher in the same cycle as
the cell's DONE (R329; DESIGN CHOICE, assumption log 27). -/
def cancelFirst (c : Nat) (s : State) : State :=
  match runningTask s c with
  | none => s
  | some (_, _, t) =>
    if s.pending.any fun i => match i with
      | .cancel ch => decide (ch.val = t.desc.channel)
      | _ => false
    then cancelTasks t.desc.channel s else s

/-- A cell reports the local-memory errors that it corrected: they count in the period, at most 15 (R331, R355). -/
def noteCorrected (c n : Nat) (s : State) : State :=
  let x := cellAt s c
  setCell c { x with curCorrected := satAdd 15 x.curCorrected n } s

/-- DONE, accepted once every write that the task made has completed (R315). -/
def doneWork (c corrected : Nat) (s : State) : State :=
  match (cellAt s c).task with
  | none => s
  | some (r, k, _) =>
    if writesPending s r k then s else completeTask c (cancelFirst c (noteCorrected c corrected s))

/-- DONE of a cell's task (R316, R329); what its kernel has computed the spec does not give (DESIGN CHOICE, assumption log 72). -/
def execTaskDone (d : DoneReport) (s : State) : Out := .next (doneWork d.cell.val d.corrected s)

def execDoneTake (d : DoneReport) (s : State) : Out :=
  .next (takeWork d.cell.val (doneWork d.cell.val d.corrected s))

def execCancel (ch : Fin 64) (s : State) : Out := .next (cancelTasks ch.val s)

/-! ### Grants (R319 to R323) -/

/-- Whether a cell may be granted a task: it waits on TAKE, is in service, and its block is not changing
clock. -/
def grantable (s : State) (c : Nat) : Bool :=
  decide ((cellAt s c).state = 1) && cellOn s c && !(blockAt s (c / 16)).changing

/-- Affinity rank of a ready task of a home region for a cell. -/
def rankOf (home : Nat) (t : Task) (c : Nat) : Nat :=
  if t.desc.affinity = c then 0
  else if t.desc.affinity < 1024 ∧ t.desc.affinity / 16 = c / 16 then 1
  else if home = c / 128 then 2 else 3

/-- Lexicographic order of keys. -/
def keyLt : List Nat → List Nat → Bool
  | [], [] => false
  | [], _ => true
  | _, [] => false
  | a :: as, b :: bs => if a = b then keyLt as bs else decide (a < b)

/-- The element with the smallest key, the first of equals. -/
def minBy {α : Type} (key : α → List Nat) : List α → Option α
  | [] => none
  | a :: as =>
    match minBy key as with
    | none => some a
    | some b => if keyLt (key b) (key a) then some b else some a

/-- The task that a cell would be granted. -/
def bestTask (s : State) (c : Nat) : Option (Nat × Nat × Task) :=
  minBy (fun e => [e.2.2.desc.cls.val, rankOf e.1 e.2.2 c, e.2.2.ready.getD 0, e.2.1, e.1])
    ((readyIn s (c / 128)).filter fun e => e.2.2.desc.excluded ≠ c)

/-- The cells of a region that wait on TAKE and could be granted a task. -/
def waitingCells (s : State) (r : Nat) : List Nat :=
  ((s.tsk.cells.map Prod.fst).filter fun c => decide (c / 128 = r) && grantable s c)

/-- The bin of TSK_WAIT_HIST for a wait in ns. -/
def waitBin (w : Nat) : Nat :=
  if w < 64 then 0 else ((List.range 15).find? fun k => decide (w < 2 ^ (k + 6))).getD 15

/-- Grants a ready task to a cell: its descriptor is fetched for the cell's task frame (R309, R312, R322). -/
def grantTask (c : Nat) (e : Nat × Nat × Task) (s : State) : State :=
  let (home, k, t) := e
  let r := c / 128
  let s1 := setTask home k { t with inList := false, running := some c } s
  let d := regionOf s1 r
  let b := waitBin ((s.tim.now - t.entered) / 65536)
  let bin (i : Nat) : Nat :=
    if i = b then satAdd 4294967295 (d.curHist.getD i 0) 1 else d.curHist.getD i 0
  let s2 := setRegion r { d with curHist := (List.range 16).map bin } s1
  enqueueReqs [descFetch c home k t]
    (setCell c { cellAt s c with state := 0, task := some (home, k, t.gen), startedAt := s.tim.now } s2)

/-- One NoC cycle of a region dispatcher: the earliest waiting cell with an eligible task gets its best. -/
def grantIn (r : Nat) (s : State) : State :=
  if (regionOf s r).en ∧ regionOn s r then
    match minBy (fun c => [(cellAt s c).takeAt, c])
        ((waitingCells s r).filter fun c => (bestTask s c).isSome) with
    | none => s
    | some c => match bestTask s c with
      | some e => grantTask c e s
      | none => s
  else s

/-- R12, R322. -/
def execTaskGrant (region : Fin 8) (s : State) : Out := .next (grantIn region.val s)

/-! ### Lending (R324, R325) -/

/-- Whether a region takes part in lending. -/
def lends (s : State) (r : Nat) : Bool := (regionOf s r).lendEn && regionOn s r

/-- A region with a waiting cell and no task for any. -/
def borrower (s : State) (r : Nat) : Bool :=
  lends s r && !(waitingCells s r).isEmpty && (waitingCells s r).all fun c => (bestTask s c).isNone

/-- The ready tasks that a region could lend. -/
def lendable (s : State) (r : Nat) : List (Nat × Nat × Task) :=
  (readyIn s r).filter fun e => e.1 = r && e.2.2.lent.isNone

/-- A borrower takes one task from the donor with the most; borrowers never lend. -/
def borrow (borrowers : List Nat) (s : State) (b : Nat) : State :=
  let donors := (List.range 8).filter fun r =>
    lends s r && !borrowers.contains r && decide (s.tsk.minReady ≤ (lendable s r).length)
  match minBy (fun r => [65536 - (lendable s r).length, r]) donors with
  | none => s
  | some r =>
    match minBy (fun e => [e.2.2.desc.cls.val, e.2.2.ready.getD 0, e.2.1]) (lendable s r) with
    | none => s
    | some (home, k, t) =>
      let s1 := setTask home k { t with lent := some b, entered := s.tim.now } s
      noteDepth b { s1 with tsk := { s1.tsk with curLent := satAdd 65535 s1.tsk.curLent 1 } }

/-- R12, R324. -/
def execLendExamine (s : State) : Out :=
  let bs := (List.range 8).filter (borrower s)
  .next (bs.foldl (borrow bs) s)

/-! ### Faults of attempts (R327, R328) -/

/-- An attempt that returns to its ready list, with its attempt count raised or not. -/
def requeue (r k : Nat) (t : Task) (s : State) : State :=
  noteDepth (listRegion r t)
    (setTask r k { t with running := none, inList := true, entered := s.tim.now } s)

/-- A faulted attempt: retried elsewhere, or the task is exhausted (`why` 1 error, 4 time limit). -/
def attemptFault (c why : Nat) (s : State) : State :=
  match runningTask s c with
  | none => endAttempt c s
  | some (r, k, t) =>
    let s1 := endAttempt c s
    let d := { t.desc with excluded := c, affinity := 0xFFFF }
    if t.desc.attempt < 2 then
      let t1 := { t with desc := { d with attempt := t.desc.attempt + 1 } }
      noteFields r k t1 (requeue r k t1 s1)
    else
      let s2 := evTask why c (mkHandle t.gen r k) t.desc.kernel (t.desc.attempt + 1)
        (setTask r k { t with running := none, held := true } s1)
      if t.desc.channel < 64 then exhaustChan t.desc.channel s2 else s2

/-- The channel of a cell's running task for the fault log. -/
def cellChannel (s : State) (c : Nat) : Nat :=
  match runningTask s c with
  | some (_, _, t) => t.desc.channel
  | none => 0xFF

/-- A word of a block's memory is poisoned until it is rewritten: code 3 on the block, counted when the word is found
(R355, R500). -/
def poisonWord (b addr ch : Nat) (s : State) : State :=
  let x := blockAt s b
  if x.poison.contains (addr / 8) then s
  else countFault (.block (Fin.ofNat 64 b)) 3 ch addr (setBlock b { x with poison := x.poison ++ [addr / 8] } s)

/-- What ends an attempt counts against its unit: code 1 on the cell, 3 or 4 on its block (R500). -/
def countAttempt (c : Nat) (why : AttemptError) (s : State) : State :=
  match why with
  | .localMemory => countFault (.cell (Fin.ofNat 1024 c)) 1 (cellChannel s c) 0 s
  | .blockWord a => poisonWord (c / 16) a.val (cellChannel s c) s
  | .dma => countFault (.block (Fin.ofNat 64 (c / 16))) 4 (cellChannel s c) 0 s

/-- An uncorrectable error ends an attempt (R11, R29, R327, R355). -/
def execTaskAttemptFault (f : AttemptFault) (s : State) : Out :=
  if (cellAt s f.cell.val).task.isNone then .next s
  else .next (attemptFault f.cell.val 1 (countAttempt f.cell.val f.why s))

/-! ### The block DMA (R308, R355) -/

/-- The bytes of a place of a block's DMA. -/
def placeBytes (s : State) (b n : Nat) : DmaPlace → List Byte
  | .block a => memReads (blockAt s b).memory a.val n
  | .cell i a => memReads (cellAt s (16 * b + i.val)).local_ a.val n

/-- The 8-byte words that `n` bytes from an address touch. -/
def wordsOf (a n : Nat) : List Nat := (List.range (n / 8 + 2)).filterMap fun i =>
  if (a / 8 + i) * 8 < a + n then some (a / 8 + i) else none

/-- Whether a place holds a poisoned word. -/
def placePoisoned (s : State) (b n : Nat) : DmaPlace → Bool
  | .block a => (wordsOf a.val n).any fun w => (blockAt s b).poison.contains w
  | .cell _ _ => false

/-- The block DMA's port of a cell's local memory (R308). -/
abbrev dmaPort : Nat := 1

/-- The block's DMA writes bytes to a place: a word of the block memory rewritten whole is poisoned no more; a local memory is
reached past its arbiter (R40, R355). -/
def putPlace (b : Nat) (bs : List Byte) (p : DmaPlace) (s : State) : State :=
  match p with
  | .block a =>
    let x := blockAt s b
    let whole (w : Nat) : Bool := decide (a.val ≤ w * 8 ∧ w * 8 + 8 ≤ a.val + bs.length)
    setBlock b { x with memory := memWrites x.memory a.val bs, poison := x.poison.filter fun w => !whole w } s
  | .cell i a =>
    let c := 16 * b + i.val
    let x := cellAt s c
    match rrGrant x.localPtr 3 (fun k => decide (k = dmaPort)) with
    | some k => setCell c { x with local_ := memWrites x.local_ a.val bs, localPtr := (k + 1) % 3 } s
    | none => s

/-- An attempt that runs longer than its region's TASK_LIMIT_US: code 2 on the cell. -/
def execTaskTimeLimit (cell : Fin 1024) (s : State) : Out :=
  let x := cellAt s cell.val
  if x.task.isNone ∨ s.tim.now ≤ x.startedAt + ns ((regionOf s (cell.val / 128)).limitUs * 1000) then .next s
  else .next (attemptFault cell.val 4 (countFault (.cell cell) 2 (cellChannel s cell.val) 0 s))

/-- The tasks and joins homed in a region are gone; tasks lent to it go back to their home lists (R506). -/
def dropRegion (r : Nat) (s : State) : State :=
  let gone (t : Task) : Task :=
    if t.inUse then
      { t with inUse := false, submitted := false, inList := false, lent := none, cancelled := true }
    else t
  let back (t : Task) : Task := if t.lent = some r then { t with lent := none } else t
  { s with tsk := { s.tsk with regions := s.tsk.regions.map fun e =>
      if e.1 = r then
        (e.1, { e.2 with tasks := e.2.tasks.map fun t => (t.1, gone t.2)
                         joins := e.2.joins.map fun j => (j.1, { j.2 with inUse := false, cancelled := true }) })
      else (e.1, { e.2 with tasks := e.2.tasks.map fun t => (t.1, back t.2) }) } }

/-- A parity error of a region's dispatcher: code 7 on the region, whose tasks the scheduler kernel rebuilds
elsewhere. -/
def execDispatcherParityError (region : Fin 8) (s : State) : Out :=
  .next (dropRegion region.val (countFault (.region region) 7 0xFF 0 s))

/-! ### Block clocks (R13, R17, R500) -/

/-- Firmware changes a block's clock: the block takes no new task until it relocks. -/
def execBlockClockChange (block : Fin 64) (mhz : Nat) (s : State) : Out :=
  if 800 ≤ mhz ∧ mhz ≤ 1600 ∧ mhz % 50 = 0 ∧ blockOn s block.val = true then
    .next (setBlock block.val { blockAt s block.val with
      newMhz := mhz, changing := true
      relockFrom := if blockBusy s block.val then none else some s.tim.now } s)
  else .next s

/-- The block relocks, once its running tasks have finished. -/
def execBlockRelock (block : Fin 64) (s : State) : Out :=
  let b := blockAt s block.val
  if b.changing = true ∧ blockBusy s block.val = false then
    .next (setBlock block.val { b with mhz := b.newMhz, changing := false, relockFrom := none } s)
  else .next s

/-- A block not relocked within 4 us of its last task's end: code 5 on the block, once, and the block goes on taking
no tasks until it relocks. -/
def execBlockRelockTimeout (block : Fin 64) (s : State) : Out :=
  let b := blockAt s block.val
  match b.relockFrom with
  | some t => if b.changing = true ∧ t + ns 4000 < s.tim.now then
      .next (countFault (.block block) 5 0xFF 0 (setBlock block.val { b with relockFrom := none } s))
    else .next s
  | none => .next s

end Sys2Proof.Machine
end

