-- ==== Sys2Proof/Machine/Mem.lean ====
section
/-! DEFINITION. Machine/Mem.lean: the address mapping, the memory controllers with their service order, ECC,
patrol, refresh, evacuation and the DRAM windows (R82, R332 to R354). -/

namespace Sys2Proof.Machine

/-! ### Admission (R32, R34, R37) -/

/-- Admits or holds one request, after those held before it: an activity of which a request is held is not
admitted again in the period (R32, R34). Answers the entry beside the state. -/
def admitOne (n : Nat) (held : List Nat) (e : McEntry) (s : State) : McEntry × List Nat × State :=
  let a := e.req.activity
  if e.admitted.isSome then (e, held, s)
  else if held.contains a ∨ mcLimit s a < mcUsed s n a + e.req.len then
    (e, a :: held, noteThrottle a s)
  else
    ({ e with admitted := some s.tim.now }, held,
      noteHold a ((s.tim.now - e.arrived) / 65536) (chargeMc n a e.req.len s))

/-- Admits what the ledger admits of a controller's queue, in order of arrival. -/
def admitAll (n : Nat) : List Nat → List McEntry → State → List McEntry × State
  | _, [], s => ([], s)
  | held, e :: es, s =>
    let r := admitOne n held e s
    let q := admitAll n r.2.1 es r.2.2
    (r.1 :: q.1, q.2)

/-- Admits what a controller may admit now. -/
def admitQueue (n : Nat) (s : State) : State :=
  let r := admitAll n [] (mcAt s n).queue s
  modMc n (fun x => { x with queue := r.1 }) r.2

/-- The entries that no earlier entry of the same sector stands before (R346); taken over admitted entries only, so
that a held request delays no other activity's (R35). -/
def firstOfSectors : List Nat → List McEntry → List McEntry
  | _, [] => []
  | seen, e :: es =>
    let c := sectorOf e.req.addr
    if seen.contains c then firstOfSectors seen es else e :: firstOfSectors (c :: seen) es

/-- An admitted request's age (2^-16 ns). -/
def ageOf (s : State) (e : McEntry) : Nat := s.tim.now - e.admitted.getD s.tim.now

/-- A request whose age exceeds its class's limit is promoted. -/
def promoted (s : State) (e : McEntry) : Bool :=
  decide (ns (10 * s.mem.ages.getD (classCode e.req.cls) 0) < ageOf s e)

/-- Whether a request reads or writes the open row of its bank. -/
def rowOpen (s : State) (n : Nat) (e : McEntry) : Bool :=
  let l := (homeOf s e.req.addr).2
  decide (tabGet? (mcAt s n).openRow (bankKey l) = some (rowOf l))

/-- The order of R346 as numbers: the lesser list goes first. -/
def serviceRank (s : State) (n : Nat) (e : McEntry) : List Nat :=
  [if promoted s e then 0 else 1, classCode e.req.cls, if rowOpen s n e then 0 else 1,
   e.admitted.getD 0, e.req.port]

/-- Lexicographic order of lists. -/
def listLt : List Nat → List Nat → Bool
  | a :: as, b :: bs => decide (a < b) || (decide (a = b) && listLt as bs)
  | _, _ => false

/-- The first of a list of entries in an order given by ranks; equal ranks keep the order of arrival (DESIGN
CHOICE, assumption log 25). -/
def bestEntry (rank : McEntry → List Nat) : List McEntry → Option McEntry
  | [] => none
  | e :: es => match bestEntry rank es with
    | none => some e
    | some x => if listLt (rank x) (rank e) then some x else some e

/-- The bank of an entry. -/
def bankOf (s : State) (e : McEntry) : Nat := bankKey (homeOf s e.req.addr).2

/-- The request that a controller serves next: the first of one bank in the order of R346. Which bank with a
candidate comes next the spec leaves open: a free value where there are several (DESIGN CHOICE, assumption log
25). -/
def nextEntry (s : State) (n : Nat) : Option McEntry × State :=
  let cands := firstOfSectors [] ((mcAt s n).queue.filter fun e => e.admitted.isSome)
  let ofBank (b : Nat) : Option McEntry := bestEntry (serviceRank s n) (cands.filter fun e => bankOf s e = b)
  match (cands.map (bankOf s)).eraseDups with
  | [] => (none, s)
  | [b] => (ofBank b, s)
  | bs => let x := takeFree s
    (ofBank (bs.getD (x.1 % bs.length) 0), x.2)

/-! ### Error correction (R350, R351) -/

/-- A corrected event. -/
def countCorrected (n : Nat) (s : State) : State :=
  modMc n (fun x => { x with corrected := rcAdd 4294967295 1 x.corrected,
                             secCorrected := x.secCorrected + 1 }) s

/-- Poisons a sector: counted, captured when none is held, reported, and counted against the controller. -/
def poisonSector (n sector cls port : Nat) (s : State) : State :=
  let s1 := modMc n (fun x =>
    let y := { x with uncorr := rcAdd 65535 1 x.uncorr }
    if x.logValid then y
    else { y with logValid := true, logClass := cls, logPort := port, logSector := sector }) s
  let s2 := { s1 with mem := { s1.mem with poison := s1.mem.poison ++ [sector] } }
  let s3 := raise evMemPoison noChan (u8 n ++ u8 cls ++ u8 port ++ List.replicate 5 0 ++ u64 (sector * 64)) s2
  countFault (.controller (Fin.ofNat 8 n)) 8 0xFF (sector * 64) s3

/-- The ECC check of a read of a sector, unless the sector is poisoned already (DESIGN CHOICE, assumption log
53). -/
def eccRead (n sector cls port : Nat) (ecc : EccOutcome) (s : State) : State :=
  if s.mem.poison.contains sector then s
  else match ecc with
    | .clean => s
    | .corrected => countCorrected n s
    | .secondReadGood => countCorrected n s
    | .uncorrectable => poisonSector n sector cls port s

/-! ### What poisoned data does to its reader (R352, R490) -/

/-- The pipeline that runs a slice of a channel. -/
def pipeOfSlice (s : State) (h slice : Nat) : Option Nat :=
  (List.range 8).find? fun p =>
    let x := pipeOf s p
    match x.frame with
    | some (ch, _, _, _) => decide (ch = h) && x.slicesLeft.contains slice
    | none => false

/-- A coding pipeline reads poison: the slice is issued again, and its second poisoned read exhausts it. -/
def poisonSlice (h slice : Nat) (s : State) : State :=
  match pipeOfSlice s h slice with
  | none => s
  | some p =>
    let x := pipeOf s p
    let poison := tabMod 0 x.poison slice (· + 1)
    let work := match x.frame with | some (_, w, _, _) => w | none => 0
    if 2 ≤ tabGet 0 poison slice then
      exhaustChan h (setPipe p { x with frame := none, slicesLeft := [], poison := [] } s)
    else addCycles actRetry (sliceCycles s h work slice)
      (setPipe p { x with poison := poison, reissues := x.reissues + 1 } s)

/-- The unit at the front of a channel's egress is not sent (DESIGN CHOICE, assumption log 53). -/
def dropFrontUnit (h : Nat) (s : State) : State :=
  match (s.tmg.queues.map fun e => e.2.entries.filter (ofChan h)).flatten with
  | [] => s
  | k :: _ => dropPackets (fun x => ofChan h x && decide (x.capture = k.capture ∧ x.unit = k.unit)) s

/-- A monitor layer shows its fill colour, with EV_LAYER_FAULT. -/
def layerFault (i : Nat) (s : State) : State :=
  let ls := s.mon.layers
  raise evLayerFault noChan (u8 i) { s with mon := { s.mon with
    layers := { ls with faulty := if ls.faulty.contains i then ls.faulty else ls.faulty ++ [i] } } }

/-- A poisoned read of a task: its attempt faults. -/
def poisonTask (r k : Nat) (s : State) : State :=
  match (taskAt s r k).running with
  | some c => attemptFault c 1 s
  | none => s

/-- The outcome of a poisoned read (R352); the descriptor fetch of a grant is a read for its task (DEDUCED, assumption
log 76). A record or relay packet that the mirror or the router reads poisoned is not sent. -/
def poisonedRead (r : MemReader) (s : State) : State :=
  match r with
  | .task region slot => poisonTask region.val slot s
  | .blockDma _ region slot _ => poisonTask region.val slot s
  | .dispatcher c => match (cellAt s c.val).task with
    | some _ => attemptFault c.val 1 s
    | none => s
  | .pipeline ch slice _ => poisonSlice ch.val slice s
  | .egress ch => exhaustChan ch.val (dropFrontUnit ch.val s)
  | .mirror ch => exhaustChan ch.val s
  | .router _ ch => exhaustChan ch.val s
  | .ingest _ => s
  | .pix _ => s
  | .audio => s
  | .monitor i => layerFault i s
  | .firmware => aborted s
  | .dma => { s with ctl := { s.ctl with dmaBusy := false } }
  | .bar2 => s
  | .drawing => s
  | .closed => s
  | .other => s

/-! ### Reference caches (R9, R12, R256, R355) -/

/-- Sectors of a region's reference cache of 4 MiB. -/
def cacheSectors : Nat := 65536

/-- The sectors of which a region's reference cache holds a copy. -/
def cacheOf (s : State) (r : Nat) : List Nat := tabGet [] s.mem.caches r

/-- A cache takes a sector that its pipeline has read; a full one first drops a sector, which the spec does not name (a
free value; DESIGN CHOICE, assumption log 76). -/
def fillCache (r sector : Nat) (s : State) : State :=
  let old := (cacheOf s r).filter (· ≠ sector)
  let x := takeFree s
  let kept := if cacheSectors ≤ old.length then (old.eraseIdx (x.1 % old.length), x.2) else (old, s)
  { kept.2 with mem := { kept.2.mem with caches := tabSet kept.2.mem.caches r (kept.1 ++ [sector]) } }

/-- The pipeline whose read its region's cache answers. A copy always equals its sector: a hit or a miss changes timing
only, and one with a parity error is dropped and fetched again as a miss (R256, R355). -/
def cacheHit (s : State) (r : MemReq) : Bool :=
  match r.reader with
  | .pipeline ch slice parity =>
    r.data.isNone && !parity && !s.mem.poison.contains (sectorOf r.addr) &&
      match pipeOfSlice s ch.val slice with
      | some p => (cacheOf s p).contains (sectorOf r.addr)
      | none => false
  | _ => false

/-- A sector that a cache holds with a parity error is dropped (R355). -/
def dropParity (s : State) (r : MemReq) : State :=
  match r.reader with
  | .pipeline ch slice true => match pipeOfSlice s ch.val slice with
    | some p => { s with mem := { s.mem with
        caches := tabSet s.mem.caches p ((cacheOf s p).filter (· ≠ sectorOf r.addr)) } }
    | none => s
  | _ => s

/-- A hit: the cache gives the bytes, and no request leaves the region. -/
def answerHit (s : State) (r : MemReq) : State :=
  { s with mem := { s.mem with
      lastRead := some { addr := r.addr, data := memReads s.mem.dram r.addr r.len, poisoned := false } } }

/-- What a read that was served brings to its reader beside the data: a pipeline's region caches the sector, and a
descriptor goes to its cell's task frame, and a block's DMA puts the bytes into their place. -/
def readDone (r : MemReq) (bs : List Byte) (s : State) : State :=
  match r.reader with
  | .pipeline ch slice _ => match pipeOfSlice s ch.val slice with
    | some p => fillCache p (sectorOf r.addr) s
    | none => s
  | .dispatcher c => taskFrame c.val bs s
  | .blockDma b _ _ place => putPlace b.val bs place s
  | _ => s

/-! ### MEM_REQUEST -/

/-- Serves one request: the row opens, a write stores its bytes and a full write clears poison, a read passes
the ECC check and returns its bytes with the poison flag (R346, R350, R351). -/
def serveEntry (n : Nat) (e : McEntry) (ecc : EccOutcome) (s : State) : State :=
  let r := e.req
  let l := (homeOf s r.addr).2
  let sector := sectorOf r.addr
  let s1 := modMc n (fun x => { x with queue := x.queue.erase e,
                                       openRow := tabSet x.openRow (bankKey l) (rowOf l) }) s
  match r.data with
  | some d =>
    let full : Bool := decide (r.addr % 64 = 0 ∧ d.length = 64)
    { s1 with mem := { s1.mem with
        dram := memWrites s1.mem.dram r.addr d
        poison := if full then s1.mem.poison.filter (· ≠ sector) else s1.mem.poison } }
  | none =>
    let s2 := eccRead n sector (classCode r.cls) r.port ecc s1
    let bad := s2.mem.poison.contains sector
    let bs := memReads s2.mem.dram r.addr r.len
    let s3 := { s2 with mem := { s2.mem with lastRead := some { addr := r.addr, data := bs, poisoned := bad } } }
    if r.reader = .closed then s2 else if bad then poisonedRead r.reader s3 else readDone r bs s3

/-! ### What each requester's requests carry (R8, R10, R31, R40, R309, R345) -/

/-- The service class of a requester's requests (R345). -/
def readerClass (c : SvcClass) : MemReader → SvcClass
  | .task _ _ => .cell
  | .blockDma _ _ _ _ => .cell
  | .dispatcher _ => .cell
  | .pipeline _ _ _ => .pipe
  | .pix _ => .pipe
  | .ingest _ => .iso
  | .egress _ => .iso
  | .audio => .iso
  | .monitor _ => .iso
  | .router vc _ => if vc.val % 2 = 0 then .iso else .bulk
  | .mirror _ => .bulk
  | .firmware => .bulk
  | .bar2 => .bulk
  | .dma => .bulk
  | .drawing => .bulk
  | .closed => .bulk
  | .other => c

/-- The activity to which a requester's requests are charged (R31, R309, R433). -/
def readerActivity (s : State) (a : Nat) : MemReader → Nat
  | .task r k => taskActivity (taskAt s r.val k)
  | .blockDma _ r k _ => taskActivity (taskAt s r.val k)
  | .dispatcher c => match runningTask s c.val with
    | some (_, _, t) => taskActivity t
    | none => actFirmware
  | .pipeline ch _ _ => actCoding ch.val
  | .ingest ch => actIngest ch.val
  | .pix ch => actIngest ch.val
  | .egress ch => actEgress ch.val
  | .mirror ch => actMirror ch.val
  | .router _ ch => actMirror ch.val
  | .audio => actFirmware
  | .monitor _ => actMonitor
  | .drawing => actMonitor
  | .firmware => actFirmware
  | .bar2 => actHost
  | .dma => actHost
  | .closed => actHost
  | .other => a

/-- The NoC port on which a requester's requests enter: of a region's four, of PIX's two and of those of MNI and SDI the
operand says which (R8, R40). -/
def readerPort (s : State) (p : Nat) : MemReader → Nat
  | .task r k => match (taskAt s r.val k).running with
    | some c => 4 * (c / 128) + p % 4
    | none => 4 * r.val + p % 4
  | .blockDma b _ _ _ => 4 * (b.val / 8) + p % 4
  | .dispatcher c => 4 * (c.val / 128) + p % 4
  | .pipeline ch slice _ => match pipeOfSlice s ch.val slice with
    | some q => 4 * q + p % 4
    | none => p % 32
  | .ingest _ => if p = 65 ∨ p = 66 then p else 64
  | .pix _ => 69 + p % 2
  | .egress _ => 71
  | .mirror _ => 73
  | .router _ _ => 74
  | .audio => 67
  | .monitor _ => 72
  | .drawing => 72
  | .firmware => 68
  | .bar2 => 68
  | .dma => 68
  | .closed => 68
  | .other => p

/-- The bytes that a requester's write carries: a block's DMA takes them from its place (R308). -/
def readerData (s : State) (r : MemReq) : Option (List Byte) :=
  match r.reader, r.data with
  | .blockDma b _ _ place, some _ => some (placeBytes s b.val r.len place)
  | _, d => d

/-- The block-DMA write of a poisoned word, whose task's attempt faults instead (R355). -/
def readsPoison (s : State) (r : MemReq) : Bool :=
  match r.reader with
  | .blockDma b _ _ place => r.data.isSome && placePoisoned s b.val r.len place
  | _ => false

/-- A request as its requester issues it. -/
def issued (s : State) (r : MemReq) : MemReq :=
  { r with data := readerData s r, cls := readerClass r.cls r.reader, activity := readerActivity s r.activity r.reader,
           port := readerPort s r.port r.reader }

/-! ### The arbiters on the way to a controller (R11, R40, R41, R347) -/

/-- The block whose arbiter a request passes and its index there: the requests of a task pass the arbiter of the
block of the cell that runs it, those of a block's DMA its own as 16 (R40). -/
def blockOfReq (s : State) (r : MemReq) : Option (Nat × Nat) :=
  match r.reader with
  | .task region slot => (taskAt s region.val slot).running.map fun c => (c / 16, c % 16)
  | .blockDma b _ _ _ => some (b.val, 16)
  | _ => none

/-- One cycle of one block's arbiter: the pointers, the requests that wait and those granted in the cycle (R41). -/
def arbBlock (s : State) (b : Nat) (x : Tab Nat × List MemReq × List MemReq) :
    Tab Nat × List MemReq × List MemReq :=
  let (ptrs, wait, out) := x
  match rrGrant (tabGet 0 ptrs b) 17 fun k => wait.any fun r => decide (blockOfReq s r = some (b, k)) with
  | none => x
  | some k => match wait.find? fun r => decide (blockOfReq s r = some (b, k)) with
    | none => x
    | some r => (tabSet ptrs b ((k + 1) % 17), wait.erase r, out ++ [r])

/-- A request's index at its region's arbiter: its block, 8 for the pipeline and 9 for the dispatcher (R40). -/
def regionIdx (s : State) (r : MemReq) : Nat :=
  match blockOfReq s r with
  | some (b, _) => b % 8
  | none => match r.reader with
    | .pipeline _ _ _ => 8
    | _ => 9

/-- Whether a request passes a region's arbiter: those of a region's blocks, pipeline and dispatcher do. -/
def regional (r : MemReq) : Bool :=
  match r.reader with
  | .task _ _ => true
  | .blockDma _ _ _ _ => true
  | .dispatcher _ => true
  | .pipeline _ _ _ => true
  | _ => false

/-- Promotion and class of a request that reached an arbiter in cycle `e.1`. `now` counts NoC cycles, of which 20 make
10 ns (R8, R347). -/
def arbRank (s : State) (now : Nat) (e : Nat × MemReq) : List Nat :=
  [if 20 * s.mem.ages.getD (classCode e.2.cls) 0 < now - e.1 then 0 else 1, classCode e.2.cls, e.1]

/-- The order of a region's arbiter: promoted requests, class, age, then the lower index (R40, R347). -/
def regionRank (s : State) (now : Nat) (e : Nat × MemReq) : List Nat := arbRank s now e ++ [regionIdx s e.2]

/-- The order of a chip arbiter: promoted requests, class, age, then the lower NoC port (R40, R347). -/
def chipRank (s : State) (now : Nat) (e : Nat × MemReq) : List Nat := arbRank s now e ++ [e.2.port]

/-- The first of a list in an order given by ranks; equal ranks keep their order. -/
def bestOf (rank : Nat × MemReq → List Nat) : List (Nat × MemReq) → Option (Nat × MemReq)
  | [] => none
  | e :: es => match bestOf rank es with
    | none => some e
    | some x => if listLt (rank x) (rank e) then some x else some e

/-- One cycle of the arbiters of one level, of which each grants one of the requests for its target: the requests
granted, in the order of their ranks, and those that still wait. -/
def grantsOf (target : MemReq → Nat) (rank : Nat × MemReq → List Nat) :
    Nat → List Nat → List (Nat × MemReq) → List MemReq × List (Nat × MemReq)
  | 0, _, w => ([], w)
  | fuel + 1, taken, w =>
    match bestOf rank (w.filter fun e => !taken.contains (target e.2)) with
    | none => ([], w)
    | some e =>
      let z := grantsOf target rank fuel (target e.2 :: taken) (w.erase e)
      (e.2 :: z.1, z.2)

/-- The cycles of the arbiters until every request has its grant: in each, every block's arbiter passes one request to
its region's, the arbiter of each NoC port of a region passes one on, and the chip arbiter of each controller grants
one. Answers the requests in the order of their grants, and the blocks' pointers. -/
def arbCycles (s : State) :
    Nat → Nat → Tab Nat → List MemReq → List (Nat × MemReq) → List (Nat × MemReq) → List MemReq × Tab Nat
  | 0, _, ptrs, _, _, _ => ([], ptrs)
  | fuel + 1, now, ptrs, wait, atRegion, atChip =>
    let blocks := (wait.filterMap fun r => (blockOfReq s r).map Prod.fst).eraseDups
    let x := blocks.foldl (fun x b => arbBlock s b x) (ptrs, wait, [])
    let w1 := atRegion ++ x.2.2.map fun r => (now, r)
    let y := grantsOf (fun r => r.port) (regionRank s now) w1.length [] w1
    let w2 := atChip ++ y.1.map fun r => (now, r)
    let z := grantsOf (fun r => (homeOf s r.addr).1) (chipRank s now) w2.length [] w2
    let rest := arbCycles s fuel (now + 1) x.1 x.2.1 y.2 z.2
    (z.1 ++ rest.1, rest.2)

/-- The requests of one cycle in the order in which the arbiters grant them. -/
def arbitrate (rs : List MemReq) (s : State) : List MemReq × Tab Nat :=
  let block (r : MemReq) : Bool := (blockOfReq s r).isSome
  arbCycles s rs.length 0 s.mem.blockPtr (rs.filter block)
    ((rs.filter fun r => !block r && regional r).map fun r => (0, r))
    ((rs.filter fun r => !block r && !regional r).map fun r => (0, r))

/-- The bus-matrix address of a DRAM physical address. -/
def dramAddr (p : Nat) : BitVec 40 := BitVec.ofNat 40 (0x2000000000 + p)

/-- The bytes that a read of an absent target returns: free values. -/
def freeBytes (n : Nat) (s : State) : List Byte × State :=
  let x := takeFree s
  (natBytes (le n x.1), x.2)

/-- What follows a request at or above T, which finds its target absent (R79, R333, R490). Where the spec gives its
requester no answer, a write stores nothing and a read returns free bytes (DESIGN CHOICE, assumption log 53). -/
def absentReq (r : MemReq) (s : State) : State :=
  let w := r.data.isSome
  match r.reader with
  | .firmware => aborted (busError .cpuData w (dramAddr r.addr) s)
  | .bar2 => busError .pcie w (dramAddr r.addr) s
  | .dma => busError .dma w (dramAddr r.addr) s
  | .monitor i => layerFault i s
  | _ =>
    if w then s
    else
      let x := freeBytes r.len s
      { x.2 with mem := { x.2.mem with
          lastRead := some { addr := r.addr, data := x.1, poisoned := false } } }

/-- Answers the absent requests of a list. -/
def absentReqs (rs : List MemReq) (s : State) : State := rs.foldl (fun s r => absentReq r s) s

/-- Requests made in one cycle: reads that a reference cache holds are answered there, the others pass the arbiters and
enter the queues. -/
def arriveReqs (rs : List MemReq) (s : State) : State :=
  let x := arbitrate (rs.filter fun r => !cacheHit s r) s
  enqueueReqs x.1 ((rs.filter (cacheHit s)).foldl answerHit
    (rs.foldl dropParity { s with mem := { s.mem with blockPtr := x.2 } }))

/-- A controller takes the requests that are made in a cycle, admits or holds what waits, and serves the next
request; `ecc` is what its read meets (R9, R40, R346; DESIGN CHOICE, assumption log 54). -/
def execMemRequest (mc : Fin 8) (arrivals : List MemReq) (ecc : EccOutcome) (s : State) : Out :=
  let bad := arrivals.filter (readsPoison s)
  let rs := (arrivals.filter fun r => !readsPoison s r).map (issued s)
  let s0 := absentReqs (rs.filter fun r => memTop s ≤ r.addr) (bad.foldl (fun s r => poisonedRead r.reader s) s)
  let s1 := arriveReqs (rs.filter fun r => r.addr < memTop s) s0
  let s2 := admitQueue mc.val s1
  match nextEntry s2 mc.val with
  | (none, s3) => .next s3
  | (some e, s3) => .next (serveEntry mc.val e ecc s3)

/-! ### BAR2 (R10, R82 to R84) -/

/-- Splits an access into requests within one sector. -/
def splitSectors : Nat → Nat → Nat → Option (List Byte) → List MemReq
  | 0, _, _, _ => []
  | fuel + 1, a, len, d =>
    if len = 0 then []
    else
      let n := min len (64 - a % 64)
      { addr := a, len := n, data := d.map (List.take n), activity := actHost, cls := .bulk, port := 68,
        reader := .bar2 } :: splitSectors fuel (a + n) (len - n) (d.map (List.drop n))

/-- A PCIe access through BAR2: requests of activity 257 in class BULK at BASE * 64 MiB + x, or the default
target. -/
def execBar2WindowAccess (offset : BitVec 30) (len : Nat) (data : Option (List Byte)) (s : State) : Out :=
  let n := offset.toNat / 67108864
  let x := offset.toNat % 67108864
  let w := winOf s n
  let a := w.base.toNat * 67108864 + x
  let size := match data with | some d => d.length | none => len
  let may := if data.isSome then w.wrEn else w.rdEn
  if w.en = true ∧ may = true ∧ a + size ≤ memTop s then
    .next (enqueueReqs (splitSectors (size + 1) a size data) s)
  else
    let s1 := busError .pcie data.isSome (BitVec.ofNat 40 (0x80000000 + offset.toNat)) s
    .next (if data.isSome then s1 else aborted s1)

/-! ### Patrol, temperature and refresh (R348, R349, R353) -/

/-- The next sector of a controller at or after its patrol pointer; each 2 KiB of addresses holds some of every
slot. -/
def patrolSector (s : State) (n : Nat) : Nat :=
  let top := memTop s / 64
  let at_ (i : Nat) : Nat := if top = 0 then 0 else ((mcAt s n).patrol + i) % top
  at_ (((List.range 64).find? fun i => (homeOf s (at_ i * 64)).1 = n).getD 0)

/-- The patrol reads the next sector, corrects it under R350 and R351, and goes on. It is charged to no
activity. -/
def execPatrolScrub (mc : Fin 8) (ecc : EccOutcome) (s : State) : Out :=
  let n := mc.val
  if mcOn s n then
    let p := patrolSector s n
    .next (modMc n (fun x => { x with patrol := p + 1 }) (eccRead n p (classCode .bulk) (32 + 4 * n) ecc s))
  else .next s

/-- Whether a stack is fitted (R2, R332). -/
def stackOn (s : State) (k : Nat) : Bool := !absentUnit s (.controller (Fin.ofNat 8 (2 * k)))

/-- A stack's temperature is read: above THRESH_C its refresh interval is halved, and normal again at THRESH_C
- 5 or below; EV_MEM_REFRESH at each change. -/
def execStackTempRead (stack : Fin 4) (temp : Nat) (s : State) : Out :=
  let k := stack.val
  if stackOn s k then
    let old := s.mem.doubled.getD k false
    let new := if s.mem.threshC < temp then true else if temp + 5 ≤ s.mem.threshC then false else old
    .next (raiseIf (old != new) evMemRefresh noChan (u8 k ++ u8 (if new then 1 else 0) ++ u8 temp)
      { s with mem := { s.mem with temps := s.mem.temps.set k temp, doubled := s.mem.doubled.set k new } })
  else .next s

/-- A refresh of a bank falls due: issued when the bank is idle, else postponed, and at the eighth interval it
takes the bank (assumption log 26). A refreshed bank has no open row. -/
def execRefreshDue (mc : Fin 8) (bank : Nat) (idle : Bool) (s : State) : Out :=
  let x := mcAt s mc.val
  let n := tabGet 0 x.postponed bank + 1
  if idle = true ∨ 8 ≤ n then
    .next (setMc mc.val { x with postponed := tabErase x.postponed bank,
                                 openRow := tabErase x.openRow bank } s)
  else .next (setMc mc.val { x with postponed := tabSet x.postponed bank n } s)

/-! ### Registers (R337, R343, R351) -/

/-- A write of MEM_BANK_MASKj: staged in SERVICE from the host or firmware; in any other mode ignored and
captured as an error. -/
def execMemBankMask (j : Fin 6) (m : Master) (v : Word64) (s : State) : Out :=
  if (m = .pcie ∨ m = .cpuData) ∧ s.modes.mode = .service then
    .next { s with mem := { s.mem with
      stagedMask := tabSet s.mem.stagedMask j.val (BitVec.ofNat 40 v.toNat) } }
  else .next (busError m true (regAddr (0x70100 + 8 * j.val)) s)

/-- A W1C write of MEM_LOST. -/
def execLost (m : Master) (v : Word32) (s : State) : Out :=
  if m = .cpuData then
    .next { s with mem := { s.mem with lost := s.mem.lost &&& ~~~(BitVec.ofNat 8 v.toNat) } }
  else .next (busError m true (regAddr 0x70008) s)

/-- A W1C write of MEM_ECC_LOGn.VALID, bit 63. -/
def execEccLogValid (n : Fin 8) (m : Master) (v : Word64) (s : State) : Out :=
  if m ≠ .cpuData then .next (busError m true (regAddr (0x70208 + 16 * n.val)) s)
  else if v.getLsbD 63 then
    .next (modMc n.val (fun x => { x with logValid := false, logClass := 0, logPort := 0, logSector := 0 }) s)
  else .next s

/-! ### Lost and evacuated controllers (R339 to R344) -/

/-- A controller that is lost: latched in MEM_LOST, every launch and renewal stopped, and the device resets into
BOOT (R343). -/
def loseController (n : Nat) (s : State) : State :=
  let m := s.mem.lost ||| BitVec.ofNat 8 (2 ^ n)
  resetBoot (stopLaunches { s with mem := { s.mem with lost := m } })

def execMcLost (mc : Fin 8) (s : State) : Out :=
  if s.mem.trained.contains mc.val then .next (loseController mc.val s) else .next s

/-- Granules that an evacuation copies: those with L below 2(E - 1) GiB. -/
def evacGranules (s : State) : Nat := 2 * (s.mem.trained.length - 1) * gib / 256

/-- Requests that wait at the controller in evacuation go to the new homes of the granules copied (R341). -/
def moveQueue (s : State) : State :=
  let n := s.mem.evacMc
  let q := (mcAt s n).queue
  let stays (e : McEntry) : Bool := decide ((homeOf s e.req.addr).1 = n)
  let s1 := modMc n (fun x => { x with queue := x.queue.filter stays }) s
  (q.filter fun e => !stays e).foldl (fun s e =>
    modMc (homeOf s e.req.addr).1 (fun x => { x with queue := x.queue ++ [e] }) s) s1

/-- The copy engine copies the next granule, charged to activity 259 in the budget that other work leaves; a
sector that it reads poisoned stays poisoned at its new home (R340, R342). `ecc` is what its first sector meets
(DESIGN CHOICE, assumption log 53). -/
def execEvacGranuleCopy (ecc : EccOutcome) (s : State) : Out :=
  let n := s.mem.evacMc
  if !s.mem.evac ∨ evacGranules s ≤ s.mem.evacNext then .next s
  else
    let p := physOf s n (s.mem.evacNext * 256)
    let to_ := (homeIn s (survivors s) p).1
    if mcLimit s actRetry < mcUsed s to_ actRetry + 256 then .next (noteThrottle actRetry s)
    else
      let s1 := chargeMc to_ actRetry 256 (eccRead n (sectorOf p) (classCode .bulk) (32 + 4 * n) ecc s)
      let bad := ((List.range 4).filter fun i => s1.mem.poison.contains (sectorOf p + i)).length
      .next (moveQueue { s1 with mem := { s1.mem with
        evacNext := s1.mem.evacNext + 1, evacPoison := s1.mem.evacPoison + bad } })

/-- The last granule is copied: the controller leaves service, T falls to the old A, and EV_MEM_EVACUATE names
the sectors poisoned. -/
def execEvacComplete (s : State) : Out :=
  if !s.mem.evac ∨ s.mem.evacNext < evacGranules s then .next s
  else
    let n := s.mem.evacMc
    let on := survivors s
    let s1 := raise evMemEvacuate noChan (u8 n ++ u8 1 ++ [0, 0] ++ u32 s.mem.evacPoison) s
    let s2 := moveQueue { s1 with mem := { s1.mem with
        trained := on, topGib := 16 * on.length, evac := false } }
    .next (modMc n (fun x => { x with openRow := [], postponed := [] }) s2)

end Sys2Proof.Machine
end

