-- ==== Sys2Proof/Machine/Boundary.lean ====
section
/-! DEFINITION. Machine/Boundary.lean: the boundaries of device time: the ledger period (R30 to R39, R331, R429)
and the second (R60, R171, R193, R200, R428). -/

namespace Sys2Proof.Machine

/-! ### The ledger period -/

/-- Inserts a takeover by the age of its grant, then by handle. -/
def insertTakeover (e : Nat × Nat) : List (Nat × Nat) → List (Nat × Nat)
  | [] => [e]
  | x :: xs => if e.1 < x.1 ∨ (e.1 = x.1 ∧ e.2 < x.2) then e :: x :: xs else x :: insertTakeover e xs

/-- The channels in TAKEOVER, the oldest grant first. All their frames are of one deadline class (R29, R319). -/
def takeovers (s : State) : List Nat :=
  ((handles.filterMap fun h => match group? s h with
    | some g => if g.state = 4 then some (g.grantB.getD 0, h) else none
    | none => none).foldr insertTakeover []).map Prod.snd

/-- The unbooked LU that each takeover uses beside its own cost: at most its cost, and what the older takeovers, which
are served first, leave of the capacity unbooked at its grant (R29; DEDUCED, assumption log 75). -/
def extras (s : State) : Nat → List Nat → List (Nat × Nat)
  | _, [] => []
  | used, h :: hs =>
    let u := match group? s h with | some g => g.unbooked | none => 0
    let x := min (chan s h).cost (u - used)
    (h, x) :: extras s (used + x) hs

def extraLu (s : State) (h : Nat) : Nat :=
  (((extras s 0 (takeovers s)).find? fun e => decide (e.1 = h)).map Prod.snd).getD 0

/-- A growth of credit of a channel: `x`, and in TAKEOVER min(2, (C + U) / C) times `x`, where C is the channel's
cost and U the unbooked capacity that it gets (R29; DEDUCED, assumption log 75). -/
def catchUp (s : State) (h x : Nat) : Nat :=
  match group? s h with
  | some g =>
    let c := (chan s h).cost
    if g.state = 4 then (if c = 0 then 2 * x else x * (c + extraLu s h) / c) else x
  | none => x

/-- A channel's credit on a pipeline for one of its works, grown by 100 cycles for each LU of its share and capped
at twice its frame cycle cost, in 1/256 cycles (R33). -/
def grownCredit (s : State) (p key old : Nat) : Option Nat :=
  let c := chan s (key / 2)
  let rs := c.runs.filter fun r => decide (r.pipe = p ∧ r.work = key % 2)
  if active c.state = false ∨ rs.isEmpty = true then none
  else some (min (old + catchUp s (key / 2) ((rs.map BandRun.share).sum * 100)) ((rs.map BandRun.frameCost).sum * 512))

/-- The pipelines that the table does not list yet and that carry a channel that runs. -/
def newPipes (s : State) : List Nat :=
  (List.range 8).filter fun p => (tabGet? s.pipes p).isNone &&
    handles.any fun h => active (chan s h).state && (chan s h).runs.any fun r => decide (r.pipe = p)

/-- Credits at a period boundary. A band or run that has been placed anew begins on its pipeline with the credit that
the channel holds there for the work, or with none: the spec gives a starting credit only at CHAN.START (R33, R242;
DESIGN CHOICE, assumption log 78). -/
def growCredits (s : State) : State :=
  let grow (e : Nat × Pipe) : Nat × Pipe :=
    (e.1, { e.2 with credits := (List.range 128).filterMap fun k =>
      (grownCredit s e.1 k (tabGet 0 e.2.credits k)).map fun v => (k, v) })
  { s with pipes := (newPipes s).foldl (fun t p => tabSet t p (grow (p, Pipe.reset)).2) (s.pipes.map grow) }

/-- The charge for an input's ring moves to its lowest user. -/
def moveCharges (s : State) : State :=
  { s with inputs := s.inputs.map fun e => (e.1, { e.2 with charged := (inputUsers s e.1).head? }) }

/-- The end of a ledger period: observations and records close, budgets start again, credits grow, and held
requests and packets are admitted. -/
def periodEnd (s : State) : State :=
  let s1 := growCredits (moveCharges (closePeriod (periodOf (nowNs s)) s))
  let s3 := pumpAll ((List.range 8).foldl (fun s n => admitQueue n s) s1)
  if s3.prt.stopped then s3 else sdiLaunch s3

/-- The boundary of a ledger period; a request within 8 ns of it counts in the period of the state in which its command comes
(R20; DESIGN CHOICE, assumption log 74). -/
def execLedgerPeriodBoundary (s : State) : Out :=
  if periodOf (nowNs s) = s.ledger.periodStart then .next s else .next (periodEnd s)

/-! ### The second -/

/-- EV_INPUT_ABSENT for each absent input that a channel in STARTING, RUNNING, STOPPING or MIGRATING names
(DEDUCED, assumption log 67). -/
def secondAbsent (s : State) : State :=
  s.inputs.foldl (fun s e =>
    raiseIf (!e.2.present && !(inputUsers s e.1).isEmpty) evInputAbsent noChan (u16 e.1) s) s

/-- EV_INPUT_LOSS for each leg and for the merge. -/
def secondLoss (s : State) : State :=
  let ev (i leg n : Nat) (s : State) : State :=
    raiseIf (decide (0 < n)) evInputLoss noChan (u16 i ++ u8 leg ++ [0] ++ u32 n) s
  let s1 := s.inputs.foldl (fun s e =>
    ev e.1 0xFF e.2.secM (ev e.1 1 e.2.sec1 (ev e.1 0 e.2.sec0 s))) s
  { s1 with inputs := s1.inputs.map fun e => (e.1, { e.2 with sec0 := 0, sec1 := 0, secM := 0 }) }

/-- EV_INPUT_POLICED for each flow that dropped packets. -/
def secondPoliced (s : State) : State :=
  let ev (s : State) (e : Nat × Policer) : State :=
    raiseIf (decide (0 < e.2.yellowDropped + e.2.redDropped)) evInputPoliced noChan
      (u16 (e.1 / 32) ++ u16 e.1 ++ u32 e.2.yellowDropped ++ u32 e.2.redDropped) s
  let s1 := s.policers.foldl ev s
  { s1 with policers := s1.policers.map fun e => (e.1, { e.2 with yellowDropped := 0, redDropped := 0 }) }

/-- EV_LAUNCH_LATE for each output leg with a late packet. -/
def secondLate (s : State) : State :=
  let ev (o : Nat) (s : State) (l : Leg) : State :=
    raiseIf (decide (0 < l.secLate)) evLaunchLate noChan
      (u16 o ++ u8 l.leg ++ [0] ++ u32 l.secLate ++ u32 l.secMax) s
  let s1 := s.outputs.foldl (fun s e => e.2.legs.foldl (ev e.1) s) s
  { s1 with outputs := s1.outputs.map fun e =>
      (e.1, { e.2 with legs := e.2.legs.map fun l => { l with secLate := 0, secMax := 0 } }) }

/-- EV_DECODE_CONCEAL for each channel with a flagged picture. -/
def secondConceal (s : State) : State :=
  let ev (s : State) (e : Nat × Chan) : State :=
    raiseIf (decide (0 < e.2.concealSec + e.2.deriveSec)) evDecodeConceal e.1
      (u32 e.2.concealSec ++ u32 e.2.deriveSec ++ u64 e.2.firstFlag) s
  let s1 := s.chans.foldl ev s
  { s1 with chans := s1.chans.map fun e => (e.1, { e.2 with concealSec := 0, deriveSec := 0, firstFlag := 0 }) }

/-- EV_MEM_CORRECTED when a controller corrected anything. -/
def secondCorrected (s : State) : State :=
  let n := (s.mem.mcs.map fun e => e.2.secCorrected).sum
  let b := bitmap 8 fun i => decide (0 < (mcAt s i).secCorrected)
  let s1 := raiseIf (decide (0 < n)) evMemCorrected noChan (u8 b ++ [0, 0, 0] ++ u32 n) s
  { s1 with mem := { s1.mem with mcs := s1.mem.mcs.map fun e => (e.1, { e.2 with secCorrected := 0 }) } }

/-- EV_FAB_REPLAY for each port with a resend, and the resends of the last second. -/
def secondReplay (s : State) : State :=
  let ev (s : State) (e : Nat × FPort) : State :=
    raiseIf (decide (0 < e.2.secResends)) evFabReplay noChan (u8 e.1 ++ [0, 0, 0] ++ u32 e.2.secResends) s
  let s1 := s.fab.ports.foldl ev s
  { s1 with fab := { s1.fab with ports := s1.fab.ports.map fun e =>
      (e.1, { e.2 with lastSecResends := e.2.secResends, secResends := 0 }) } }

/-- EV_FAB_UNREACHABLE when packets were unroutable. -/
def secondUnreachable (s : State) : State :=
  let f := s.fab
  let s1 := raiseIf (decide (0 < f.secUnroutable)) evFabUnreachable noChan
    (u32 f.secUnroutable ++ u16 f.firstUnroutable) s
  { s1 with fab := { s1.fab with secUnroutable := 0, firstUnroutable := 0 } }

/-- EV_PROT_DIGEST for each group with a mismatch. -/
def secondDigest (s : State) : State :=
  let ev (s : State) (e : Nat × Group) : State :=
    raiseIf (decide (0 < e.2.digestSec)) evProtDigest e.1
      (u32 e.2.digestSec ++ [0, 0, 0, 0] ++ u64 e.2.digestFirst) s
  let s1 := s.prt.groups.foldl ev s
  { s1 with prt := { s1.prt with groups := s1.prt.groups.map fun e =>
      (e.1, { e.2 with digestSec := 0, digestFirst := 0 }) } }

/-- The audio events: underruns and slips by port and by sink, glitches by port. -/
def secondAudio (s : State) : State :=
  let port (s : State) (e : Nat × Sap) : State :=
    let b := u32 (endpoint 1 e.1 0 0).toNat
    raiseIf (decide (0 < e.2.secGlitch)) evAudGlitch noChan (u8 e.1 ++ [0, 0, 0] ++ u32 e.2.secGlitch)
      (raiseIf (decide (0 < e.2.secSlips)) evAudSlip noChan (b ++ u32 e.2.secSlips)
        (raiseIf (decide (0 < e.2.secUnder)) evAudUnderrun noChan (b ++ u32 e.2.secUnder) s))
  let sink (s : State) (x : Route) : State :=
    let b := u32 x.sink.toNat
    raiseIf (decide (0 < x.secSlips)) evAudSlip noChan (b ++ u32 x.secSlips)
      (raiseIf (decide (0 < x.secUnder)) evAudUnderrun noChan (b ++ u32 x.secUnder) s)
  let s1 := s.aud.routes.foldl sink (s.aud.ports.foldl port s)
  { s1 with aud := { s1.aud with
      ports := s1.aud.ports.map fun e => (e.1, { e.2 with secUnder := 0, secSlips := 0, secGlitch := 0 })
      routes := s1.aud.routes.map fun x => { x with secSlips := 0, secUnder := 0 } } }

/-- The events of a second, and its counts start again. -/
def secondEnd (s : State) : State :=
  let t := secondAudio (secondDigest (secondUnreachable (secondReplay (secondCorrected (secondConceal
    (secondLate (secondPoliced (secondLoss (secondAbsent s)))))))))
  { t with tim := { t.tim with second := nowNs s / 1000000000 } }

def execSecondBoundary (s : State) : Out :=
  if nowNs s / 1000000000 = s.tim.second then .next s else .next (secondEnd s)

end Sys2Proof.Machine
end

