-- ==== Sys2Proof/Machine/Cv.lean ====
section
/-! DEFINITION. Machine/Cv.lean: the check-value units (R379 to R381). -/

namespace Sys2Proof.Machine

def cvAt (s : State) (n : Nat) : Cv := tabGet Cv.reset s.fab.cvs n

def setCv (n : Nat) (c : Cv) (s : State) : State := { s with fab := { s.fab with cvs := tabSet s.fab.cvs n c } }

/-! ### The computation (R380) -/

/-- The low `w` bits reversed. -/
def reflectBits (w v : Nat) : Nat := bitmap w fun i => bitAt v (w - 1 - i)

/-- One step of the shift register of `w` bits. -/
def cvShift (w poly v : Nat) : Nat :=
  if bitAt v (w - 1) then xorNat (2 * v) poly % 2 ^ w else 2 * v % 2 ^ w

/-- Feeds one byte. -/
def cvByte (c : Cv) (b : Nat) (v : Nat) : Nat :=
  let b1 := if c.refIn then reflectBits 8 b else b
  (List.range 8).foldl (fun v _ => cvShift c.width c.poly.toNat v) (xorNat v (b1 * 2 ^ (c.width - 8)))

/-- Feeds bytes into a unit. -/
def cvFeed (c : Cv) (bs : List Nat) : Cv :=
  { c with value := BitVec.ofNat 64 (bs.foldl (fun v b => cvByte c b v) c.value.toNat) }

/-- RESULT. -/
def cvResult (c : Cv) : Nat :=
  let v := c.value.toNat % 2 ^ c.width
  xorNat (if c.refOut then reflectBits c.width v else v) (if c.invert then 2 ^ c.width - 1 else 0)

/-! ### Register writes (R379, R381) -/

/-- Who writes a unit's registers: firmware, and the host those of CV14 and CV15. -/
def cvMaster (n : Nat) (m : Master) : Bool := decide (m = .cpuData ∨ (m = .pcie ∧ 14 ≤ n))

/-- A write of a register of a unit: other masters get an error, a bound unit ignores it, and a busy unit ignores
it and sets ERR. -/
def cvWrite (n off : Nat) (m : Master) (f : Cv → Cv) (s : State) : State :=
  let c := cvAt s n
  if !cvMaster n m then busError m true (regAddr (0x81000 + 0x40 * n + off)) s
  else if c.bound then s
  else if c.busy then setCv n { c with err := true } s
  else setCv n (f c) s

/-- The activity that a feed is charged to. -/
def cvActivity (n : Nat) : Nat := if 14 ≤ n then actHost else actFirmware

/-- Whether the addresses of a feed are refused: outside DRAM, and for the host's units in the firmware
region. -/
def cvRefused (s : State) (n : Nat) (c : Cv) : Bool :=
  decide (memTop s < c.srcAddr + c.srcLen) || (decide (14 ≤ n) && decide (c.srcAddr < gib))

/-- A write of FAB_CV_CMDn: LOAD_INIT in bit 31, GO in bit 30, BYTES in [3:0] (DEDUCED, assumption log 60). -/
def cvCommand (s : State) (n : Nat) (v : Word32) (c : Cv) : Cv :=
  let b := bitsAt v.toNat 0 4
  let c1 := { c with bytes := if 1 ≤ b ∧ b ≤ 8 then b else c.bytes }
  let c2 := if v.getLsbD 31 then { c1 with value := c1.init } else c1
  if !v.getLsbD 30 then c2
  else if cvRefused s n c2 then { c2 with err := true }
  else { c2 with busy := true }

def execLoadInit (n : Fin 16) (m : Master) (v : Word32) (s : State) : Out :=
  .next (cvWrite n.val 0x30 m (cvCommand s n.val v) s)

def execCvGo (n : Fin 16) (m : Master) (v : Word32) (s : State) : Out :=
  .next (cvWrite n.val 0x30 m (cvCommand s n.val v) s)

/-- A write of FAB_CV_DATAn feeds BYTES bytes, lowest first. -/
def execData (n : Fin 16) (m : Master) (v : Word64) (s : State) : Out :=
  .next (cvWrite n.val 0x20 m (fun c => cvFeed c (le c.bytes v.toNat)) s)

/-- FAB_CV_CFGn: INVERT, REFOUT and REFIN in bits 13 to 11, WIDTH in [6:0] (DEDUCED, assumption log 60). -/
def cvConfig (v : Nat) (c : Cv) : Cv :=
  let w := bitsAt v 0 7
  { c with invert := bitAt v 13, refOut := bitAt v 12, refIn := bitAt v 11,
           width := if 8 ≤ w ∧ w ≤ 64 then w else c.width }

/-- A write of FAB_CV_CFGn: ERR in bit 29 is W1C, also while the unit is busy (DEDUCED, assumption log 60). -/
def execCvErr (n : Fin 16) (m : Master) (v : Word32) (s : State) : Out :=
  let c := cvAt s n.val
  let w1c (s : State) : State :=
    if v.getLsbD 29 ∧ cvMaster n.val m = true ∧ c.bound = false then
      setCv n.val { cvAt s n.val with err := false } s
    else s
  .next (w1c (cvWrite n.val 0 m (cvConfig v.toNat) s))

/-- The bytes of a feed before the first poisoned sector. -/
def feedLength (s : State) (c : Cv) : Nat :=
  let hit := s.mem.poison.filter fun p => decide (c.srcAddr < (p + 1) * 64 ∧ p * 64 < c.srcAddr + c.srcLen)
  match hit with
  | [] => c.srcLen
  | p :: ps => (ps.foldl min p) * 64 - c.srcAddr

/-- A feed ends: the bytes go through the unit, in class BULK and charged to its activity; poison stops it. While the
controllers admit no more of the activity in the period, the feed is held (R32). -/
def execCvFeedDone (n : Fin 16) (s : State) : Out :=
  let c := cvAt s n.val
  if !c.busy then .next s
  else if spent s (cvActivity n.val) then .next (noteThrottle (cvActivity n.val) s)
  else
    let len := feedLength s c
    let bs := byteNats (memReads s.mem.dram c.srcAddr len)
    .next (traffic (cvActivity n.val) len
      (setCv n.val { cvFeed c bs with busy := false, err := c.err || decide (len < c.srcLen) } s))

end Sys2Proof.Machine
end

