-- ==== Sys2Proof/Machine/Mon.lean ====
section
/-! DEFINITION. Machine/Mon.lean: the confidence monitor (R478 to R493): the MON opcodes, frames against the scan
line, and the monitor's registers. -/

namespace Sys2Proof.Machine

/-! ### Formats (R479, R480) -/

/-- Total and blanking lines of a monitor format. -/
def monLines (height : Nat) : Nat × Nat :=
  if height = 720 then (750, 30) else if height = 1080 then (1125, 45) else (2250, 90)

/-- Whether a size and rate stand in the table of R480. -/
def monFormatOk (t : Timing) : Bool :=
  let r (a b : Nat) : Bool := decide (t.rateNum = a ∧ t.rateDen = b)
  let high := r 50 1 || r 60000 1001 || r 60 1
  let low := r 24000 1001 || r 24 1 || r 25 1 || r 30000 1001 || r 30 1
  (decide (t.width = 1280 ∧ t.height = 720) && high) ||
    (decide ((t.width = 1920 ∧ t.height = 1080) ∨ (t.width = 3840 ∧ t.height = 2160)) && (high || low))

/-- Whether a TIMING value is refused. -/
def timingBad (v : Nat) : Bool :=
  let t := timingOf v
  !monFormatOk t || decide (t.depth ≠ 8 ∧ t.depth ≠ 10) || decide (1 < t.dither) ||
    decide (3 < t.colorimetry) || decide (1 < t.range) || decide (t.offset < -1000000 ∨ 1000000 < t.offset) ||
    decide (t.drawCap ≠ 0 ∧ (t.drawCap % 64 ≠ 0 ∨ t.drawCap < 65536 ∨ 2097152 < t.drawCap)) ||
    decide (t.gfxWhite < 80 ∨ 1000 < t.gfxWhite) || decide (fieldAt v 30 2 ≠ 0)

/-- DRAW_CAP with 0 resolved. -/
def drawCap (s : State) : Nat :=
  match s.mon.timing with
  | some t => if t.drawCap = 0 then 524288 else t.drawCap
  | none => 524288

/-! ### MON.CONFIGURE, MON.START, MON.STOP (R478, R482, R483) -/

/-- Whether ROUTE is refused. -/
def routeBad (s : State) (o : Nat) : Bool :=
  if o = 0xFF then false
  else match outputOf s o with
    | some x => decide (x.kind ≠ 0 ∧ x.kind ≠ 2) || (namer s o).isSome
    | none => true

/-- Bytes of a monitor frame as it is sent: 4:2:2 at its depth. -/
def monBytes (t : Timing) : Nat := t.width * t.height * 2 * t.depth / 8

/-- Payload bytes of a full packet of a monitor frame: whole pixel groups. -/
def monPayload (t : Timing) (mtu : Nat) : Nat :=
  (mtu - 40) / pixelGroup 2 t.depth * pixelGroup 2 t.depth

/-- The queues of a network route take the shaper of its format (R425; DEDUCED, assumption log 51). -/
def monShapers (o : Nat) (t : Timing) (s : State) : State :=
  match outputOf s o with
  | none => s
  | some x => x.legs.foldl (fun s l =>
      let v := vlanExtra s l.iface
      let d := rawRate (monBytes t) (monPayload t l.mtu) v t.rateNum t.rateDen t.height (x.senderType = some 0)
      let rate := if x.shaperRate = 0 then d else x.shaperRate
      let q (q : Queue) : Queue :=
        { q with rateKbps := rate, burst := legBurst s x l, tokens := legBurst s x l * tokScale,
                 tokAt := s.tim.now }
      { s with tmg := { s.tmg with queues := tabMod Queue.reset s.tmg.queues l.queue q } }) s

/-- Whether a monitor route uses a port in port-off (R54). -/
def routeOff (s : State) (o : Nat) : Bool :=
  match outputOf s o with
  | some x => anyOff s (outputPorts x)
  | none => false

def monConfigureWork (r : Req) (s : State) : Verdict :=
  let o := tlvD r 0x0901 0
  let v := tlvD r 0x0902 0
  let t := timingOf v
  if s.mon.state ≠ 0 then badMode s
  else paramsThen [(routeBad s o, 0x0901), (timingBad v, 0x0902),
      ((match outputOf s o with
        | some x => decide (x.kind = 0) && (linkFor t.width t.height t.rateNum t.rateDen false).isNone
        | none => false), 0x0902)]
    (if routeOff s o then badMode s
     else .ok (monShapers o t { s with mon := { s.mon with route := o, timing := some t } }) [] false)

def execMonConfigure (r : Req) (s : State) : Out := .next (serve sMonConfigure r monConfigureWork s)

/-- The monitor's frame rate. -/
def monRate (t : Timing) : Nat × Nat := (t.rateNum, t.rateDen)

/-- g_n + OFFSET in 2^-16 ns. -/
def frameStart (t : Timing) (n : Nat) : Nat := ((gridTime (monRate t) n : Int) + t.offset * 65536).toNat

/-- V_n in 2^-16 ns (R487). -/
def vblankAt (t : Timing) (n : Nat) : Nat :=
  let (total, blank) := monLines t.height
  frameStart t n - blank * gridUnit (monRate t) / (t.rateNum * total)

/-- The start of line `y` of frame `n` in 2^-16 ns (R481). -/
def lineAt (t : Timing) (n y : Nat) : Nat :=
  frameStart t n + y * gridUnit (monRate t) / (t.rateNum * (monLines t.height).1)

/-- The first frame whose grid instant is at or after a time (2^-16 ns). -/
def firstFrame (t : Timing) (at_ : Nat) : Nat := ceilDiv (at_ * t.rateNum) (gridUnit (monRate t))

/-- The settings that turn a graphics pixel to the monitor's colour (R486). -/
def monColour (t : Timing) : List Nat := [t.colorimetry, t.gfxWhite, 2]

/-- The background as a pixel, beneath every layer (R479). -/
def backPixel (t : Timing) : List Nat := (gfxPixel (monColour t) 3 t.background.toNat).tail

/-- A frame store that holds the background (R482). -/
def background (t : Timing) : Tab (List Nat) :=
  (List.range t.height).map fun y => (y, List.replicate t.width (Config.storeWord (backPixel t)))

/-- Whether the monitor's route is an SDI output. -/
def monOnSdi (s : State) : Bool :=
  match outputOf s s.mon.route with
  | some x => decide (x.kind = 0)
  | none => false

/-- Scan-out is at rest: an SDI route goes on with black active video, an ST 2110-20 route sends nothing (R482). -/
def restMon (s : State) : State :=
  let black := match s.mon.timing with
    | some t => if monOnSdi s then (List.replicate t.width [64, 512]).flatten else []
    | none => []
  { s with mon := { s.mon with state := 0, stopping := false, lineOut := black } }

def monStartWork (r : Req) (s : State) : Verdict :=
  match s.mon.timing with
  | none => badMode s
  | some t =>
    if s.mon.route = 0xFF ∨ s.mon.state ≠ 0 ∨ s.modes.mode = .dormant ∨ s.modes.mode = .service ∨
        routeOff s s.mon.route = true then badMode s
    else .ok { s with mon := { s.mon with
        state := 1, stopping := false, frame := 0, nextFrame := firstFrame t (ns (acceptedAt r s + 1000000)),
        tiles := [], store := background t, composing := false, composed := 0, abandoned := 0 } } [] false

def execMonStart (r : Req) (s : State) : Out := .next (serve sMonStart r monStartWork s)

/-- MON.STOP: scan-out ends after the frame in progress; before the first frame it ends at once. -/
def stopMon (s : State) : State :=
  if s.mon.state = 2 then { s with mon := { s.mon with stopping := true } }
  else if s.mon.state = 0 then s
  else restMon s

def execMonStop (r : Req) (s : State) : Out := .next (serve sMonStop r (fun _ s => .ok (stopMon s) [] false) s)

/-! ### MON.LAYER and MON.COMMIT (R484, R487, R489) -/

/-- A staged layer after a MON.LAYER. -/
def monLayerFrom (r : Req) (l : Layer) : Layer :=
  let src := getTlv r 0x091E
  let l1 := layerFrom r 0x0911 l
  { l1 with
    srcKind := match src with | some v => fieldAt v 0 1 | none => l.srcKind
    srcIndex := match src with | some v => fieldAt v 2 2 | none => l.srcIndex
    freeze := match getTlv r 0x091F with | some v => decide (v = 1) | none => l.freeze }

def monLayerWork (r : Req) (s : State) : Verdict :=
  let i := tlvD r 0x0910 0
  let ls := s.mon.layers
  if 19 < i then .err stBadParam 0x0910 []
  else .ok { s with mon := { s.mon with layers := { ls with
      staged := tabSet ls.staged i (monLayerFrom r (tabGet Layer.reset ls.staged i)) } } } [] false

def execMonLayer (r : Req) (s : State) : Out := .next (serve sMonLayer r monLayerWork s)

/-- Whether SOURCE of a layer is refused. -/
def sourceBad (s : State) (i : Nat) (l : Layer) : Bool :=
  decide (3 < l.srcKind) || decide (16 ≤ i ∧ l.srcKind ≠ 0) ||
    (decide (l.srcKind = 1) && match tabGet? s.inputs l.srcIndex with
      | some x => decide (x.ringFrames < 3)
      | none => true) ||
    (decide (2 ≤ l.srcKind) && decide (63 < l.srcIndex))

/-- Width, samples per pixel and depth of a layer's source picture. -/
def sourceForm (s : State) (l : Layer) : Nat × Nat × Nat :=
  if l.srcKind = 1 then
    match tabGet? s.inputs l.srcIndex with
    | some x => (match x.format with
      | some f => (f.width, chromaOf f.sampling, f.depth)
      | none => (0, 2, 10))
    | none => (0, 2, 10)
  else match (chan s l.srcIndex).cfg with
    | some f => (f.width, if f.chroma = 3 then 3 else 2, f.bitDepth)
    | none => (0, 2, 10)

/-- Bytes that a layer reads of one source line (R489). -/
def layerLine (s : State) (l : Layer) : Nat :=
  let (w, spp, depth) := sourceForm s l
  if l.srcKind = 0 then (if l.buf = solidBuf then 0 else l.src.getD 2 0 * pixelBytes l.format)
  else if l.srcKind = 3 then ceilDiv w 64 * 256
  else lineBytes w spp depth

/-- Bytes that a layer reads for one output line: b × max(1, SRC height / DST height). -/
def layerLoad (s : State) (l : Layer) : Nat :=
  let b := layerLine s l
  max b (ceilDiv (b * l.src.getD 3 0) (l.dst.getD 3 0))

/-- The largest sum over an output line of what some layers read. -/
def peakLoad (s : State) (ls : List Layer) : Nat :=
  let on (y : Nat) (l : Layer) : Bool := decide (l.dst.getD 1 0 ≤ y ∧ y < l.dst.getD 1 0 + l.dst.getD 3 0)
  ((ls.map fun l => l.dst.getD 1 0).map fun y => ((ls.filter (on y)).map (layerLoad s)).sum).foldl max 0

/-- Whether the layers enabled after a flip read too much in a ledger period. -/
def loadBad (s : State) (t : Timing) (new : List (Nat × Layer)) : Bool :=
  let after := new.foldl (fun u e => tabSet u e.1 e.2) s.mon.layers.shown
  let peak := peakLoad s ((after.map Prod.snd).filter Layer.enable)
  decide ((4194304 - drawCap s) * (t.rateDen * 10000) < peak * (monLines t.height).1 * t.rateNum)

/-- The first refused TLV of the enabled layers of a group (DEDUCED, assumption log 50). -/
def monCommitBad (s : State) (t : Timing) (ls : List (Nat × Layer)) : Option Nat :=
  firstBad (((ls.filter fun e => e.2.enable).map fun e =>
    (sourceBad s e.1 e.2, 0x091E) ::
      ((if e.2.srcKind = 0 then bufferChecks s e.2 else []) ++ layerChecks t.width t.height e.2).map fun x =>
        (x.1, 0x0911 + x.2)).flatten)

/-- MON.COMMIT. A commit made while the monitor is stopped is evaluated from the first frame on. -/
def monCommitWork (r : Req) (s : State) : Verdict :=
  let group := tlvD r 0x0920 0
  let ls := (bitList 20 group).map fun i => (i, tabGet Layer.reset s.mon.layers.staged i)
  if s.mon.layers.pending.isSome then .err stBusy 0 []
  else if group = 0 ∨ 1048576 ≤ group then .err stBadParam 0x0920 []
  else match s.mon.timing with
    | none => badMode s
    | some t =>
      match monCommitBad s t ls with
      | some x => .err stBadParam x []
      | none =>
        if loadBad s t ls then noRoom 3
        else
          let e := if s.mon.state = 0 then 0 else acceptedAt r s + 1000000
          .ok { s with mon := { s.mon with layers := { s.mon.layers with
              pending := some { layers := ls, effective := e, open_ := false } } } } [] false

def execMonCommit (r : Req) (s : State) : Out := .next (serve sMonCommit r monCommitWork s)

/-! ### Conditions of MON_INT (R492, R493) -/

/-- A condition occurs: its STAT bit, and its event if EN allows it. -/
def monCond (k code : Nat) (d : List Nat) (s : State) : State :=
  let m := s.mon
  let s1 := { s with mon := { m with intStat := if bitAt m.intStat k then m.intStat else m.intStat + 2 ^ k } }
  raiseIf (bitAt m.intEn k) code noChan d s1

/-- The layer byte of the monitor's layer events (R487). -/
def monMask (m : Commit) : Nat :=
  bitmap 5 fun k =>
    if k = 4 then m.layers.any fun e => decide (e.1 < 16) else m.layers.any fun e => decide (e.1 = 16 + k)

/-! ### MON_VBLANK (R485, R487, R488, R490) -/

/-- The content of the newest of some pictures (capture time, content). -/
def newestOf : List (Nat × Nat) → Option Nat
  | [] => none
  | p :: ps => some ((ps.foldl (fun a b => if a.1 ≤ b.1 then b else a) p).2)

/-- The content of a channel's picture for a tile of kind 3: the decoded one, else the reconstructed one. -/
def reconContent (h : Nat) (q : Picture) : Nat :=
  match q.recon with
  | some x => x.content
  | none => Config.decodedPicture 0 h q.capture

/-- The newest picture of a tile's source that is complete, by capture time (R485). -/
def newestPicture (s : State) (l : Layer) : Option Nat :=
  let c := chan s l.srcIndex
  if l.srcKind = 1 then
    match tabGet? s.inputs l.srcIndex with
    | some x => newestOf ((x.ring.filter fun p => p.completedAt.isSome).map fun p =>
        (p.capture, Config.pictureContent p.lines))
    | none => none
  else if l.srcKind = 2 then newestOf (c.srcPics.map fun p => (p.capture, p.content))
  else match c.cfg with
    | some f => newestOf ((c.pics.filter fun q =>
        decide (q.slicesDone = f.slices ∨ (decodes f.role ∧ decodeSlices s f ≤ q.decoded))).map fun q =>
          (q.capture, reconContent l.srcIndex q))
    | none => none

/-- Whether a tile's source is still there: a cleared one makes it show FILL. -/
def sourceThere (s : State) (l : Layer) : Bool :=
  if l.srcKind = 1 then (tabGet? s.inputs l.srcIndex).isSome
  else decide ((chan s l.srcIndex).state ≠ .idle)

/-- The pictures that the tiles show from a latch instant on, held as content until the frame's composition ends: a live
tile the newest complete picture, a frozen one the picture it has, and each the last one where nothing new came. -/
def latchTiles (s : State) : Tab Nat :=
  s.mon.layers.shown.foldl (fun t e =>
    let l := e.2
    if !l.enable ∨ l.srcKind = 0 ∨ sourceThere s l = false then tabErase t e.1
    else if l.freeze ∧ (tabGet? t e.1).isSome then t
    else match newestPicture s l with
      | some c => tabSet t e.1 c
      | none => t) s.mon.tiles

/-- Whether a commit gives a layer another source than the one it shows. -/
def newSource (shown : Tab Layer) (m : Commit) (i : Nat) : Bool :=
  m.layers.any fun x => decide (x.1 = i) && match tabGet? shown i with
    | some l => decide (l.srcKind ≠ x.2.srcKind ∨ l.srcIndex ≠ x.2.srcIndex)
    | none => true

/-- The monitor's layers at a latch instant (R487). A tile whose source stays keeps its last picture (R485). -/
def monLatch (at_ : Nat) (s : State) : State :=
  let (lost, ls) := latchFaults s s.mon.layers
  let s1 := evLayerFaults noChan lost { s with mon := { s.mon with layers := ls } }
  match ls.pending with
  | none => s1
  | some m =>
    if capNs at_ < m.effective then s1
    else
      let d := u8 (monMask m) ++ List.replicate 7 0 ++ u64 (capNs at_)
      if commitReady s1 at_ m then
        let s2 := { s1 with mon := { s1.mon with
          layers := flipLayers at_ m s1.mon.layers
          tiles := s1.mon.tiles.filter fun e => !newSource ls.shown m e.1 } }
        raise evLayerFlip noChan d (addReleases (replaced ls m) s1.tim.now s2)
      else raise evLayerMiss noChan d s1

/-- The packets of a frame on a network route: the first at g_n + OFFSET (R481). They belong to activity 256. -/
def monPackets (n : Nat) (t : Timing) (s : State) : State :=
  match outputOf s s.mon.route with
  | none => s
  | some x =>
    if x.kind ≠ 2 then s
    else
      let mtu := match x.legs with | l :: _ => l.mtu | [] => 1500
      let cap := monPayload t mtu
      let k := ceilDiv (monBytes t) cap
      let gap (i : Nat) : Nat :=
        if x.senderType = some 0 then
          i * t.rateDen * 1000000000 * Config.rActive t.height / (t.rateNum * k)
        else i * gridUnit (monRate t) / (t.rateNum * k)
      let pkt (l : Leg) (i : Nat) : Pkt :=
        { chan := 256, output := s.mon.route, leg := l.leg, capture := n, unit := 0, k := i, n := k,
          lastUnit := true, launch := some (frameStart t n + gap i), enqueued := s.tim.now,
          lineBytes := (if i + 1 = k then monBytes t - (k - 1) * cap else cap) + 78 + vlanExtra s l.iface,
          rtpSeq := (x.rtpSeq + i) % 65536,
          rtpTs := capNs (gridTime (monRate t) n) * 9 / 100000 % 4294967296, marker := decide (i + 1 = k),
          dstIp := l.dstIp, dstPort := l.dstPort, held := false, mirrored := false, bypass := false,
          ccAfter := x.cc, ts := [] }
      let s1 := x.legs.foldl (fun s l => (List.range k).foldl (fun s i => pushPkt l.queue (pkt l i) s) s) s
      { s1 with outputs := tabSet s1.outputs s.mon.route { x with rtpSeq := x.rtpSeq + k } }

/-- Lines abandoned in the frame that ends are reported (R488; DEDUCED, assumption log 51). -/
def reportUnder (s : State) : State :=
  let m := s.mon
  if m.abandoned = 0 then s
  else monCond 3 evMonUnderrun (u16 m.underFirst ++ u16 m.abandoned ++ u32 m.frame)
    { s with mon := { m with abandoned := 0 } }

/-- The start of a frame's vertical blanking: the frame before has been scanned, layers latch, composition begins;
or scan-out ends after MON.STOP. -/
def vblank (s : State) : State :=
  match s.mon.timing with
  | none => s
  | some t =>
    let n := s.mon.nextFrame
    if s.mon.state = 0 ∨ s.tim.now < vblankAt t n then s
    else
      let s0 := reportUnder s
      let m := { s0.mon with frame := if s0.mon.state = 2 then s0.mon.frame + 1 else s0.mon.frame,
                             current := 0xFFFF, composing := false }
      if m.stopping then restMon { s0 with mon := m }
      else
        let at_ := vblankAt t n
        let s1 := monLatch at_ { s0 with mon := { m with nextFrame := n + 1, composing := true, composed := 0 } }
        let s2 := { s1 with mon := { s1.mon with tiles := latchTiles s1 } }
        let bad := (s2.mon.layers.shown.filter fun e => layerPoisoned s2 e.2).map Prod.fst
        monCond 0 evMonVblank (u32 s2.mon.frame ++ [0, 0, 0, 0] ++ u64 (capNs at_))
          (monPackets n t (evLayerFaults noChan bad s2))

def execMonVblank (s : State) : Out := .next (vblank s)

/-! ### Composition into the frame store (R481, R486, R488, R489) -/

/-- The colorimetry of a tile's source. -/
def sourceColour (s : State) (l : Layer) : Nat :=
  if l.srcKind = 1 then
    match (tabGet? s.inputs l.srcIndex).bind fun x => x.format <|> x.coded with
    | some f => f.colorimetry
    | none => 0
  else match (chan s l.srcIndex).pix with
    | some p => p.outColour
    | none => 0

/-- A tile's picture at its place: BT.709 and BT.2020 are converted into each other, no transfer is (R486). -/
def tileImage (s : State) (t : Timing) (l : Layer) (content : Nat) : Image :=
  let w := l.dst.getD 2 0
  let h := l.dst.getD 3 0
  let col := sourceColour s l
  let im := cropImage l.src { width := (sourceForm s l).1, px := Config.pixels content }
  let px := if col ≤ 1 ∧ t.colorimetry ≤ 1 ∧ col ≠ t.colorimetry then Config.pixStage 4 [1, t.gfxWhite] im.px else im.px
  scaleImage s l.scalerSet w h { im with px := px.map fun p => 255 :: p }

/-- What a shown layer puts into the frame: a tile without a picture shows FILL. -/
def monLayerImage (s : State) (t : Timing) (e : Nat × Layer) : LayerImage :=
  let l := e.2
  let im :=
    if l.srcKind = 0 then bufferImage s s.mon.layers (monColour t) e
    else match tabGet? s.mon.tiles e.1 with
      | some c => tileImage s t l c
      | none => plainImage (monColour t) (l.dst.getD 2 0) (l.dst.getD 3 0) l.fill.toNat
  placed l im

/-- The enabled layers that the monitor shows. -/
def monShown (s : State) : List (Nat × Layer) := s.mon.layers.shown.filter fun e => e.2.enable

/-- One composed line as words of the frame store. -/
def composedLine (t : Timing) (ls : List LayerImage) (y : Nat) : List Nat :=
  (List.range t.width).map fun x => Config.storeWord (ls.foldl (overPixel x y) (backPixel t))

/-- Bytes that the shown layers read for an output line (R489). -/
def lineLoad (s : State) (y : Nat) : Nat :=
  ((monShown s).map fun e =>
    if e.2.dst.getD 1 0 ≤ y ∧ y < e.2.dst.getD 1 0 + e.2.dst.getD 3 0 then layerLoad s e.2 else 0).sum

/-- Composition goes on to a line: the lines before it enter the frame store, and what they read is charged to activity
256. -/
def composeTo (t : Timing) (k : Nat) (s : State) : State :=
  let m := s.mon
  let ys := (List.range k).drop m.composed
  if !m.composing ∨ ys = [] then s
  else
    let ls := (monShown s).map (monLayerImage s t)
    let store := ys.foldl (fun b y => tabSet b y (composedLine t ls y)) m.store
    traffic actMonitor ((ys.map (lineLoad s)).sum) (layersFreed s m.layers (monShown s) |> fun u =>
      { u with mon := { m with store := store, composed := k } })

/-- A black pixel of the frame store: Y'CbCr with 10 bits a component. -/
def blackPixel : List Nat := [64, 512, 512]

/-- What the route carries for a line: 4:2:2 of the stored pixels, at the configured depth with the frame index in the
dither; on SDI at depth 8 words of 10 bits whose two lowest are 0 (R481). The pixels with an uncorrectable error scan out
black (R355). -/
def scanned (s : State) (t : Timing) (bad : List Nat) (y : Nat) : List Nat :=
  let px := Config.pixStage 9 [2] (((List.range t.width).zip (tabGet [] s.mon.store y)).map fun e =>
    if bad.contains e.1 then blackPixel else Config.storePixel e.2)
  let shift := if t.depth = 8 ∧ monOnSdi s = true then 4 else 1
  (((List.range px.length).zip px).map fun e =>
    e.2.map fun v => shift * reduceSample 10 t.depth t.dither e.1 y s.mon.frame v).flatten

/-! ### MON_LINE_SCAN and MON_COMPOSE_DONE (R488) -/

/-- The scan begins an active line of the frame in progress; `composed` says how many of its lines composition has
finished by then, and `bad` which of the line's pixels the frame store holds with an uncorrectable error, which the monitor
counts (R355). A line that is not composed is abandoned, and composition resumes after it. -/
def lineScan (line composed : Nat) (bad : List Nat) (s : State) : State :=
  match s.mon.timing with
  | none => s
  | some t =>
    if s.mon.state = 0 ∨ t.height ≤ line ∨ s.mon.nextFrame = 0 ∨
        s.tim.now < lineAt t (s.mon.nextFrame - 1) line then s
    else
      let s0 := composeTo t (min composed t.height) s
      let m := s0.mon
      let under := m.composing && decide (m.composed ≤ line)
      let m1 := { m with
        state := 2, current := line, composed := if under then line + 1 else m.composed
        lineOut := scanned s0 t bad line
        storeErrors := m.storeErrors + (bad.filter fun x => decide (x < t.width)).eraseDups.length
        underFirst := if under ∧ m.abandoned = 0 then line else m.underFirst
        underCount := if under then rcAdd 65535 1 m.underCount else m.underCount
        abandoned := if under then m.abandoned + 1 else m.abandoned }
      let s1 := { s0 with mon := m1 }
      if line = m.match_ then monCond 1 evMonLine (u16 line ++ [0, 0] ++ u32 m.frame) s1 else s1

/-- A line is scanned; STATE becomes 2 with the first (DEDUCED, assumption log 51). -/
def execMonLineScan (line : Nat) (x : LineState) (s : State) : Out := .next (lineScan line x.composed x.bad s)

/-- Composition of the frame ends: the rest of its lines are in the store. -/
def execMonComposeDone (s : State) : Out :=
  match s.mon.timing with
  | some t =>
    if s.mon.composing then
      let s0 := composeTo t t.height s
      let s1 := { s0 with mon := { s0.mon with composing := false, composed := t.height } }
      .next (reportUnder (monCond 2 evMonDone (u32 s1.mon.frame ++ [0, 0, 0, 0] ++ u64 (nowNs s1)) s1))
    else .next s
  | none => .next s

/-! ### Monitor registers (R492) -/

/-- A write of MON_INT: EN is set, STAT bits are cleared by 1. -/
def writeMonInt (v : Nat) (s : State) : State :=
  let m := s.mon
  { s with mon := { m with intEn := bitsAt v 16 4,
                           intStat := bitmap 4 fun k => bitAt m.intStat k && !bitAt v k } }

def execMonIntStat (m : Master) (v : Word32) (s : State) : Out :=
  if regPath s m then .next (writeMonInt v.toNat s) else .next (busError m true (regAddr 0xB0008) s)

/-- A write of MON_STATUS, which only the control processor data port makes: TIMING_WR is W1C (DEDUCED,
assumption log 51). -/
def execTimingWr (m : Master) (v : Word32) (s : State) : Out :=
  if m = .cpuData then
    .next { s with mon := { s.mon with timingWr := s.mon.timingWr && !v.getLsbD 3 } }
  else .next (busError m true (regAddr 0xB0000) s)

end Sys2Proof.Machine
end

