-- ==== Sys2Proof/Machine/Draw.lean ====
section
/-! DEFINITION. Machine/Draw.lean: the 2D drawing engine (R494 to R499). -/

namespace Sys2Proof.Machine

/-! ### Registers -/

/-- A write of HEAD of MON_DRAW_IDX: ignored when it would move HEAD backwards or past a full ring, by the rules of
R128 with producer and consumer exchanged. -/
def writeHead (v : Nat) (s : State) : State :=
  let m := s.mon
  let h := bitsAt v 16 9
  let used (x : Nat) : Nat := (x + 512 - m.drawTail) % 512
  let empty := m.drawHead = m.drawTail
  if used m.drawHead ≤ used h ∧ used h ≤ 256 then
    { s with mon := { m with drawHead := h, drawAt := if empty then s.tim.now else m.drawAt } }
  else s

def execHead (m : Master) (v : Word32) (s : State) : Out :=
  if regPath s m then .next (writeHead v.toNat s) else .next (busError m true (regAddr 0xB0108) s)

/-- A write of MON_DRAW_CTL: EN and DEAD_NS are set, ERR is W1C. -/
def writeDrawCtl (v : Nat) (s : State) : State :=
  let m := s.mon
  { s with mon := { m with drawEn := bitAt v 31, drawAt := if m.drawEn then m.drawAt else s.tim.now, deadNs := bitsAt v 0 16
                           drawErr := m.drawErr && !bitAt v 32 } }

def execDrawErr (m : Master) (v : Word64) (s : State) : Out :=
  if regPath s m then .next (writeDrawCtl v.toNat s) else .next (busError m true (regAddr 0xB0110) s)

/-! ### Descriptors (R494) -/

/-- A descriptor. -/
structure Desc where
  op : Nat
  format : Nat
  flags : Nat
  width : Nat
  height : Nat
  dst : Nat
  dstPitch : Nat
  srcPitch : Nat
  src : Nat
  colour : Nat
  alpha : Nat
  fence : Nat
  value : Word32
  deriving DecidableEq, Repr

/-- The descriptor that 64 bytes hold. -/
def descOf (bs : List Nat) : Desc :=
  { op := hdrField bs 0 1, format := hdrField bs 1 1, flags := hdrField bs 2 1, width := hdrField bs 4 2,
    height := hdrField bs 6 2, dst := hdrField bs 8 8, dstPitch := hdrField bs 0x10 4,
    srcPitch := hdrField bs 0x14 4, src := hdrField bs 0x18 8, colour := hdrField bs 0x20 4,
    alpha := hdrField bs 0x24 1, fence := hdrField bs 0x28 2,
    value := BitVec.ofNat 32 (hdrField bs 0x2C 4) }

/-- The descriptor at the ring's tail. -/
def tailDesc (s : State) : Desc :=
  let base := s.mon.drawBase.toNat * 16384 + 64 * (s.mon.drawTail % 256)
  descOf (byteNats (memReads s.mem.dram base 64))

/-- Whether an operation reads a source. -/
def readsSrc (d : Desc) : Bool := decide (d.op = 2 ∨ d.op = 3)

/-- Whether a block's bytes lie from 1 GiB up to T. -/
def blockInside (s : State) (a pitch : Nat) (d : Desc) : Bool :=
  decide (gib ≤ a ∧ a + (d.height - 1) * pitch + d.width * pixelBytes d.format ≤ memTop s)

/-- Why the engine skips a descriptor: 1 a bad rectangle, 2 an absent address (R498; DEDUCED, assumption log
52). -/
def skipReason (s : State) (d : Desc) : Option Nat :=
  let row := d.width * pixelBytes d.format
  let pitchBad (p : Nat) : Bool := decide (p % 64 ≠ 0 ∨ p < row)
  if d.width = 0 ∨ 16384 < d.width ∨ d.height = 0 ∨ 16384 < d.height ∨ 3 < d.op ∨ 4 < d.format then some 1
  else if pitchBad d.dstPitch || (readsSrc d && pitchBad d.srcPitch) then some 1
  else if !blockInside s d.dst d.dstPitch d || (readsSrc d && !blockInside s d.src d.srcPitch d) then some 2
  else none

/-! ### Pixels (R217, R495) -/

/-- The pixel that a fill writes: ARGB8888 truncated to each component's width. -/
def fillPixel (format colour : Nat) : Nat :=
  let (a, r, g, b) := compBits format
  let (ca, cr, cg, cb) := unpack 3 colour
  pack format (resize 8 a ca, resize 8 r cr, resize 8 g cg, resize 8 b cb)

/-- A blended pixel; the operator's rounding is a free value. -/
def blendPixel (d : Desc) (s t : Nat) : Nat :=
  let w := alpha8 d.format s * 256 + d.alpha
  let pre := bitAt d.flags 2
  let (sa, sr, sg, sb) := unpack d.format s
  let (ta, tr, tg, tb) := unpack d.format t
  let (a, r, g, b) := compBits d.format
  let mix (n x y : Nat) : Nat := Config.blend8 x y w pre % 2 ^ n
  pack d.format (mix a sa ta, mix r sr tr, mix g sg tg, mix b sb tb)

/-! ### Operations (R495, R496, R498) -/

/-- The pixels of a block in the order of YDIR and XDIR. -/
def pixelOrder (d : Desc) : List (Nat × Nat) :=
  let xs := List.range d.width
  let ys := List.range d.height
  let xs' := if bitAt d.flags 0 then xs.reverse else xs
  let ys' := if bitAt d.flags 1 then ys.reverse else ys
  (ys'.map fun y => xs'.map fun x => (x, y)).flatten

/-- One pixel of an operation: the memory after it, and whether a poisoned sector was met. -/
def drawPixel (poison : List Nat) (d : Desc) (acc : Mem × Bool) (p : Nat × Nat) : Mem × Bool :=
  let n := pixelBytes d.format
  let to_ := d.dst + p.2 * d.dstPitch + p.1 * n
  let from_ := d.src + p.2 * d.srcPitch + p.1 * n
  let put (v : Nat) : Mem := memWrites acc.1 to_ (natBytes (le n v))
  match d.op with
  | 1 => (put (fillPixel d.format d.colour), acc.2)
  | 2 =>
    let (v, bad) := readPixel poison acc.1 from_ n
    (put v, acc.2 || bad)
  | 3 =>
    let (v, bad) := readPixel poison acc.1 from_ n
    let (t, bad2) := readPixel poison acc.1 to_ n
    (put (if bad || bad2 then 0 else blendPixel d v t), acc.2 || bad || bad2)
  | _ => acc

/-- Bytes that a pixel of a descriptor moves: read, read under it in a blend, and written. -/
def drawCost (d : Desc) : Nat := pixelBytes d.format * d.op

/-- Pixels that the engine may move now: within DRAW_CAP in the ledger period, and by bursts of 1,024 bytes at 64 GB/s with
the dead time after each (R497). -/
def drawAllowance (d : Desc) (s : State) : Nat :=
  let bursts := (s.tim.now - s.mon.drawAt) / ns (16 + s.mon.deadNs)
  min (drawCap s - s.mon.drawUsed) (1024 * bursts) / drawCost d

/-- Whether every byte of a sector is written by a descriptor's rows. -/
def sectorCovered (d : Desc) (p : Nat) : Bool :=
  decide (d.op ≠ 0) && (List.range d.height).any fun y =>
    let a := d.dst + y * d.dstPitch
    decide (a ≤ p * 64 ∧ p * 64 + 64 ≤ a + d.width * pixelBytes d.format)

/-- A descriptor that raises EV_MON_DRAW (DEDUCED, assumption log 52). -/
def drawFault (reason : Nat) (s : State) : State :=
  let m := s.mon
  raise evMonDraw noChan (u16 m.drawTail ++ u8 reason)
    { s with mon := { m with drawErr := true, drawErrIdx := if m.drawErr then m.drawErrIdx else m.drawTail
                             drawErrCount := rcAdd 65535 1 m.drawErrCount } }

/-- Some pixels of a descriptor are written, the first of them at a place of its order. -/
def drawSome (d : Desc) (from_ n : Nat) (s : State) : State :=
  let (m, bad) := (((pixelOrder d).drop from_).take n).foldl (drawPixel s.mem.poison d) (s.mem.dram, false)
  let whole := decide (d.width * d.height ≤ from_ + n)
  let s1 := traffic actMonitor (n * drawCost d) { s with
    mem := { s.mem with dram := m, poison := if whole then s.mem.poison.filter fun p => !sectorCovered d p
                                             else s.mem.poison }
    mon := { s.mon with drawUsed := s.mon.drawUsed + n * drawCost d, drawPos := from_ + n, drawAt := s.tim.now } }
  if bad then drawFault 3 s1 else s1

/-- The descriptor at TAIL is complete: its fence write, then TAIL moves on. -/
def drawDone (d : Desc) (s : State) : State :=
  let s1 := if d.fence < 256 then setFence d.fence d.value s else s
  { s1 with mon := { s1.mon with drawTail := (s1.mon.drawTail + 1) % 512, drawPos := 0, drawAt := s1.tim.now } }

/-- The engine goes on with the descriptor at TAIL as far as it may, and completes or skips it; it is held while the
controllers admit no more of its activity (R32). -/
def drawNext (s : State) : State :=
  let m := s.mon
  if !m.drawEn ∨ m.drawHead = m.drawTail then s
  else if spent s actMonitor then noteThrottle actMonitor s
  else
    let d := tailDesc s
    match skipReason s d with
    | some r => drawDone d (if d.op = 0 then s else drawFault r s)
    | none =>
      let left := d.width * d.height - m.drawPos
      let n := min left (drawAllowance d s)
      if d.op = 0 then drawDone d s
      else if n = 0 then s
      else if n < left then drawSome d m.drawPos n s
      else drawDone d (drawSome d m.drawPos n s)

def execDrawDescriptorDone (s : State) : Out := .next (drawNext s)

end Sys2Proof.Machine
end

