-- ==== Sys2Proof/Machine/EvtRing.lean ====
section
/-! DEFINITION. Machine/EvtRing.lean: the event ring, its vectors and the MSI-X mask (R99, R126 to R131, R542,
R550). -/

namespace Sys2Proof.Machine

/-- Entries in use of the ring, by its indices 0 to 511. -/
def ringUsed (e : Evt) : Nat := (e.prod + 512 - e.cons) % 512

/-- Whether the device may write the next entry: EN, bus mastering, an event and a place for it (DEDUCED,
assumption log 64). -/
def ringReady (e : Evt) : Bool := e.en && e.busMaster && !e.fifo.isEmpty && decide (ringUsed e ≠ 256)

/-- Whether an event is urgent (R126). -/
def urgent (x : Event) : Bool := bitAt x.code 7

/-- Whether VECTOR may go out again (R129; DEDUCED, assumption log 64). -/
def holdoffOver (s : State) : Bool :=
  match s.evt.lastVector with
  | some t => decide (t + s.evt.holdoffUs * 1000 ≤ nowNs s)
  | none => true

/-- Sends VECTOR, and starts its holdoff (DEDUCED, assumption log 64). -/
def sendRingVector (s : State) : State :=
  sendVector s.evt.vector { s with evt := { s.evt with lastVector := some (nowNs s), vectorDue := false } }

/-- The vector for an entry just written: URG_VECTOR at once, or VECTOR when its holdoff allows, else later. -/
def ringVector (x : Event) (s : State) : State :=
  if urgent x then sendVector s.evt.urgVector s
  else if holdoffOver s then sendRingVector s
  else { s with evt := { s.evt with vectorDue := true } }

/-- An event entry as its 32 bytes (R113, R126). -/
def eventBytes (x : Event) : List Nat := u16 x.code ++ u16 x.channel ++ u32 x.seq ++ u64 x.time ++ x.data

/-- The host address of a ring entry (R127, R128). -/
def entryAddr (e : Evt) (i : Nat) : Nat := e.base.toNat * 8192 + 32 * (i % 256)

/-- The datagram that carries an entry, with its tag, to the event destination (R130). -/
def eventDatagram (x : Event) (s : State) : State :=
  match s.mbx.evtDest with
  | some (ip, port) => { s with mbx := { s.mbx with
      datagrams := s.mbx.datagrams ++ [.event ip port (eventBytes x) (tagOf s (eventBytes x))] } }
  | none => s

/-- The oldest event goes to host memory at the ring entry that PROD names, then PROD advances, then the vector goes out. The
space in the FIFO lets EV_EVENTS_LOST in. -/
def ringWrite (s : State) : State :=
  let e := s.evt
  match e.fifo with
  | [] => s
  | x :: xs =>
    let s1 := { s with evt := { e with
        fifo := xs, host := memWrites e.host (entryAddr e e.prod) (natBytes (eventBytes x)),
        prod := (e.prod + 1) % 512 } }
    reportLost (eventDatagram x (ringVector x s1))

def execEventRingWrite (s : State) : Out :=
  if s.ctl.fwRunning && ringReady s.evt then .next (ringWrite s) else .next s

/-- A CONS write, ignored when it would move CONS backwards or past PROD (R128). -/
def writeCons (n : Nat) (s : State) : State :=
  let e := s.evt
  if (n + 512 - e.cons) % 512 ≤ ringUsed e then { s with evt := { e with cons := n } } else s

/-- A host write of CTL_EVT_IDX: CONS in bits [24:16]. -/
def execCons (v : Word32) (s : State) : Out := .next (writeCons (bitsAt v.toNat 16 9) s)

/-- A write of CTL_EVT_CTL (R127, R550): EN going from 0 to 1 first sets PROD and CONS to 0. -/
def writeEvtCtl (v : Nat) (s : State) : State :=
  let e := s.evt
  let e1 := { e with en := bitAt v 31, urgVector := bitsAt v 16 5, vector := bitsAt v 8 5,
                     holdoffUs := bitsAt v 0 8 }
  { s with evt := if bitAt v 31 && !e.en then { e1 with prod := 0, cons := 0 } else e1 }

def execEnSet (v : Word32) (s : State) : Out := .next (writeEvtCtl v.toNat s)

def execEnClear (v : Word32) (s : State) : Out := .next (writeEvtCtl v.toNat s)

/-- The holdoff ends with a VECTOR due. -/
def execHoldoffExpiry (s : State) : Out :=
  if s.evt.vectorDue && holdoffOver s then .next (sendRingVector s) else .next s

/-- The host clears a vector's mask bit, with the command register's Bus Master Enable and the MSI-X Enable as
it has written them by then: a vector held pending goes out once (R542; DEDUCED, assumption log 64). -/
def execMsixUnmask (vector : Fin 32) (busMaster msixEn : Bool) (s : State) : Out :=
  let e := { s.evt with busMaster := busMaster, msixEn := msixEn,
                        masked := s.evt.masked.filter fun v => decide (v ≠ vector.val) }
  let go (v : Nat) : Bool := busMaster && msixEn && !e.masked.contains v
  .next { s with evt := { e with pba := e.pba.filter fun v => !go v, sent := e.sent ++ e.pba.filter go } }

end Sys2Proof.Machine
end

