-- ==== Sys2Proof/Machine/Faults.lean ====
section
/-! DEFINITION. Machine/Faults.lean: port faults, retirement and shedding, the fault log and the retirement map
(R42 to R45, R242, R500 to R513). -/

namespace Sys2Proof.Machine

/-! ### Port faults (R500) -/

/-- A synthesiser unlock or equaliser failure of an SDI port: code 11, and the port relocks. -/
def execSdiPortFault (n : Fin 8) (s : State) : Out :=
  if sdiOn s n.val then
    .next (sdiRefresh { countFault (.sdiPort n) 11 0xFF 0 s with
      sdi := tabSet (countFault (.sdiPort n) 11 0xFF 0 s).sdi n.val .unlocked })
  else .next s

/-- The interfaces of a media port go down. -/
def dropLinks (n : Nat) (s : State) : State :=
  { s with mni := s.mni.map fun e => (e.1, if e.1 / 4 = n then { e.2 with linkUp := false } else e.2) }

/-- A fault of a media port: code 12, and its interfaces' links are trained again. -/
def execMediaPortFault (n : Fin 2) (s : State) : Out :=
  if mediaOn s n.val then .next (dropLinks n.val (countFault (.mediaPort n) 12 0xFF 0 s)) else .next s

/-- A synthesiser unlock of a serial audio port: code 13, and the port is reset. -/
def execAudioPortFault (n : Fin 8) (s : State) : Out :=
  if sapOn s n.val then .next (stopSap n.val (countFault (.audioPort n) 13 0xFF 0 s)) else .next s

/-! ### Removing a unit from service (R506, R507) -/

/-- Units that leave with a unit: a block's cells, and the clock lane with its port. -/
def withUnit : UnitRef → List UnitRef
  | .block b => .block b :: (List.range 16).map fun i => .cell (Fin.ofNat 1024 (b.val * 16 + i))
  | .fabPort p => [.fabPort p, .lane p 4]
  | .lane p l => if l = 4 then [.lane p 4, .fabPort p] else [.lane p l]
  | u => [u]

/-- Takes a unit out of the lists of units in service and of those that wait. -/
def markRetired (u : UnitRef) (s : State) : State :=
  let us := (withUnit u).filter fun x => !isRetired s x
  { s with
    flt := { s.flt with retired := s.flt.retired ++ us, due := s.flt.due.filter fun e => decide (e.1 ≠ u)
                        heldOut := s.flt.heldOut.filter fun x => decide (x ≠ u) }
    flash := { s.flash with mapDue := true } }

/-- A retired cell: its attempt returns to the ready list with the same attempt count. -/
def retireCell (c : Nat) (s : State) : State :=
  let s1 := match runningTask s c with
    | some (r, k, t) => requeue r k t (endAttempt c s)
    | none => s
  setCell c { cellAt s1 c with state := 3, task := none } s1

/-- The attempts that run in a region end and return to their lists. -/
def clearRegion (r : Nat) (s : State) : State :=
  (List.range 128).foldl (fun s i =>
    let c := r * 128 + i
    match runningTask s c with
    | some (h, k, t) => requeue h k t (endAttempt c s)
    | none => s) s

/-- The controller retirement of R340 or R343. -/
def retireController (n : Nat) (s : State) : State :=
  let others := (List.range 8).all fun i =>
    decide (i = n) || absentUnit s (.controller (Fin.ofNat 8 i)) || mcOn s i
  if !s.mem.trained.contains n then s
  else if others ∧ s.fuses.orderCode = 0 then
    raise evMemEvacuate noChan (u8 n ++ List.replicate 7 0)
      { s with mem := { s.mem with evac := true, evacMc := n, evacNext := 0, evacPoison := 0 } }
  else loseController n s

/-- A fabric port out of service: its packets go other ways, and it is OFF (DEDUCED, assumption log 61). -/
def retirePort (p : Nat) (s : State) : State :=
  let s1 := if linkUp s p then leaveLink p 0 6 s else s
  modFport p (fun f => { f with state := 0, lanes := f.lanes.map idleLane }) s1

/-- What leaves service with a unit. `s0` is the state in which the unit still served. -/
def dropUnit (u : UnitRef) (s0 s : State) : State :=
  match u with
  | .cell c => retireCell c.val s
  | .block b => (List.range 16).foldl (fun s i => retireCell (b.val * 16 + i) s) s
  | .region r => dropRegion r.val (clearRegion r.val s)
  | .controller n => retireController n.val s
  | .lane p l =>
    if l = 4 then
      retirePort p.val s
    else
      let was := (laneAt s p.val l.val).active
      let s1 := modLane p.val l.val (fun x => { x with retired := true }) s
      if was then narrow p.val 2 s1 else s1
  | .fabPort p =>
    let s1 := if linkUp s0 p.val then leaveLink p.val 0 6 s else s
    retirePort p.val s1
  | .sdiPort _ => sdiRefresh s
  | .mediaPort n => dropLinks n.val s
  | .audioPort n => stopSap n.val s
  | .control => s

/-! ### Re-placement at a retirement (R43, R242) -/

/-- Channels that leave this module by a yield, whose work the shadow takes. A channel in a planned handover still holds
its booking and can be shed (R45, R59). -/
def leaving (s : State) (h : Nat) : Bool :=
  decide ((chan s h).state = .migrating) &&
    match group? s h with
    | some g => g.boundary.isSome || g.yielded
    | none => false

/-- The marks of a picture's frames after a channel has new runs: a run that the retired pipeline had in
progress is issued again, what it had finished stays issued. -/
def remark (h p : Nat) (frame : Option (Nat × Nat × Nat × Nat)) (old new : List BandRun) (q : Picture) : Picture :=
  let dead := old.filter fun r => r.pipe = p
  let lost (r : BandRun) : Bool := decide (frame = some (h, r.work, r.band, q.capture))
  let again := dead.filter fun r => q.issued.contains (issueKey r) && !lost r
  let keys := (again.map fun r => (new.filter fun x => decide (x.work = r.work ∧ x.band = r.band)).map issueKey).flatten
  { q with issued := q.issued.filter (fun k => !dead.any fun r => decide (issueKey r = k)) ++ keys }

/-- Decoded slices of the run in progress are decoded again with it. -/
def redecode (h p : Nat) (x : Pipe) (old : List BandRun) (q : Picture) : Picture :=
  match x.frame with
  | some (ch, 1, band, cap) =>
    match old.find? fun r => decide (r.pipe = p ∧ r.work = 1 ∧ r.band = band) with
    | some r => if ch = h ∧ cap = q.capture then { q with decoded := q.decoded - (r.nSlices - x.slicesLeft.length) }
      else q
    | none => q
  | _ => q

/-- Every channel that stays gets new places for what lay on pipelines out of service, with those that leave
counted as gone; none when one finds no place. -/
def replaceStay (s : State) : Option State :=
  let gone := handles.filter (leaving s)
  let s1 := gone.foldl (fun s h => modChan h (fun c => { c with runs := [] }) s) s
  let (ok, s2) := replaceAll s1
  if ok then some (gone.foldl (fun t h => modChan h (fun c => { c with runs := (chan s h).runs }) t) s2)
  else none

/-- Brings pictures in line with new runs, and empties the pipelines out of service. -/
def remarkAll (old s : State) : State :=
  let dead := (List.range 8).filter fun p => !regionOn s p
  let one (s : State) (h p : Nat) : State :=
    let x := pipeOf s p
    let runs := (chan old h).runs
    modChan h (fun c => { c with
      pics := c.pics.map fun q => remark h p x.frame runs c.runs (redecode h p x runs q) }) s
  let moved := handles.filter fun h => decide ((chan old h).runs ≠ (chan s h).runs)
  let s1 := dead.foldl (fun s p => moved.foldl (fun s h => one s h p) s) s
  dead.foldl (fun s p =>
    let x := pipeOf s p
    if x.frame.isSome then setPipe p { x with frame := none, slicesLeft := [], parity := [], poison := [] } s
    else s) s1

/-! ### Handovers and shedding (R43 to R45, R508) -/

/-- Whether a channel had work in a retired unit. -/
def hadWork (s : State) (u : UnitRef) (h : Nat) : Bool :=
  let c := chan s h
  let uses (p : PortRef) : Bool := match c.cfg with
    | some f => (chanPorts s f).contains p
    | none => false
  match u with
  | .region r => c.runs.any fun x => decide (x.pipe = r.val)
  | .sdiPort n => uses (.sdi n)
  | .mediaPort n => uses (.media n)
  | _ => false

/-- Every protected channel that had work in the unit yields to its shadow. -/
def handOver (u : UnitRef) (s : State) : State :=
  (handles.filter fun h => isProtected s h && decide ((chan s h).state = .running) && hadWork s u h).foldl
    (fun s h => startYield h 1 s) s

/-- Channels whose bookings count after the handovers. -/
def staying (s : State) : List Nat := handles.filter fun h => booked (chan s h).state && !leaving s h

/-- The bytes that the channels that stay have booked on a port. -/
def ownBooked (s : State) (p : Nat) : Nat :=
  (((staying s).filter fun h => chanOnPort s h p).map fun h => (chan s h).fabBudget).sum

/-- Whether the bookings of a port fit its bookable bytes, with the transit that the manager books there. A port out of
service sheds no channel: its traffic goes other ways (R43, R404); transit alone sheds none either (DESIGN CHOICE,
assumption log 62). -/
def portFits (s : State) (p : Nat) : Bool :=
  !fabOn s p || decide (ownBooked s p = 0) || decide (ownBooked s p + transitBooked s p ≤ fabBookable s p)

/-- Whether every booking fits the capacity now (R45). -/
def bookingsFit (s : State) : Bool :=
  let hs := staying s
  decide ((hs.map fun h => (chan s h).cost).sum ≤ luTotal s) &&
    decide ((hs.map fun h => chanMem (chan s h)).sum ≤ memBookable s) && (List.range 8).all (portFits s)

/-- The channel to shed: the lowest rank, then the highest handle. -/
def shedNext (s : State) : List Nat → Option Nat
  | [] => none
  | h :: hs => match shedNext s hs with
    | none => some h
    | some g => if (chan s h).shedRank < (chan s g).shedRank then some h else some g

/-- Sheds a channel: by a yield, or stopped into FAULTED with EV_CHAN_SHED. -/
def shed (h : Nat) (s : State) : State :=
  let c := chan s h
  if isProtected s h && decide (c.state = .running) then startYield h 1 s
  else
    let s1 := match group? s h with
      | some g => if g.role = 0 then endGroup h (sendRelease h s) else endGroup h s
      | none => s
    let s2 := toState h .faulted (dropPackets (ofChan h) (dropCommit h s1))
    settle (endRun h (raise evChanShed h (u8 c.shedRank) s2))

/-- Sheds until every booking fits and every channel that stays has a place (DESIGN CHOICE, assumption log 62).
-/
def shedLoop : Nat → State → State
  | 0, s => s
  | fuel + 1, s =>
    match replaceStay s with
    | some t => if bookingsFit t then remarkAll s t
      else match shedNext s (staying s) with
        | some h => shedLoop fuel (shed h s)
        | none => remarkAll s t
    | none => match shedNext s (staying s) with
      | some h => shedLoop fuel (shed h s)
      | none => remarkAll s s

/-- EV_CAPACITY. -/
def evCapacityNow (s : State) : State :=
  raise evCapacity noChan (u32 (luTotal s) ++ u32 (luLimit s) ++ u32 (luBooked s)) s

/-- Containers of a unit whose parts are all retired are retired as well. -/
def alsoDue (u : UnitRef) (cause : Nat) (s : State) : State :=
  match u with
  | .cell c =>
    let b : Fin 64 := Fin.ofNat 64 (c.val / 16)
    if (List.range 16).all fun i => isRetired s (.cell (Fin.ofNat 1024 (b.val * 16 + i))) then
      becomePermanent (.block b) cause s
    else s
  | .block b =>
    let r : Fin 8 := Fin.ofNat 8 (b.val / 8)
    if (List.range 8).all fun i => isRetired s (.block (Fin.ofNat 64 (r.val * 8 + i))) then
      becomePermanent (.region r) cause s
    else s
  | _ => s

/-- Retires a unit: out of service, the recount, R43 to R45, and the events (R505). -/
def retire (u : UnitRef) (cause : Nat) (s : State) : State :=
  let n := s.flt.nextIndex
  let d (lu : Nat) : List Nat :=
    u8 (unitType u) ++ u8 cause ++ u16 (unitNumber u) ++ u32 n ++ u32 lu
  let s1 := (logFault 0x20 (unitType u) (unitNumber u) (windowCount s u) 0xFF 0
    (d (luTotal (markRetired u s))) s).2
  let s2 := dropUnit u s1 (markRetired u s1)
  if s2.modes.mode = .boot ∧ s1.modes.mode ≠ .boot then s2
  else
    let s3 := shedLoop 64 (handOver u s2)
    evCapacityNow (raise evUnitRetired noChan (d (luTotal s3)) (alsoDue u cause s3))

/-- Firmware retires the unit whose turn it is; during a restart this waits (R100, R505, R11). -/
def execUnitRetire (u : UnitRef) (_cause : Fin 4) (s : State) : Out :=
  match s.flt.due with
  | (v, c, _) :: _ => if v = u ∧ s.ctl.fwRunning = true then .next (retire u c s) else .next s
  | [] => .next s

/-! ### The map and the log (R511 to R513) -/

/-- Firmware writes the retirement map over the older copy. -/
def execRetirementMapWrite (s : State) : Out :=
  if s.flash.mapDue = true ∧ s.ctl.fwRunning = true then
    let f := s.flash
    let a := f.map0
    let b := f.map1
    let m : MapCopy := { ok := true, seq := (match mapCopy f with | some c => c.seq | none => 0) + 1,
                         units := s.flt.retired.filter fun u => !absentUnit s u,
                         node := if s.fab.valid then some s.fab.node else none }
    .next { s with flash := if a.ok ∧ (b.ok = false ∨ b.seq ≤ a.seq)
      then { f with map1 := m, mapDue := false } else { f with map0 := m, mapDue := false } }
  else .next s

/-- Entries that the fault log holds in flash, and those of a sector (R510). -/
def logCapacity : Nat := 61440
def logSector : Nat := 1024

/-- The next entry goes to flash; a full log first loses its oldest sector. -/
def writeEntry (f : Flt) : Flt :=
  if f.flashed < logCapacity then { f with flashed := f.flashed + 1 }
  else { f with log := f.log.drop logSector, flashed := f.flashed - logSector + 1 }

/-- Firmware writes the next entry. -/
def execFaultLogWrite (s : State) : Out :=
  if s.flt.flashed < s.flt.log.length ∧ s.ctl.fwRunning = true then .next { s with flt := writeEntry s.flt }
  else .next s

end Sys2Proof.Machine
end

