-- ==== Sys2Proof/Machine/Modes.lean ====
section
/-! DEFINITION. Machine/Modes.lean: DEV.MODE and the mode transitions, DEV.PORT and port-off, and draining
(R46 to R56). -/

namespace Sys2Proof.Machine

/-! ### Port-off (R52, R53) -/

/-- The media and SDI ports, in the order in which they relock. -/
def offPorts : List PortRef :=
  [.media 0, .media 1] ++ (List.range 8).map fun n => .sdi (Fin.ofNat 8 n)

/-- The ports that the monitor's route uses while the monitor runs. -/
def monPorts (s : State) : List PortRef :=
  if s.mon.state = 0 then []
  else match outputOf s s.mon.route with
    | some x => outputPorts x
    | none => []

/-- Whether a port carries a channel. -/
def portCarries (s : State) (p : PortRef) : Bool :=
  (monPorts s).contains p || handles.any fun h =>
    active (chan s h).state && match (chan s h).cfg with
      | some f => (chanPorts s f).contains p
      | none => false

/-- What follows a change of port-off: a media port's interfaces are down, SDI inputs see no signal. -/
def offEffects (p : PortRef) (s : State) : State :=
  match p with
  | .media n => dropLinks n.val s
  | .sdi _ => sdiRefresh s
  | .fab _ => s

/-- Places a media or SDI port in port-off for the host. -/
def hostOff (p : PortRef) (s : State) : State :=
  let m := s.modes
  endTurn p (offEffects p { s with modes := { m with
    portsOff := if m.portsOff.contains p then m.portsOff else m.portsOff ++ [p]
    offByDevice := m.offByDevice.filter fun q => decide (q ≠ p) } })

/-- Ports that leave port-off relock one at a time, in order. -/
def relock (ps : List PortRef) (s : State) : State :=
  queueRelock (fun p => ps.contains p && s.modes.portsOff.contains p) s

/-- The port of PORT_KIND and PORT_UNIT. -/
def portOf (kind unit : Nat) : PortRef :=
  if kind = 1 then .media (Fin.ofNat 2 unit) else .sdi (Fin.ofNat 8 unit)

/-- DEV.PORT: a port goes to port-off, or its relock begins (R52; DEDUCED, assumption log 66). -/
def devPortWork (r : Req) (s : State) : Verdict :=
  let kind := tlvD r 0x0150 0
  let unit := tlvD r 0x0151 0
  let w := tlvD r 0x0152 0
  let p := portOf kind unit
  paramsThen [(decide (w = 1 ∨ 2 < w ∨ kind = 0 ∨ 2 < kind), 0x0150),
              (decide (unit ≥ if kind = 1 then 2 else 8), 0x0151)]
    (if w = 0 then .ok (relock [p] s) [] false
     else if portCarries s p then badMode s
     else .ok (hostOff p s) [] false)

def execDevPort (r : Req) (s : State) : Out := .next (serve sDevPort r devPortWork s)

/-- The turn of a port that leaves port-off ends, and the next port's begins. A media or SDI port is then in service; a
fabric port has been in its bring-up since its turn began (R52, R374; DEDUCED, assumption log 66). -/
def execPortRelock (p : PortRef) (s : State) : Out :=
  if s.modes.relocking.head? = some p then
    .next (endTurn p (offEffects p { s with modes := { s.modes with
      portsOff := s.modes.portsOff.filter (fun x => decide (x ≠ p))
      offByDevice := s.modes.offByDevice.filter fun x => decide (x ≠ p) } }))
  else .next s

/-! ### Entry to a mode (R53, R83, R93, R439, R482, R504) -/

/-- Ports in UP go to keep-alive, and media and SDI ports that are not there go to port-off. A port that the host has
brought out of port-off and whose relock is still pending keeps its place in the queue and comes into service in DORMANT:
the spec does not say what becomes of it (R53; DESIGN CHOICE, assumption log 66). -/
def enterDormant (s : State) : State :=
  let ups := (List.range 8).filter fun p => decide (portState s p = 4) && !(fport s p).devKeep
  let s1 := ups.foldl (fun s p => askPower p 1 (modFport p (fun f => { f with devKeep := true }) s)) s
  let ps := offPorts.filter fun p => !s1.modes.portsOff.contains p
  let s2 := { s1 with modes := { s1.modes with
      portsOff := s1.modes.portsOff ++ ps, offByDevice := s1.modes.offByDevice ++ ps } }
  ps.foldl (fun s p => offEffects p s) s2

/-- DORMANT is left: keep-alive ports of the device go back to full, and its ports in port-off relock. -/
def leaveDormant (s : State) : State :=
  let ups := (List.range 8).filter fun p => (fport s p).devKeep
  let back (s : State) (p : Nat) : State :=
    let s1 := modFport p (fun f => { f with devKeep := false }) s
    if portState s1 p = 5 ∧ (fport s1 p).hostKeep = false then askPower p 0 s1 else s1
  relock s.modes.offByDevice (ups.foldl back s)

/-- Windows 8 to 15 become the host's. -/
def ownWindows (s : State) : State :=
  let set (t : Tab Win) (n : Nat) : Tab Win := tabMod Win.reset t n fun w => { w with hostOwn := true }
  { s with ctl := { s.ctl with wins := [8, 9, 10, 11, 12, 13, 14, 15].foldl set s.ctl.wins } }

/-- What the entry to a mode brings with it; what is so already stays (DEDUCED, assumption log 66). -/
def enterMode (m : Mode) (s : State) : State :=
  match m with
  | .dormant => enterDormant (stopMon (stopAudio s))
  | .service => ownWindows (stopMon (stopAudio s))
  | .ready => ownWindows s
  | _ => s

/-- The self-test of the reset ends with the boot: EV_SELFTEST with its summary entry, where SELFTEST_DONE has
not reported it (DEDUCED, assumption log 41). -/
def endBootTest (s : State) : State :=
  if s.flt.selftest = some bootTest then
    let (i, s1) := logFault 0x21 0 0 0 0xFF 0 [0] s
    raise evSelftest noChan (u8 0 ++ u32 i) { s1 with flt := { s1.flt with selftest := none } }
  else s

/-- Firmware's work when it first reaches READY or SERVICE. -/
def endBoot (s : State) : State :=
  let r := bootRecord s.flash
  let f := if r.trial = 0 then s.flash else writeRecord s.flash r.preferred 0 r.bootToService
  endBootTest { s with flash := f }

/-- A transition completes: EV_MODE. A boot waits for the retirements that its self-test made due, the exit from
DORMANT for the ports that relock (DEDUCED, assumption log 66). -/
def completeMode (s : State) : State :=
  let m := s.modes
  let s1 := enterMode m.goal (if m.old = .boot then endBoot s else s)
  settle (hifSync (evModeDone m.old m.goal { s1 with modes := { s1.modes with incomplete := false } }))

def execModeTransitionComplete (s : State) : Out :=
  let m := s.modes
  if m.incomplete ∧ s.ctl.fwRunning ∧ (m.old ≠ .boot ∨ s.flt.due = []) ∧ (m.old ≠ .dormant ∨ m.offByDevice = [])
  then .next (completeMode s) else .next s

/-! ### DRAIN (R55, R56) -/

/-- What a channel does on entry to DRAIN: a protected active yields, a shadow stops at the next picture
boundary. -/
def drainChan (s : State) (h : Nat) : State :=
  let c := chan s h
  match c.cfg with
  | none => s
  | some f =>
    if isProtected s h ∧ c.state = .running then startYield h 3 s
    else if f.role = .shadow ∧ (c.state = .starting ∨ c.state = .running) then
      stopAt h (stopPick c none) (stopGroup h (stopFor c (stopPick c none)) s)
    else s

/-- Witness duty is withdrawn: REFUSE with reason 2 to each active (R464; DEDUCED, assumption log 66). -/
def dropWitness (s : State) : State :=
  let ws := s.prt.witnesses.filter fun e => !e.2.granted
  let s1 := ws.foldl (fun s e => sendLease e.2.activeNode 3 (witnessMsg s e.2 2 0 0) s) s
  { s1 with prt := { s1.prt with witnesses := s1.prt.witnesses.filter fun e => e.2.granted } }

/-- Entry to DRAIN with a target and a limit in seconds. -/
def startDrain (target : Mode) (limit : Nat) (s : State) : State :=
  let s1 := setModeNow .drain { s with modes := { s.modes with
      target := target, drainEnds := nowNs s + limit * 1000000000 } }
  settle (handles.foldl drainChan (dropWitness s1))

/-- The drain limit acts on a channel. -/
def drainLimit (s : State) (h : Nat) : State :=
  match (chan s h).state with
  | .starting | .running | .stopping => stopAbort h (stopGroup h 0 s)
  | _ => s

def execDrainLimitExpiry (s : State) : Out :=
  if s.modes.mode = .drain ∧ s.ctl.fwRunning = true ∧ s.modes.drainEnds ≤ nowNs s then
    .next (handles.foldl drainLimit s)
  else .next s

/-! ### DEV.MODE (R49, R50) -/

/-- The mode of a code. -/
def modeOf : Nat → Mode
  | 0 => .boot
  | 1 => .service
  | 2 => .dormant
  | 3 => .ready
  | 4 => .operate
  | _ => .drain

/-- A transition that takes time begins (DEDUCED, assumption log 66). -/
def beginEntry (m : Mode) (s : State) : State :=
  let s1 := beginMode m s
  enterMode m (if s.modes.mode = .dormant then leaveDormant s1 else s1)

/-- DEV.MODE: the transitions of R49 (DEDUCED, assumption log 66, of codes that are no target). -/
def devModeWork (r : Req) (s : State) : Verdict :=
  let code := tlvD r 0x0109 0
  let t := tlvD r 0x010A 0
  let limit := tlvD r 0x010B 10
  let drains := decide (code = 5)
  let cur := s.modes.mode
  let go : Verdict := .ok (beginEntry (modeOf code) s) [] false
  paramsThen [(decide (5 < code), 0x0109), (drains && decide (t = 0 ∨ 3 < t), 0x010A),
              (drains && decide (limit < 1 ∨ 600 < limit), 0x010B)]
    (if s.modes.incomplete then .err stBusy 0 []
     else if modeOf code = cur then .ok s [] false
     else match cur, modeOf code with
       | .ready, .dormant => if allSettled s then go else badMode s
       | .dormant, .ready => go
       | .ready, .service => if handles.all fun h => decide ((chan s h).state = .idle) then go else badMode s
       | .service, .ready => go
       | .ready, .drain => .ok (startDrain (modeOf t) limit s) [] false
       | .operate, .drain => .ok (startDrain (modeOf t) limit s) [] false
       | _, _ => badMode s)

def execDevMode (r : Req) (s : State) : Out := .next (serve sDevMode r devModeWork s)

end Sys2Proof.Machine
end

