-- ==== Sys2Proof/Machine/Hlth.lean ====
section
/-! DEFINITION. Machine/Hlth.lean: the HLTH opcodes and the long self-test (R504, R512 to R519). -/

namespace Sys2Proof.Machine

/-! ### HLTH.STATUS and HLTH.THRESH (R518, R519) -/

/-- The eight entries of VOLTS and TEMPS. -/
def voltBytes (h : Hlth) : List Nat :=
  ((List.range 8).map fun i => u16 (h.volts.getD i 0) ++ u16 (h.voltsMin.getD i 0)).flatten

def tempBytes (h : Hlth) : List Nat :=
  ((List.range 8).map fun i => u16 (twos 2 (h.temps.getD i 0)) ++ u16 (twos 2 (h.tempsMax.getD i 0))).flatten

/-- The report; the lowest and highest values start again from the present ones. -/
def hlthStatusWork (_ : Req) (s : State) : Verdict :=
  let h := s.hlth
  .ok { s with hlth := { h with voltsMin := h.volts, tempsMax := h.temps } }
    [tlvB 0x0B01 (voltBytes h), tlvB 0x0B02 (tempBytes h), tlv 0x0B03 4 h.powerMw,
     tlv 0x0B04 4 s.mbx.discards] false

def execHlthStatus (r : Req) (s : State) : Out := .next (serve sHlthStatus r hlthStatusWork s)

def hlthThreshWork (r : Req) (s : State) : Verdict :=
  let ws := (List.range 8).map fun i => fieldAt (tlvD r 0x0B30 0) i 1
  if ws.any fun w => decide (w < 50 ∨ 105 < w) then .err stBadParam 0x0B30 []
  else .ok { s with hlth := { s.hlth with warn := ws } } [] false

def execHlthThresh (r : Req) (s : State) : Out := .next (serve sHlthThresh r hlthThreshWork s)

/-! ### HLTH.FAULTS (R512, R514) -/

/-- A log entry's 64 bytes. -/
def entryBytes (e : LogEntry) : List Nat :=
  let b := u32 e.index ++ u8 e.code ++ u8 e.unitType ++ u16 e.unit ++ u8 e.count ++ u8 e.channel ++ [0, 0] ++
    u32 e.powerOn ++ u64 e.time ++ u64 e.address ++ (e.detail ++ List.replicate 24 0).take 24 ++
    u32 e.fwVersion
  b ++ u32 (crc32c b)

/-- Entries on a page. -/
def pageEntries : Nat := 59

def hlthFaultsWork (r : Req) (s : State) : Verdict :=
  let es := s.flt.log.filter fun e => decide (tlvD r 0x0B10 0 ≤ e.index)
  let page := (es.take pageEntries).map fun e => tlvB 0x0B11 (entryBytes e)
  match es.drop pageEntries with
  | [] => .ok s page false
  | e :: _ => .ok s (page ++ [tlv 0x0B10 4 e.index]) true

def execHlthFaults (r : Req) (s : State) : Out := .next (serve sHlthFaults r hlthFaultsWork s)

/-! ### HLTH.SELFTEST (R504, R516, R517) -/

/-- The scope bit of a unit; the control processor is in none. -/
def scopeBit : UnitRef → Option Nat
  | .cell _ => some 0
  | .block _ => some 0
  | .region _ => some 1
  | .controller _ => some 2
  | .lane _ _ => some 3
  | .fabPort _ => some 3
  | .mediaPort _ => some 4
  | .sdiPort _ => some 5
  | .audioPort _ => some 6
  | .control => none

/-- Whether a test covers a unit: the test of a device reset covers all. -/
def covers (scope : Nat) (u : UnitRef) : Bool :=
  match scopeBit u with
  | some b => decide (scope = bootTest) || bitAt scope b
  | none => false

/-- The test starts. Fabric ports under test go through port-off, which their peers see. -/
def startTest (scope : Nat) (s : State) : State :=
  let ups := if bitAt scope 3 then (List.range 8).filter (linkUp s) else []
  ups.foldl (fun s p => leaveLink p 1 6 (sendPower p 2 0 s))
    { s with flt := { s.flt with selftest := some scope, testPorts := ups.map fun p => (p, fport s p) } }

def hlthSelftestWork (r : Req) (s : State) : Verdict :=
  let v := tlvD r 0x0B20 0
  if bitsAt v 8 23 ≠ 0 then .err stBadParam 0x0B20 [] else .ok (startTest v s) [] false

def execHlthSelftest (r : Req) (s : State) : Out := .next (serve sHlthSelftest r hlthSelftestWork s)

def insertUnit (u : UnitRef) : List UnitRef → List UnitRef
  | [] => [u]
  | v :: vs => if unitKey u ≤ unitKey v then u :: v :: vs else v :: insertUnit u vs

def sortUnits (us : List UnitRef) : List UnitRef := us.foldr insertUnit []

/-- A unit that fails: permanent, and code 16 counted against it (DEDUCED, assumption log 61). -/
def failUnit (s : State) (u : UnitRef) : State := countFault u 16 0xFF 0 (becomePermanent u 2 s)

/-- What comes back with a unit. -/
def unitBack (u : UnitRef) (s : State) : State :=
  match u with
  | .cell c => setCell c.val { cellAt s c.val with state := 0 } s
  | .controller n => { s with mem := { s.mem with
      trained := (List.range 8).filter fun i => decide (i = n.val) || s.mem.trained.contains i
      topGib := max s.mem.topGib (16 * ((List.range 8).filter fun i =>
        decide (i = n.val) || s.mem.trained.contains i).length) } }
  | .lane p l => modLane p.val l.val (fun x => { x with retired := false }) s
  | .fabPort p => modFport p.val (fun f => { f with state := 1 }) s
  | .sdiPort _ => sdiRefresh s
  | _ => s

/-- The units that a restored unit takes out of the map. -/
def comesBack : UnitRef → List UnitRef
  | .fabPort p => [.fabPort p, .lane p 4]
  | u => [u]

/-- A retired unit returns to service: out of the map, a recount and its events (DEDUCED, assumption log 67). -/
def restoreUnit (s : State) (u : UnitRef) : State :=
  let s1 := unitBack u { s with
    flt := { s.flt with retired := s.flt.retired.filter fun x => !(comesBack u).contains x }
    flash := { s.flash with mapDue := true } }
  raise evUnitRestored noChan (u8 (unitType u) ++ [0] ++ u16 (unitNumber u) ++ u32 (luTotal s1)) (evCapacityNow s1)

/-- The retired units that RETEST has covered: one that passes twice in succession returns. -/
def retest (scope : Nat) (failed passed : List UnitRef) (s : State) : State :=
  if bitAt scope 31 = false ∨ scope = bootTest then s
  else
    let was := s.flt.passedOnce
    let ok := sortUnits (passed.filter fun u => isRetired s u && !absentUnit s u && covers scope u)
    let back := ok.filter fun u => was.contains u
    let once := (was.filter fun u => !failed.contains u && !back.contains u) ++
      ok.filter fun u => !was.contains u
    back.foldl restoreUnit { s with flt := { s.flt with passedOnce := once } }

/-- A self-test completes with the units that failed and the retired units that passed: the summary entry and
EV_SELFTEST (DEDUCED, assumption log 41). -/
def execSelftestDone (failed passed : List UnitRef) (s : State) : Out :=
  match s.flt.selftest with
  | none => .next s
  | some scope =>
    if !s.ctl.fwRunning then .next s
    else
      let bad := sortUnits (failed.filter fun u => inService s u && covers scope u)
      let s1 := retest scope failed passed (bad.foldl failUnit s)
      let d := u8 (if bad.isEmpty then 0 else 1)
      let (i, s2) := logFault 0x21 0 0 0 0xFF 0 d s1
      .next (raise evSelftest noChan (d ++ u32 i) { s2 with flt := { s2.flt with selftest := none, testPorts := [] } })

end Sys2Proof.Machine
end

