-- ==== Sys2Proof/Machine/Fw.lean ====
section
/-! DEFINITION. Machine/Fw.lean: the FW opcodes (R88 to R93, R140, R532). -/

namespace Sys2Proof.Machine

/-- The first 32 bytes of the header in a slot (R89). -/
def slotStart (s : State) (k : Nat) : List Nat := byteNats (memReads s.flash.bytes (slotAt k) 32)

/-- FW.INFO: the headers of both slots in one TLV of 64 bytes, the rollback counter, and the boot record (DEDUCED, assumption
log 67). -/
def fwInfoWork (_ : Req) (s : State) : Verdict :=
  .ok s [tlvB 0x0C01 (slotStart s 0 ++ slotStart s 1), tlv 0x0C02 1 s.fuses.rollback,
         tlvB 0x0C03 (recordBytes16 (bootRecord s.flash))] false

def execFwInfo (r : Req) (s : State) : Out := .next (serve sFwInfo r fwInfoWork s)

/-- Starts the write of the image in a buffer into a slot, which is unverified until the write has ended. The slot holds
the image's bytes from here on (DEDUCED, assumption log 63). -/
def startWrite (k : Nat) (b : Buf) (s : State) : State :=
  let n := headerBytes + (headerOf s.mem.dram b.addr).bodyLen
  { s with flash := { s.flash with
      writing := some k, broken := false
      bytes := memCopy s.mem.dram b.addr n s.flash.bytes (slotAt k)
      unverified := s.flash.unverified.filter (· ≠ k) ++ [k] } }

/-- FW.WRITE: the checks of R90 on the image at the buffer's start, in the buffer's size (R140; DEDUCED, assumption log
63). -/
def fwWriteWork (r : Req) (s : State) : Verdict :=
  let k := tlvD r 0x0C10 0
  if 1 < k ∨ k = s.ctl.boot.source then .err stBadParam 0x0C10 []
  else match tabGet? s.mem.bufs (tlvD r 0x0C11 0) with
    | none => .err stBadParam 0x0C11 []
    | some b =>
      let f := imageFail s s.mem.dram b.addr b.size
      if s.flash.writing.isSome then .err stBusy 0 []
      else if f ≠ 0 then .err stAuth f []
      else .ok (startWrite k b s) [] false

def execFwWrite (r : Req) (s : State) : Out := .next (serve sFwWrite r fwWriteWork s)

/-- The write of a slot and its verification end. -/
def execFwWriteDone (slot : Fin 2) (verified : Bool) (s : State) : Out :=
  if s.flash.writing = some slot.val ∧ s.flash.broken = false then
    .next (raise evFwWritten noChan (u8 slot.val ++ [0] ++ u16 (if verified then stOk else stFault))
      { s with flash := { s.flash with
          writing := none
          unverified := if verified then s.flash.unverified.filter (· ≠ slot.val) else s.flash.unverified } })
  else .next s

/-- Whether the last write of a slot verified (R140). -/
def verifiedSlot (s : State) (k : Nat) : Bool := !s.flash.unverified.contains k

/-- FW.ACTIVATE; an unverified slot has no fault log entry to name, so the detail is free (DESIGN CHOICE,
assumption log 49). -/
def fwActivateWork (r : Req) (s : State) : Verdict :=
  let k := tlvD r 0x0C10 0
  if 1 < k then .err stBadParam 0x0C10 []
  else if verifiedSlot s k then
    .ok { s with flash := writeRecord s.flash k 1 (bootRecord s.flash).bootToService } [] false
  else .err stFault (Config.freeNat s.free) []

/-- Whether FW.ACTIVATE is carried out: the device then resets into BOOT. -/
def activates (r : Req) (s : State) : Bool :=
  taken sFwActivate r s && decide (tlvD r 0x0C10 0 ≤ 1) && verifiedSlot s (tlvD r 0x0C10 0)

def execFwActivate (r : Req) (s : State) : Out :=
  let s1 := serve sFwActivate r fwActivateWork s
  .next (if activates r s then resetBoot (deliverNow r s1)
    else if taken sFwActivate r s ∧ tlvD r 0x0C10 0 ≤ 1 then { s1 with free := s1.free + 1 } else s1)

def fwRollbackWork (r : Req) (s : State) : Verdict :=
  let v := tlvD r 0x0C02 0
  if 63 < v ∨ v < s.fuses.rollback ∨ (slotHeader s 0).rollback < v ∨ (slotHeader s 1).rollback < v then
    .err stBadParam 0x0C02 []
  else .ok { s with fuses := { s.fuses with rollback := v } } [] false

def execFwRollback (r : Req) (s : State) : Out := .next (serve sFwRollback r fwRollbackWork s)

def fwBootflagWork (r : Req) (s : State) : Verdict :=
  let v := tlvD r 0x0C20 0
  let b := bootRecord s.flash
  if 1 < v then .err stBadParam 0x0C20 []
  else .ok { s with flash := writeRecord s.flash b.preferred b.trial (decide (v = 1)) } [] false

def execFwBootflag (r : Req) (s : State) : Out := .next (serve sFwBootflag r fwBootflagWork s)

end Sys2Proof.Machine
end

