-- ==== Sys2Proof/Machine/Routes.lean ====
section
/-! DEFINITION. Machine/Routes.lean: the routes that the fabric manager computes from the topology it has learned: shortest
routes that end at, and do not pass, a module in DORMANT; datelines and port groups; the tree of group 0; and the pages of
FAB.ROUTE (R48, R390, R397, R401, R402). The spec gives the routes of its reference torus; these give the same there (DESIGN
CHOICE, assumption log 58). -/

namespace Sys2Proof.Machine

/-- One direction of a link between two nodes by their addresses and ports; `up` when it carries all VCs, or would but for
an end in DORMANT. -/
structure RLink where
  node : Nat
  port : Nat
  peer : Nat
  peerPort : Nat
  up : Bool
  deriving DecidableEq, Repr

/-- The topology: the links in UP or KEEPALIVE, each node's ports in order, and the nodes in DORMANT. -/
structure Topo where
  links : List RLink
  dormant : List Nat
  deriving DecidableEq, Repr

/-- The address of a UID. -/
def addrOf (as : List (Nat × Nat)) (uid : Nat) : Option Nat :=
  (as.find? fun e => decide (e.2 = uid)).map Prod.fst

/-- The links that a node reports. -/
def nodeLinks (as : List (Nat × Nat)) (dormant : List Nat) (n : NodeReport) : List RLink :=
  match addrOf as n.uid with
  | none => []
  | some a =>
    ((List.range n.ports.length).zip n.ports).filterMap fun e =>
      match addrOf as e.2.peerUid with
      | some b =>
        if e.2.state = 4 ∨ e.2.state = 5 then
          some { node := a, port := e.1, peer := b, peerPort := e.2.peerPort,
                 up := decide (e.2.state = 4) || dormant.contains a || dormant.contains b }
        else none
      | none => none

/-- The topology that reports show. -/
def topoOf (as : List (Nat × Nat)) (ns : List NodeReport) : Topo :=
  let dormant := (ns.filter NodeReport.dormant).filterMap fun n => addrOf as n.uid
  { links := (ns.map (nodeLinks as dormant)).flatten, dormant := dormant }

/-! ### Shortest routes -/

/-- The nodes one hop further from a destination than `k`, added to the distances. -/
def growRoutes (ls : List RLink) (dormant : List Nat) (dist : Tab Nat) (k : Nat) : Tab Nat :=
  let near (l : RLink) : Bool :=
    decide (tabGet? dist l.peer = some k) && (decide (k = 0) || !dormant.contains l.peer)
  ls.foldl (fun d l => if near l && (tabGet? d l.node).isNone then tabSet d l.node (k + 1) else d) dist

/-- The distance of every node within 31 hops of a destination. -/
def distances (ls : List RLink) (dormant : List Nat) (dest : Nat) : Tab Nat :=
  (List.range 31).foldl (growRoutes ls dormant) [(dest, 0)]

/-- The links of the routes from a node to a destination: those in UP where they reach it, else all. -/
def linksFor (t : Topo) (own dest : Nat) : List RLink :=
  let ups := t.links.filter RLink.up
  if (tabGet? (distances ups t.dormant dest) own).isSome then ups else t.links

/-- The first links of the shortest routes, lowest port first. On the reference torus these stand in X, then Y, then Z. -/
def firstLinks (t : Topo) (own dest : Nat) : List RLink :=
  let ls := linksFor t own dest
  let dist := distances ls t.dormant dest
  ls.filter fun l => decide (l.node = own) && (decide (l.peer = dest) || !t.dormant.contains l.peer) &&
    match tabGet? dist own, tabGet? dist l.peer with
    | some d, some e => decide (d = e + 1)
    | _, _ => false

/-- The port group of a port: 1 for FP0 and FP1, 2 for FP2 and FP3, 3 for FP4 and FP5, 0 for FP6 and FP7. -/
def portGroup (p : Nat) : Nat := if p < 6 then p / 2 + 1 else 0

/-- FAB_RT_CTL.GROUP of every node. -/
def groupValue : Nat := ((List.range 8).map fun p => portGroup p * 4 ^ p).sum

/-- The other direction of a port's dimension. -/
def otherWay (p : Nat) : Nat := if p % 2 = 0 then p + 1 else p - 1

/-- The primary link of a route. -/
def primaryLink (t : Topo) (own dest : Nat) : Option RLink := (firstLinks t own dest).head?

/-- The alternate port of a route: the first of a shortest route in another dimension, else the other direction of the
same one, else another port of a shortest route. -/
def alternatePort (t : Topo) (own dest : Nat) : Option Nat :=
  let ls := firstLinks t own dest
  match ls.head? with
  | none => none
  | some l =>
    let back := t.links.find? fun x => decide (x.node = own ∧ x.port = otherWay l.port ∧ l.port < 6)
    ((ls.find? fun x => decide (portGroup x.port ≠ portGroup l.port)) <|> back <|>
      ls.find? fun x => decide (x.port ≠ l.port)).map RLink.port

/-- The output ports of a route, node by node, by the primary entries. `fuel` bounds the hops. -/
def routePath (t : Topo) : Nat → Nat → Nat → List (Nat × Nat)
  | 0, _, _ => []
  | fuel + 1, own, dest =>
    if own = dest then []
    else match primaryLink t own dest with
      | some l => (own, l.port) :: routePath t fuel l.peer dest
      | none => []

/-- A unicast entry of the manager's tables at a node (R400). -/
def routeEntry (t : Topo) (own dest : Nat) : Nat :=
  if own = dest then 0x2080
  else match primaryLink t own dest with
    | none => 0
    | some l =>
      let alt := match alternatePort t own dest with
        | some a => a % 8 * 8 + 64
        | none => 0
      l.port % 8 + alt + 128 + min 31 (routePath t 31 own dest).length * 256

/-! ### Datelines (R397) -/

/-- The ring through a node in the positive direction of a dimension, from the node on; empty where it does not close.
`fuel` bounds its length. -/
def ringFrom (t : Topo) (p start : Nat) : Nat → Nat → List Nat
  | 0, _ => []
  | fuel + 1, own =>
    match t.links.find? fun l => decide (l.node = own ∧ l.port = p ∧ l.peerPort = p + 1) with
    | none => []
    | some l =>
      if l.peer = start then [own]
      else match ringFrom t p start fuel l.peer with
        | [] => []
        | r => own :: r

/-- DATELINE of a node: in each ring the ports of the link into the node with the lowest address. -/
def datelineOf (t : Topo) (own : Nat) : Nat :=
  ([0, 2, 4].map fun p =>
    let r := ringFrom t p own 512 own
    let low := r.foldl min own
    let next := (r ++ r).getD 1 own
    if r.isEmpty then 0
    else (if own = low then 2 ^ (p + 1) else 0) + (if next = low then 2 ^ p else 0)).sum

/-! ### Group 0 (R401) -/

/-- Group 0 at a node: its own delivery, its port towards the lowest address, and the ports of the nodes whose port towards
it leads here. -/
def groupZero (t : Topo) (nodes : List Nat) (own : Nat) : Nat :=
  let root := nodes.foldl min own
  let up := match primaryLink t own root with
    | some l => [l.port]
    | none => []
  let down := (t.links.filter fun l => decide (l.node = own ∧ l.peer ≠ root) &&
    match primaryLink t l.peer root with
    | some b => decide (b.peer = own ∧ b.port = l.peerPort)
    | none => false).map RLink.port
  256 + bitmap 8 fun p => (up ++ down).contains p

/-! ### Pages (R402) -/

/-- A page of FAB.ROUTE as its TABLE TLV of 4,060 bytes. -/
def pageTlv (epoch page kind first : Nat) (entries : List Nat) (dateline group : Nat) : Tlv :=
  let bs := u32 epoch ++ u16 page ++ u8 kind ++ [0] ++ u16 first ++ u16 entries.length ++ u8 dateline ++ [0] ++
    u16 group ++ (entries.map u16).flatten
  tlvB 0x0730 (bs ++ List.replicate (4060 - bs.length) 0)

/-- The pages of a node's full load: one unicast page and three multicast pages. -/
def loadPages (t : Topo) (epoch : Nat) (nodes : List Nat) (own : Nat) : List Tlv :=
  let uni := (List.range 512).map fun n => if nodes.contains n then routeEntry t own n else 0
  let multi := groupZero t nodes own :: List.replicate 4095 0
  let part (page first n : Nat) : Tlv := pageTlv epoch page 1 first ((multi.drop first).take n) 0 0
  [pageTlv epoch 0 0 0 uni (datelineOf t own) groupValue, part 1 0 2022, part 2 2022 2022, part 3 4044 52]

end Sys2Proof.Machine
end

