-- ==== Sys2Proof/Machine/Net.lean ====
section
/-! DEFINITION. Machine/Net.lean: claims and election, discovery and addresses, routing tables, transit booking, lost
nodes, and the sources of time over the fabric (R160, R161, R382 to R390, R400 to R407). -/

namespace Sys2Proof.Machine

/-! ### Claims and election (R383 to R386) -/

/-- A HELLO leaves on every port in UP or KEEPALIVE, and the own epoch of a candidate rises. -/
def execHelloTimer (s : State) : Out :=
  let s1 := { s with fab := { s.fab with
      epoch := if s.fab.priority < 255 then (s.fab.epoch + 1) % 4294967296 else s.fab.epoch } }
  let s2 := recheckOffice s1
  let ports := (List.range 8).filter (linkUp s2)
  let s3 := { s2 with fab := { s2.fab with hellos := ports.map fun p => (p, helloOf s2 p) } }
  .next (ports.foldl (fun s p => sendHello p s) s3)

/-- Whether an epoch heard has advanced, in serial order (R385). -/
def epochAdvanced (old new : Nat) : Bool :=
  let d := (new + 4294967296 - old % 4294967296) % 4294967296
  decide (1 ≤ d ∧ d ≤ 2147483647)

/-- The candidate of a HELLO enters the claims heard. The node address of a candidate more than one hop away is
a free value: HELLO does not carry it (DEDUCED, assumption log 57; DEDUCED, assumption log 59). -/
def hearClaim (p : Nat) (h : HelloMsg) (s : State) : State :=
  if h.candUid = s.fuses.uid ∨ 255 ≤ h.candPriority then s
  else
    let old := s.fab.cands.find? fun c => decide (c.uid = h.candUid)
    let (n, s1) := takeFree s
    let node := if h.candUid = h.uid then h.node else match old with
      | some c => c.node
      | none => n % 512
    let d := h.candDistance + 1
    let c : Cand := match old with
      | none => { uid := h.candUid, priority := h.candPriority, epoch := h.candEpoch, distance := d,
                  heardAt := nowNs s, advancedAt := nowNs s, office := h.office, node := node, port := p }
      | some c =>
        let adv := epochAdvanced c.epoch h.candEpoch
        let nearer : Bool := decide (d < c.distance) || decide (c.port = p) || !candLive s c
        { c with priority := h.candPriority, epoch := if adv then h.candEpoch else c.epoch
                 advancedAt := if adv then nowNs s else c.advancedAt, heardAt := nowNs s
                 distance := if nearer then d else c.distance, port := if nearer then p else c.port
                 office := h.office, node := node }
    { s1 with fab := { s1.fab with
        cands := s1.fab.cands.filter (fun x => decide (x.uid ≠ h.candUid)) ++ [c] } }

/-- A HELLO arrives on a port. -/
def execHello (p : Fin 8) (h : HelloMsg) (s : State) : Out :=
  if !linkUp s p.val then .next s
  else
    .next (recheckOffice (hearClaim p.val h (modFport p.val (fun f => { f with
      peerUid := h.uid, peerPort := h.port, peerRev := h.ifRevMax, peerLevel := h.level, peerMode := h.mode }) s)))

/-- A candidate that is no longer live leaves the claims. -/
def execCandidateTimeout (uid : Nat) (s : State) : Out :=
  let gone (c : Cand) : Bool := decide (c.uid = uid) && !candLive s c
  .next (recheckOffice { s with fab := { s.fab with cands := s.fab.cands.filter fun c => !gone c } })

/-- The manager asks for the ports of the neighbours that a node's report or its own ports show and that it does not know,
along directed routes (R387, R388; DEDUCED, assumption log 58). -/
def askPorts (path : List Nat) (n : NodeReport) (s : State) : State :=
  ((List.range n.ports.length).zip n.ports).foldl (fun s e =>
    let known : Bool := decide (e.2.peerUid = s.fuses.uid) || s.fab.reports.any fun r => decide (r.uid = e.2.peerUid)
    if (e.2.state = 4 ∨ e.2.state = 5) ∧ known = false ∧ path.length < 31 then
      sendDirected 2 .plain (path ++ [e.1]) s
    else s) s

/-- 20 ms as its own candidate: the module takes office; during a restart this waits (R99, R386; DEDUCED,
assumption log 59). -/
def execManagerTakeOffice (s : State) : Out :=
  match s.fab.selfSince with
  | some t =>
    if s.ctl.fwRunning = true ∧ s.fab.manager = false ∧ ownCandidate s = true ∧ t + 20000000 ≤ nowNs s then
      let node := if s.fab.valid then s.fab.node else 0xFFFF
      let t := recheckOffice { s with fab := { s.fab with manager := true, loaded := [], lostSince := [], assigned := [] } }
      .next (raise evFabManager noChan (u16 node ++ [0, 1, 0, 0, 0, 0] ++ u64 s.fuses.uid)
        (askPorts [] (selfReport t) t))
    else .next s
  | none => .next s

/-- FAB.PRIORITY. -/
def fabPriorityWork (r : Req) (s : State) : Verdict :=
  .ok (recheckOffice { s with fab := { s.fab with priority := tlvD r 0x0720 0 } }) [] false

def execFabPriority (r : Req) (s : State) : Out := .next (serve sFabPriority r fabPriorityWork s)

/-! ### Discovery and addresses (R382, R387 to R389) -/

/-- A directed-route packet at a router: from this module, or from a port. -/
def execDirectedRoutePacket (p : Option (Fin 8)) (pkt : FabPkt) (s : State) : Out :=
  .next (routePacket (p.map Fin.val) { pkt with dr := true } s)

/-- A packet that the router takes from a port, or that this module injects (R40, R400). -/
def execRouterForward (p : Option (Fin 8)) (pkt : FabPkt) (s : State) : Out :=
  match p with
  | some q => .next (routePacket (some q.val) pkt s)
  | none => .next (inject pkt s)


/-- The nodes that the manager knows. -/
def allNodes (s : State) : List NodeReport :=
  selfReport s :: s.fab.reports.filter fun r => decide (r.uid ≠ s.fuses.uid)

/-- Whether some link to a UID is reported in UP or KEEPALIVE. -/
def linkedTo (s : State) (uid : Nat) : Bool :=
  (allNodes s).any fun r => r.ports.any fun l =>
    decide (l.peerUid = uid) && (decide (l.state = 4) || decide (l.state = 5))

/-- The manager notes since when no link to a node has been up; such a node's tables are no longer known (R405). -/
def noteLost (s : State) : State :=
  let gone (e : Nat × Nat) : Bool := decide (e.2 ≠ s.fuses.uid) && !linkedTo s e.2
  let lost := s.fab.assigned.filter gone
  { s with fab := { s.fab with
      loaded := s.fab.loaded.filter fun x => !lost.any fun e => decide (e.1 = x.1)
      lostSince := lost.foldl (fun t e => tabSet t e.1 (tabGet (nowNs s) s.fab.lostSince e.1)) [] } }

/-- The manager learns a node's ports and address, and asks on from there; during a restart discovery waits (R99). -/
def execPortReport (n : NodeReport) (s : State) : Out :=
  if s.fab.manager ∧ s.ctl.fwRunning then
    .next (askPorts n.path n (noteLost { s with fab := { s.fab with
      reports := s.fab.reports.filter (fun r => decide (r.uid ≠ n.uid)) ++ [n] } }))
  else .next s

/-- A module takes a node address: held through every reset, and recorded with the retirement map. -/
def takeAddress (node : Nat) (s : State) : State :=
  let old := if s.fab.valid then s.fab.node else 0xFFFF
  let s1 := { s with fab := { s.fab with valid := true, node := node },
                     flash := { s.flash with mapDue := true } }
  if s.fab.valid ∧ s.fab.node = node then s else raise evFabNode noChan (u16 old ++ u16 node) s1

/-- During a restart the assignment is not taken (R99; DEDUCED, assumption log 59). -/
def execAddressAssignment (node : Fin 512) (s : State) : Out :=
  .next (if s.ctl.fwRunning then takeAddress node.val s else s)

/-- Inserts by UID. -/
def insertByUid (n : NodeReport) : List NodeReport → List NodeReport
  | [] => [n]
  | m :: ms => if n.uid ≤ m.uid then n :: m :: ms else m :: insertByUid n ms

def sortByUid (ns : List NodeReport) : List NodeReport := ns.foldr insertByUid []

/-- Addresses kept: each held address with the lowest UID that reports it. -/
def keptAddrs (ns : List NodeReport) : List (Nat × Nat) :=
  (sortByUid ns).foldl (fun acc n =>
    if n.valid ∧ n.node < 512 ∧ acc.any (fun e => decide (e.1 = n.node)) = false then acc ++ [(n.node, n.uid)]
    else acc) []

/-- Every node's address: those held, then the address reserved for the UID or the lowest free one in ascending
UID order; addresses of lost nodes stay reserved (R389; DESIGN CHOICE, assumption log 58). -/
def assignAddrs (old : List (Nat × Nat)) (ns : List NodeReport) : List (Nat × Nat) :=
  let kept := keptAddrs ns
  let free (acc : List (Nat × Nat)) (a : Nat) : Bool := !acc.any fun e => decide (e.1 = a)
  let reserved := old.filter fun e => free kept e.1 && !kept.any fun k => decide (k.2 = e.2)
  (sortByUid ns).foldl (fun acc n =>
    if acc.any fun e => decide (e.2 = n.uid) then acc
    else match (List.range 512).find? (free acc) with
      | some a => acc ++ [(a, n.uid)]
      | none => acc) (kept ++ reserved)

/-! ### Routing tables (R390, R400 to R403, R406) -/

/-- Bookable bytes of a port of a node by the manager's knowledge (R36). -/
def bookableAt (s : State) (as : List (Nat × Nat)) (node p : Nat) : Nat :=
  if node = s.fab.node then fabBookable s p
  else match (allNodes s).find? fun r => decide (addrOf as r.uid = some node) with
    | some r =>
      let lanes := match r.ports[p]? with | some l => laneCount l.lanes | none => 0
      (if 4 ≤ lanes then 800000 else if 2 ≤ lanes then 400000 else if 1 ≤ lanes then 200000 else 0) * 9 / 10
    | none => 0

/-- Bytes booked on a port of a node. -/
def bookedAt (bs : List Booking) (np : Nat × Nat) : Nat :=
  ((bs.filter fun b => b.ports.contains np).map Booking.bytes).sum

/-- Ports that bookings put above their bookable bytes. -/
def portsOver (s : State) (as : List (Nat × Nat)) (bs : List Booking) : Nat :=
  let ports := (bs.map Booking.ports).flatten.foldl (fun acc x => if acc.contains x then acc else acc ++ [x]) []
  (ports.filter fun np => decide (bookableAt s as np.1 np.2 < bookedAt bs np)).length

/-- Whether some numbers are in rising order of address: the two lowest of a list. -/
def twoLowest (ns : List Nat) : List Nat :=
  let a := ns.foldl min (ns.headD 0)
  let rest := ns.filter fun n => decide (n ≠ a)
  if ns.isEmpty then [] else if rest.isEmpty then [a] else [a, rest.foldl min (rest.headD 0)]

/-- The fabric time sources of every domain number: the two lowest addresses among the modules that have it locked on a
media port (R161). -/
def timeSources (as : List (Nat × Nat)) (ns : List NodeReport) : List (Nat × Nat) :=
  let numbers := (ns.map NodeReport.locked).flatten.foldl (fun l d => if l.contains d then l else l ++ [d]) []
  numbers.flatMap fun d =>
    (twoLowest ((ns.filter fun n => n.locked.contains d).filterMap fun n => addrOf as n.uid)).map fun a => (d, a)

/-- Sends a node its full load in FAB.ROUTE commands, ended by CURSOR, where it differs from the load that the node is known
to hold (R402, R406). -/
def sendTables (t : Topo) (epoch : Nat) (nodes : List Nat) (s : State) (n : Nat) : State :=
  let known := loadPages t 0 nodes n
  if tabGet? s.fab.loaded n = some known then s
  else
    let s1 := (loadPages t epoch nodes n).foldl (fun s p => sendMbx n 0x0704 0xFFFF [p] s) s
    sendMbx n 0x0704 0xFFFF [tlv 0x0731 4 4] { s1 with fab := { s1.fab with loaded := tabSet s1.fab.loaded n known } }

/-- Tells every module the fabric time sources (R161, R401). -/
def tellSources (named : List (Nat × Nat)) (s : State) : State :=
  nameSources named
    (inject { blankPkt with type := 6, tag := 4, mcast := true, group := 0, body := .sources named } s)

/-- The manager assigns addresses, computes tables of a new epoch, loads its own and sends the others theirs, routes the
bookings again, and names the time sources (DESIGN CHOICE, assumption log 58). -/
def recompute (s : State) : State :=
  let ns := allNodes s
  let as := assignAddrs s.fab.assigned ns
  let e := s.fab.routeEpoch + 1
  let s1 := match addrOf as s.fuses.uid with
    | some a => takeAddress a s
    | none => s
  let s2 := ns.foldl (fun s n =>
    match addrOf as n.uid with
    | some a => if n.uid ≠ s.fuses.uid ∧ (n.valid = false ∨ n.node ≠ a) then sendDirected 4 (.assign a) n.path s else s
    | none => s) s1
  let own := s2.fab.node
  let t := topoOf as ns
  let nodes := ns.filterMap fun n => addrOf as n.uid
  let bs := s2.fab.bookings.map fun b => { b with ports := routePath t 31 b.node b.dest }
  let tight := portsOver s2 as bs
  let s3 := { s2 with
    fab := { s2.fab with
      assigned := as, routeEpoch := e, lastEpoch := e, bookings := bs, pages := []
      ucast := nodes.foldl (fun u n => tabSet u n (routeEntry t own n)) []
      mcast := [(0, groupZero t nodes own)], dateline := datelineOf t own, group := groupValue } }
  let s4 := (nodes.filter fun n => decide (n ≠ own)).foldl (sendTables t e nodes) s3
  tellSources (timeSources as ns)
    (pumpAll (raiseIf (decide (0 < tight)) evFabRoutes noChan (u32 e ++ u16 tight) s4))

/-- A change of topology, node mode or booking: the manager's tables follow, once no restart runs. -/
def execRouteRecompute (s : State) : Out :=
  .next (if s.fab.manager ∧ s.ctl.fwRunning then recompute s else s)

/-- A page of FAB.ROUTE (R402). -/
def pageOf (v : Nat) : RoutePage :=
  let n := fieldAt v 10 2
  { epoch := fieldAt v 0 4, page := fieldAt v 4 2, kind := fieldAt v 6 1, first := fieldAt v 8 2,
    entries := (List.range n).map fun i => fieldAt v (16 + 2 * i) 2, dateline := fieldAt v 12 1,
    group := fieldAt v 14 2 }

/-- A page outside the layout of R402, or of an older epoch than the last load. -/
def pageBad (s : State) (v : Nat) : Bool :=
  let g := pageOf v
  let n := g.entries.length
  decide (g.epoch < s.fab.lastEpoch ∨ 1 < g.kind ∨ n = 0 ∨ 2022 < n ∨ fieldAt v 7 1 ≠ 0 ∨ fieldAt v 13 1 ≠ 0) ||
    decide ((if g.kind = 0 then 512 else 4096) < g.first + n) ||
    decide (g.kind = 1 ∧ (g.dateline ≠ 0 ∨ g.group ≠ 0))

/-- Keeps a page beside those of its epoch. -/
def keepPage (g : RoutePage) (ps : List RoutePage) : List RoutePage :=
  ps.filter (fun x => decide (x.epoch = g.epoch ∧ x.page ≠ g.page)) ++ [g]

/-- Writes a page's entries. -/
def loadPage (s : State) (g : RoutePage) : State :=
  let put (t : Tab Nat) : Tab Nat :=
    ((List.range g.entries.length).zip g.entries).foldl (fun t e => tabSet t (g.first + e.1) e.2) t
  if g.kind = 0 then
    { s with fab := { s.fab with ucast := put s.fab.ucast, dateline := g.dateline, group := g.group } }
  else { s with fab := { s.fab with mcast := put s.fab.mcast } }

/-- FAB.ROUTE: a page is held, and CURSOR ends the load: every register of a complete load is written. -/
def fabRouteWork (r : Req) (s : State) : Verdict :=
  let pages := tlvAll r 0x0730
  if pages.any (pageBad s) then .err stBadParam 0x0730 []
  else if pages = [] ∧ hasTlv r 0x0731 = false then .err stBadParam 0x0730 []
  else
    let ps := pages.foldl (fun ps v => keepPage (pageOf v) ps) s.fab.pages
    let s1 := { s with fab := { s.fab with pages := ps } }
    match getTlv r 0x0731 with
    | none => .ok s1 [] false
    | some n =>
      let whole := (List.range n).all fun i => ps.any fun g => decide (g.page = i)
      if n = 0 ∨ !whole ∨ ps.length ≠ n then .err stBadParam 0x0731 []
      else
        let e := match ps with | g :: _ => g.epoch | [] => s.fab.lastEpoch
        let s2 := ps.foldl loadPage s1
        .ok (pumpAll { s2 with fab := { s2.fab with pages := [], lastEpoch := e, routeEpoch := e } }) [] false

def execFabRoute (r : Req) (s : State) : Out := .next (serve sFabRoute r fabRouteWork s)

/-! ### Transit booking (R403) -/

/-- The answer to a booking request goes to its node. -/
def sendAnswer (node : Nat) (granted : Bool) (s : State) : State :=
  inject { blankPkt with type := 6, tag := 3, dest := node, arg := granted.toNat } s

/-- The manager books bytes on every output port of a route, when each has room, and answers. -/
def execBookingRequest (node dest bytes : Nat) (s : State) : Out :=
  if s.fab.manager ∧ s.ctl.fwRunning then
    let path := routePath (topoOf s.fab.assigned (allNodes s)) 31 node dest
    let room := path.all fun np =>
      decide (bookedAt s.fab.bookings np + bytes ≤ bookableAt s s.fab.assigned np.1 np.2)
    let b : Booking := { node := node, dest := dest, bytes := bytes, ports := path }
    .next (sendAnswer node room { s with fab := { s.fab with
      bookings := if room then s.fab.bookings ++ [b] else s.fab.bookings
      answers := s.fab.answers ++ [(node, room)] } })
  else .next s

/-! ### Lost nodes (R112, R405) -/

/-- A module's part when a node is declared lost. -/
def nodeGone (node uid : Nat) (s : State) : State :=
  let s1 := releaseClaims (fun x => decide (x.owner = some .fabric) && decide (x.ownerNode = node)) s
  raise evFabNodeLost noChan (u16 node ++ [0, 0, 0, 0, 0, 0] ++ u64 uid)
    { s1 with fab := { s1.fab with rx := s1.fab.rx.filter fun e => decide (e.1 / 4 ≠ node) } }

def execNodeLost (node : Fin 512) (uid : Nat) (s : State) : Out := .next (nodeGone node.val uid s)

/-- Every link to a node has been out of UP and KEEPALIVE for 10 ms: the manager declares it lost, notifies
group 0, releases its bookings and keeps its address reserved. -/
def execNodeLostTimeout (node : Fin 512) (s0 : State) : Out :=
  let s := if s0.fab.manager ∧ s0.ctl.fwRunning then noteLost s0 else s0
  let due : Bool := match tabGet? s.fab.lostSince node.val with
    | some t => decide (t + 10000000 ≤ nowNs s)
    | none => false
  match s.fab.assigned.find? fun e => decide (e.1 = node.val) with
  | none => .next s
  | some (_, uid) =>
    if s.fab.manager = true ∧ s.ctl.fwRunning = true ∧ uid ≠ s.fuses.uid ∧ linkedTo s uid = false ∧ due = true then
      let s1 := inject { blankPkt with type := 6, tag := 1, mcast := true, group := 0, arg := node.val } s
      .next (nodeGone node.val uid { s1 with fab := { s1.fab with
        bookings := s1.fab.bookings.filter fun b => decide (b.node ≠ node.val)
        lostSince := tabErase s1.fab.lostSince node.val
        reports := s1.fab.reports.filter fun r => decide (r.uid ≠ uid) } })
    else .next s

/-! ### Time over the fabric (R159 to R161) -/

/-- A time packet arrives on a port: it gains the delay of the link and serves this module's slots where no media port in
service hears the domain, and the router forwards it as a packet of its multicast group with the residence added. -/
def execFabTimePacketRx (inPort : Fin 8) (head : FabPkt) (body : FabBody) (residence : Nat) (s : State) : Out :=
  if linkUp s inPort.val ∧ (head.type = 3 ∨ head.type = 4) then
    .next (routePacket (some inPort.val) { head with body := stayingBody residence body } s)
  else .next s

/-- Bytes of a Sync or Follow_Up in a time packet (PRESUMED, assumption log 59). -/
def timeLength : Nat := 44

/-- A time packet that this module sends to group 0. -/
def sendTime (type : Nat) (b : FabBody) (s : State) : State :=
  inject { blankPkt with type := type, mcast := true, group := 0, length := timeLength, received := timeLength, body := b } s

/-- A source sends Sync and Follow_Up of a domain that it has locked on a media port, with its path delay and
the residence since the Sync was received (R160, R161; DEDUCED, assumption log 59). -/
def execFabTimeSourceSend (slot : Fin 2) (s : State) : Out :=
  let d := domOf s slot.val
  match d.lastSync with
  | some p =>
    if s.tim.sources.contains d.number = true ∧ d.state = 3 ∧ d.source < 2 then
      let q := { p with source := 2, twoStep := true,
                        correction := p.correction + d.pathDelay + (s.tim.now - p.stamp) }
      .next (sendTime 4 (.followUp d.number p.identity p.seq p.origin 0) (sendTime 3 (.sync q 0) s))
    else .next s
  | none => .next s

end Sys2Proof.Machine
end

