-- ==== Sys2Proof/Machine/Output.lean ====
section
/-! DEFINITION. Machine/Output.lean: the OUT opcodes and the resolution of legs (R409 to R412, R418 to R422,
R425, R429, R443). -/

namespace Sys2Proof.Machine

/-! ### Checks -/

/-- Whether PORTS is refused for a kind (R180, R409). -/
def outPortsBad (s : State) (o kind ports : Nat) : Bool :=
  if 2 ≤ kind then decide (ports ≠ 0)
  else
    let ok := if kind = 0 then decide ((bitList 8 ports).length = 1)
      else decide (ports = 0x0F ∨ ports = 0xF0 ∨ ports = 0xFF)
    let used (p : Nat) : Bool :=
      portsOfInputs s 128 p || s.outputs.any fun e => decide (e.1 ≠ o ∧ e.2.kind ≤ 1) && bitAt e.2.ports p
    !ok || (bitList 8 ports).any used

/-- Whether the LEG values are refused (R410). -/
def legsBad (kind : Nat) (vs : List Nat) : Bool :=
  if kind ≤ 1 then decide (vs ≠ [])
  else vs.any (legBad kind) || match vs.map legOf with
    | [_] => false
    | [a, b] => decide (a.leg = b.leg ∨ a.iface = b.iface ∨ a.ssrc ≠ b.ssrc ∨ a.mtu ≠ b.mtu ∨
        (kind ≠ 6 ∧ a.pt ≠ b.pt))
    | _ => true

/-- Bytes of a sample in an audio packet. -/
def audioBytes (v : Nat) : Nat := if fieldAt v 0 1 = 1 then 4 else fieldAt v 3 1 / 8

/-- Whether AUDIO_FMT is refused (R443): it belongs to kind 8, and a packet fits the MTU. -/
def audioFmtBad (kind mtu : Nat) (v : Option Nat) : Bool :=
  match v with
  | none => decide (kind = 8)
  | some v =>
    decide (kind ≠ 8) || decide (1 < fieldAt v 0 1) || decide (fieldAt v 1 1 < 1 ∨ 64 < fieldAt v 1 1) ||
      decide (fieldAt v 2 1 ≠ 2 ∧ fieldAt v 2 1 ≠ 3) || decide (fieldAt v 3 1 ≠ 16 ∧ fieldAt v 3 1 ≠ 24) ||
      decide (1 < fieldAt v 4 1) || decide (fieldAt v 5 1 ≠ 0) ||
      decide (mtu < 40 + fieldAt v 1 1 * audioBytes v *
        (packetNs (fieldAt v 4 1) * rateHz (fieldAt v 2 1) / 1000000000))

/-- The configuration of the channel that names an output, if any. -/
def namerCfg (s : State) (o : Nat) : Option ChanCfg :=
  match namer s o with
  | some h => (chan s h).cfg
  | none => none

/-- The shaper rate of a leg as far as it is known: a default needs the channel that names the output. -/
def knownRate (s : State) (o : Nat) (x : Output) (l : Leg) : Nat :=
  match namerCfg s o with
  | some c => legRate s c o x l
  | none => if x.shaperRate ≠ 0 then x.shaperRate else if x.kind = 8 then Config.shaperDefault 8 else 0

/-- Whether SHAPER is refused (R425). -/
def shaperTlvBad (s : State) (o v : Nat) (x : Output) : Bool :=
  decide (fieldAt v 8 8 ≠ 0) ||
    x.legs.any fun l => decide (x.shaperBurst ≠ 0 ∧ x.shaperBurst < l.mtu + 38 + vlanExtra s l.iface) ||
      match namerCfg s o with
      | some c => decide (x.shaperRate ≠ 0 ∧ x.shaperRate < defaultRate s c o x l)
      | none => false

/-- TS_MIN as OUT.CONFIGURE returns it (R419): that of the channel that names the output, and 7, the least
multiple, where none does (DESIGN CHOICE, assumption log 36). -/
def tsMinOf (s : State) (o : Nat) : Nat :=
  match namerCfg s o with
  | some c => tsMin s c o
  | none => 7

/-! ### Queues (R422) -/

/-- The queues of a port that outputs hold, but for one output. -/
def queueTaken (s : State) (o q : Nat) : Bool :=
  s.outputs.any fun e => decide (e.1 ≠ o) && e.2.legs.any fun l => decide (l.queue = q)

/-- Gives each leg the lowest free queue of its interface's port; none where a port has none left. Queue 255
is the device's own. -/
def takeQueues (s : State) (o : Nat) : List Nat → List Leg → Option (List Leg)
  | _, [] => some []
  | mine, l :: ls =>
    let p := l.iface / 4
    let free (q : Nat) : Bool := !queueTaken s o (p * 256 + q) && !mine.contains (p * 256 + q)
    match (List.range 255).find? free with
    | none => none
    | some q => (takeQueues s o ((p * 256 + q) :: mine) ls).map ({ l with queue := p * 256 + q } :: ·)

/-- Whether the rates on some interface would exceed its limit. -/
def outRatesBad (s : State) (o : Nat) (x : Output) : Bool :=
  (List.range 8).any fun n =>
    let mine := ((x.legs.filter fun l => l.iface = n).map (knownRate s o x)).sum
    decide (0 < mine) && decide (ifaceLimit s n < ifaceRateBut s [o] n + mine)

/-- Clears the queues of an output's legs. -/
def freeQueues (o : Nat) (s : State) : State :=
  match outputOf s o with
  | some x => { s with tmg := { s.tmg with
      queues := s.tmg.queues.filter fun e => !x.legs.any fun l => decide (l.queue = e.1) } }
  | none => s

/-- Enables the queue of each leg, its bucket full. -/
def openQueues (o : Nat) (x : Output) (s : State) : State :=
  x.legs.foldl (fun s l =>
    let r := knownRate s o x l
    let b := legBurst s x l
    let q : Queue := { Queue.reset with en := true, launchEn := true, iface := l.iface % 4, rateKbps := r,
                                        burst := b, tokens := b * tokScale, tokAt := s.tim.now }
    { s with tmg := { s.tmg with queues := tabSet s.tmg.queues l.queue q } }) s

/-! ### OUT.CONFIGURE -/

/-- The output that a request describes. -/
def outputFrom (r : Req) : Output :=
  let leg (v : Nat) : Leg :=
    let l := legOf v
    { l with mac := if isMulticast l.dstIp then some (multicastMac l.dstIp) else none,
             pt := if tlvD r 0x0402 0 = 6 then 33 else l.pt }
  { kind := tlvD r 0x0402 0, ports := tlvD r 0x0403 0, legs := (tlvAll r 0x0404).map leg,
    senderType := getTlv r 0x0405, shaperRate := fieldAt (tlvD r 0x0406 0) 0 4,
    shaperBurst := fieldAt (tlvD r 0x0406 0) 4 4, tsPackets := getTlv r 0x0408,
    audioFmt := getTlv r 0x040A, rtpSeq := 0, launchedSeq := 0, cc := [0, 0, 0, 0, 0],
    launchedCc := [0, 0, 0, 0, 0] }

/-- The channel that names an output, while it is outside IDLE, CONFIGURED and FAULTED (R412). -/
def outputBusy (s : State) (o : Nat) : Option Nat :=
  match namer s o with
  | some h => if active (chan s h).state then some h else none
  | none => none

/-- Whom ARP asks for a unicast destination: the gateway for one outside the interface's prefix (R411). -/
def arpTarget (s : State) (l : Leg) : Word32 :=
  let x := mniIf s l.iface
  let net (a : Word32) : Nat := a.toNat / 2 ^ (32 - x.prefix_)
  if net l.dstIp = net x.addr then l.dstIp else x.gateway

/-- ARP asks for a unicast leg's MAC address. -/
def askArp (l : Leg) (s : State) : State :=
  if isMulticast l.dstIp ∨ ifaceHears s l.iface = false then s
  else sendIf l.iface [.arpRequest (ifMac s l.iface) (mniIf s l.iface).addr (arpTarget s l)] s

/-- Carries out OUT.CONFIGURE; the response returns TS_MIN (R419; assumption log 36). -/
def outConfigureWork (r : Req) (s : State) : Verdict :=
  let o := tlvD r 0x0401 0
  let x := outputFrom r
  let mtu := match x.legs with | l :: _ => l.mtu | [] => 1500
  let ts := tlvD r 0x0408 0
  if 127 < o then .err stBadParam 0x0401 []
  else match outputBusy s o with
    | some h => badState s h
    | none => paramsThen
        [(decide (8 < x.kind), 0x0402), (outPortsBad s o x.kind x.ports, 0x0403),
         (legsBad x.kind (tlvAll r 0x0404), 0x0404),
         (hasTlv r 0x0405 && (decide (x.kind ≠ 2) || decide (2 < tlvD r 0x0405 0)), 0x0405),
         (hasTlv r 0x0406 && (decide (x.kind ≤ 1) || shaperTlvBad s o (tlvD r 0x0406 0) x), 0x0406),
         (hasTlv r 0x0408 && (decide (x.kind ≠ 6) || decide (ts % 7 ≠ 0 ∨ ts = 0) ||
           ((namerCfg s o).isSome && decide (ts < tsMinOf s o))), 0x0408),
         (audioFmtBad x.kind mtu x.audioFmt, 0x040A)]
        (match takeQueues s o [] x.legs with
         | none => noRoom 6
         | some ls =>
           let y := { x with legs := ls }
           let s1 := freeQueues o s
           if outRatesBad s1 o y then noRoom 6
           else .ok (ls.foldl (fun s l => askArp l s) (openQueues o y { s1 with outputs := tabSet s1.outputs o y }))
             (ls.map (fun l => tlv 0x0407 2 l.queue) ++ [tlv 0x0409 4 (tsMinOf s o)]) false)

/-- A refusal carries TS_MIN as every response does (R419). -/
def outConfigureAll (r : Req) (s : State) : Verdict :=
  let x := tlv 0x0409 4 (tsMinOf s (tlvD r 0x0401 0))
  match outConfigureWork r s with
  | .err st d ts => .err st d (ts ++ [x])
  | v => v

/-- Serves an OUT.CONFIGURE, with TS_MIN in its response whatever the status (R419). -/
def serveOut (r : Req) (s : State) : State :=
  match precheck sOutConfigure r s with
  | some (st, d) =>
    if s.ctl.fwRunning then
      answer 0x0401 r st d (tlv 0x0409 4 (tsMinOf s (tlvD r 0x0401 0)) :: ignoredTlv sOutConfigure r) false s
    else s
  | none => serve sOutConfigure r outConfigureAll s

def execOutConfigure (r : Req) (s : State) : Out := .next (serveOut r s)

/-- OUT.CLEAR: an output that no channel uses is cleared and its queues freed; one that is not configured is refused (DEDUCED,
assumption log 44). -/
def outClearWork (r : Req) (s : State) : Verdict :=
  let o := tlvD r 0x0401 0
  if (outputOf s o).isNone then .err stBadParam 0x0401 []
  else match outputBusy s o with
    | some h => badState s h
    | none =>
      let s1 := freeQueues o s
      .ok { s1 with outputs := tabErase s1.outputs o } [] false

def execOutClear (r : Req) (s : State) : Out := .next (serve sOutClear r outClearWork s)

/-! ### OUT.STATUS (R171, R429) -/

/-- OUT.STATUS: late packets, the deepest queue since the last read, and the greatest lateness (DEDUCED, assumption log 44, of
an output that is not configured). -/
def outStatusWork (r : Req) (s : State) : Verdict :=
  let o := tlvD r 0x0401 0
  match outputOf s o with
  | none => .err stBadParam 0x0401 []
  | some x =>
    let y := { x with legs := x.legs.map fun l => { l with depthMax := 0 } }
    .ok { s with outputs := tabSet s.outputs o y }
      [tlv 0x0410 8 ((x.legs.map Leg.late).sum), tlv 0x0411 4 ((x.legs.map Leg.depthMax).foldl max 0),
       tlv 0x0412 4 ((x.legs.map Leg.lateMax).foldl max 0)] false

def execOutStatus (r : Req) (s : State) : Out := .next (serve sOutStatus r outStatusWork s)

/-! ### Address resolution (R411) -/

/-- Whether ARP resolves a leg's address now: first for its configuration, and again 60 s after the last time. -/
def arpDue (now : Nat) (l : Leg) : Bool :=
  !isMulticast l.dstIp && match l.arpAt with
    | none => true
    | some t => decide (t + 60000000000 ≤ now)

/-- A unicast leg's MAC address as ARP resolves it now; none while it is unresolved. The request of a configuration has gone
already (R411). -/
def execArpRefresh (output : Fin 128) (leg : Fin 2) (mac : Option (BitVec 48)) (s : State) : Out :=
  match outputOf s output.val with
  | none => .next s
  | some x =>
    let due (l : Leg) : Bool := decide (l.leg = leg.val) && arpDue (nowNs s) l
    let upd (l : Leg) : Leg := if due l then { l with mac := mac, arpAt := some (nowNs s) } else l
    let s1 := (x.legs.filter fun l => due l && l.arpAt.isSome).foldl (fun s l => askArp l s) s
    .next { s1 with outputs := tabSet s1.outputs output.val { x with legs := x.legs.map upd } }

end Sys2Proof.Machine
end

