-- ==== Sys2Proof/Machine/Power.lean ====
section
/-! DEFINITION. Machine/Power.lean: supply limits, power sequencing, RESET_N, thermal shutdown, the sensors and
the status balls (R518, R519, R526 to R538, R548, R553, R554). -/

namespace Sys2Proof.Machine

/-! ### Status balls (R538, R554) -/

/-- FAULT_N low: a supply fault, thermal shutdown or a permanent lockstep fault. -/
def faultLow (s : State) : Bool := !s.pwr.faultN || s.ctl.restart.lockstepPerm

/-- THERM_N low: a sensor above its warning level. -/
def thermLow (s : State) : Bool :=
  (List.range 8).any fun k => decide ((s.hlth.warn.getD k 95 * 10 : Nat) < s.hlth.temps.getD k 0)

/-- STAT: high in READY, OPERATE and DORMANT. -/
def statHigh (s : State) : Bool :=
  match s.modes.mode with
  | .ready | .operate | .dormant => true
  | _ => false

/-- AUD_MUTE0 or AUD_MUTE1 low: an output port of its four stands still. -/
def muteLow (s : State) (k : Nat) : Bool :=
  s.aud.ports.any fun e => decide (e.1 / 4 = k) && e.2.configured && e.2.output &&
    decide (e.2.lock = 0 ∨ e.2.lock = 3 ∨ e.2.lock = 4)

/-- The level of a push-pull output ball, none at high impedance: before PGOOD rises every one of them (R530). -/
def ballLevel (s : State) (high : Bool) : Option Bool := if s.pwr.pgood then some high else none

/-- STAT. -/
def statBall (s : State) : Option Bool := ballLevel s (statHigh s)

/-- AUD_MUTE0 and AUD_MUTE1. -/
def muteBall (s : State) (k : Nat) : Option Bool := ballLevel s (!muteLow s k)

/-- SDn_IND: low for an output port, high for an input port, at high impedance when the port is unused or out of service. -/
def sdInd (s : State) (n : Nat) : Option Bool :=
  if !sdiOn s n then none
  else if portsOfOutputs s n then ballLevel s false
  else if portsOfInputs s 128 n then ballLevel s true
  else none

/-- SMB_ALERT_N follows the falling edges of FAULT_N and THERM_N, and is high again once both are. -/
def alertSync (s t : State) : State :=
  let falls := (!faultLow s && faultLow t) || (!thermLow s && thermLow t)
  let a := if falls then false else t.pwr.alertN || !(faultLow t || thermLow t)
  { t with pwr := { t.pwr with alertN := a } }

/-! ### Power-down (R528, R532, R553) -/

/-- A die sensor that has no power reads 0x8000 (R552). -/
def noTemp : Int := -32768

/-- The state without power: what lies in flash, fuses and outside the module is left, as it will be found at the
next power-on. -/
def unpowered (s : State) : State :=
  let m := mapCopy s.flash
  let log := s.flt.log.take s.flt.flashed
  { State.reset with
    pending := s.pending, free := s.free, last := s.last, fuses := s.fuses, flash := breakWrite s.flash
    mbx := { Mbx.reset with datagrams := s.mbx.datagrams, fabResps := s.mbx.fabResps }
    evt := { Evt.reset with host := s.evt.host, sent := s.evt.sent }
    mediaMode := s.mediaMode, sdi := s.sdi
    tmg := { Tmg.reset with sent := s.tmg.sent }
    fab := { Fab.reset with valid := (m.bind MapCopy.node).isSome, node := (m.bind MapCopy.node).getD 0,
                            delivered := s.fab.delivered, sentPkts := s.fab.sentPkts }
    prt := { Prt.reset with sentLease := s.prt.sentLease, sentCroak := s.prt.sentCroak,
                            sentMirror := s.prt.sentMirror, sentRelay := s.prt.sentRelay,
                            sentContinue := s.prt.sentContinue, sentMbx := s.prt.sentMbx }
    aud := { Aud.reset with played := s.aud.played }
    flt := { Flt.reset with retired := (m.map MapCopy.units).getD [], log := log, flashed := log.length
                            powerOns := s.flt.powerOns + 1
                            nextIndex := (log.map LogEntry.index).foldl max 0 + 1 }
    hlth := { Hlth.reset with volts := s.hlth.volts, voltsMin := s.hlth.volts
                              temps := s.hlth.temps.mapIdx fun i t => if i < 4 then noTemp else t
                              tempsMax := s.hlth.temps.mapIdx fun i t => if i < 4 then noTemp else t
                              powerMw := s.hlth.powerMw, thermal := s.hlth.thermal }
    pwr := s.pwr, gpio := { Gpio.reset with inp := s.gpio.inp } }

/-- A power-down with its cause: launches and renewals stop, FAULT_N and PGOOD go low, and every rail but the
auxiliary one goes down, which then waits in a phase (DEDUCED, assumption log 39). -/
def powerDown (cause rail attempts phase : Nat) (s : State) : State :=
  let t := unpowered (stopLaunches s)
  alertSync s { t with pwr := { s.pwr with
    phase := phase, railIdx := 0, rails := s.pwr.rails.filter fun r => decide (r = .aux), pgood := false
    faultN := false, causeCode := cause, causeRail := rail, causeAttempts := attempts } }

/-- A supply fault in a powered module; in one that is down VIN has been cycled, and the attempts of R531 start
again. -/
def supplyDown (cause : Nat) (s : State) : State :=
  let fresh (t : State) : State := { t with pwr := { t.pwr with attempts := 0, failed := false } }
  if s.pwr.phase = 0 ∨ s.pwr.phase = 4 then fresh { s with pwr := { s.pwr with phase := 0 } }
  else
    let t := powerDown cause 0 0 0 s
    fresh { t with pwr := { t.pwr with supplyFault := true } }

/-- VIN below the falling lockout: up to 20 us are ridden through (R528). -/
def execVinUndervoltage (micros : Nat) (s : State) : Out :=
  if micros ≤ 20 then .next s else .next (supplyDown 1 s)

def execVinOvervoltage (s : State) : Out := .next (supplyDown 2 s)

/-- EN low powers the module down and holds it down (R529). -/
def execEnLow (s : State) : Out :=
  let off (t : State) : State := { t with pwr := { t.pwr with en := false, attempts := 0, failed := false } }
  if s.pwr.phase = 0 ∨ s.pwr.phase = 4 then .next (off { s with pwr := { s.pwr with phase := 0 } })
  else .next (off (powerDown 5 0 0 0 s))

/-! ### Power sequencing (R530, R531) -/

/-- The rails in the order of the sequence. -/
def railOrder : List Rail := [.aux, .core, .sram, .vpp, .vddq, .serdesIo]

/-- The sequence starts: the auxiliary rail; the address balls are sampled (R530, R551). -/
def startSequence (s : State) : State :=
  { s with pwr := { s.pwr with phase := 1, railIdx := 1, rails := [.aux], smbAddr := 0x58 + s.pwr.addrBalls } }

/-- VIN and EN have stayed within the qualification for 10 ms (DEDUCED, assumption log 65). -/
def execPowerQualified (s : State) : Out :=
  if s.pwr.phase = 0 ∧ s.pwr.failed = false ∧ s.hlth.thermal = false then
    .next (startSequence { s with pwr := { s.pwr with en := true } })
  else .next s

/-- The next rail ramps. -/
def execRailStep (s : State) : Out :=
  let p := s.pwr
  if p.phase = 1 ∧ p.railIdx < 6 then
    .next { s with pwr := { p with railIdx := p.railIdx + 1, rails := railOrder.take (p.railIdx + 1) } }
  else .next s

/-- A rail that has been started misses its limits: the sequence reverses, and it is tried again twice (DEDUCED,
assumption log 65). -/
def execRailFail (r : Rail) (s : State) : Out :=
  let p := s.pwr
  if p.phase = 1 ∧ p.rails.contains r = true then
    let n := p.attempts + 1
    let t := powerDown 3 (railCode r) n (if 3 ≤ n then 0 else 4) s
    .next { t with pwr := { t.pwr with attempts := n, failed := decide (3 ≤ n), supplyFault := true
                                       rails := t.pwr.rails.filter fun x => decide (x ≠ r) } }
  else .next s

/-- 100 ms after a failure the module may sequence again. -/
def execRailRetryTimer (s : State) : Out :=
  if s.pwr.phase = 4 then .next { s with pwr := { s.pwr with phase := 0 } } else .next s

/-- The boot ROM starts. -/
def powerOn (s : State) : State := bootStart { s with pwr := { s.pwr with phase := 3 } }

/-- Every rail is within its limits: PGOOD goes high. With RESET_N high the sequence ends and the boot ROM starts;
else the device is held with its rails up. -/
def execPowerSequenceEnd (s : State) : Out :=
  let p := s.pwr
  if (p.phase = 1 ∧ p.railIdx = 6) ∨ p.phase = 2 then
    let s1 := alertSync s { s with pwr := { p with phase := 2, pgood := true, faultN := true, attempts := 0 } }
    .next (if p.resetN then powerOn s1 else s1)
  else .next s

/-! ### RESET_N (R529, R530) -/

/-- RESET_N low for so many ns: under 1 us ignored, under 10 us a reset or nothing, else a reset that holds
until the release (DEDUCED, assumption log 65). -/
def execResetNAssert (nanos : Nat) (s : State) : Out :=
  if nanos < 1000 then .next s
  else if nanos < 10000 then
    let (b, s1) := takeFreeBool s
    .next (if b = true ∧ s.pwr.phase = 3 then resetBoot (stopLaunches s1) else s1)
  else
    let t := { s with pwr := { s.pwr with resetN := false } }
    if s.pwr.phase = 3 then
      let u := deviceReset (stopLaunches t)
      .next { u with pwr := { u.pwr with phase := 2 } }
    else .next t

def execResetNRelease (s : State) : Out :=
  let t := { s with pwr := { s.pwr with resetN := true } }
  if s.pwr.phase = 2 ∧ s.pwr.resetN = false then .next (powerOn t) else .next t

/-! ### Sensors and thermal shutdown (R518, R519, R548) -/

/-- A sensor's event, where it crosses its level: above it, or 2 degrees below it. -/
def tempEvent (s : State) (k : Nat) : State :=
  let t := s.hlth.temps.getD k 0
  let w : Int := s.hlth.warn.getD k 95 * 10
  let up := s.hlth.above.getD k false
  let put (b : Bool) : State :=
    raise evHlthTemp noChan (u8 k ++ u8 b.toNat ++ u16 (twos 2 t))
      { s with hlth := { s.hlth with above := s.hlth.above.set k b } }
  if !up ∧ w < t then put true else if up ∧ t ≤ w - 20 then put false else s

/-- The highest die sensor. -/
def dieMax (ts : List Int) : Int := (ts.take 4).foldl max noTemp

/-- What PWR hardware writes into HIF_HEALTH every 1 ms. -/
def hifSensors (s : State) : State :=
  { s with
    hif := { s.hif with tempMax := dieMax s.hlth.temps, vinMv := s.pwr.vinMv, therm := thermLow s
                        lockPerm := s.ctl.restart.lockstepPerm, restarting := s.ctl.restart.active }
    hlth := { s.hlth with supply := if s.pwr.supplyFault then { pcie := 1, cpu := 1 } else s.hlth.supply }
    pwr := { s.pwr with supplyFault := false } }

/-- Takes a reading: present, lowest and highest values. -/
def readSensors (vinMv : Nat) (rails : List Nat) (temps : List Int) (powerMw : Nat) (s : State) : State :=
  let h := s.hlth
  let on : Bool := decide (s.pwr.phase = 2 ∨ s.pwr.phase = 3)
  let v := vinMv :: (List.range 7).map fun i => rails.getD i 0
  let t := (List.range 8).map fun i => if i < 4 ∧ on = false then noTemp else temps.getD i 0
  let cool : Bool := t.all fun x => decide (x < 950)
  { s with
    pwr := { s.pwr with vinMv := vinMv }
    hlth := { h with volts := v, voltsMin := (List.range 8).map (fun i => min (h.voltsMin.getD i 0) (v.getD i 0))
                     temps := t, tempsMax := (List.range 8).map (fun i => max (h.tempsMax.getD i 0) (t.getD i 0))
                     powerMw := powerMw, coolMs := if cool then h.coolMs + 1 else 0 } }

/-- The steps of a thermal shutdown up to the flash write: launches and renewals stop, the event is raised, and
code 17 goes into the log and to flash. -/
def beginThermal (k : Nat) (s : State) : State :=
  let d := u8 k ++ [0] ++ u16 (twos 2 (s.hlth.temps.getD k 0))
  let s1 := raise evThermalShutdown noChan d (stopLaunches { s with hlth := { s.hlth with thermal := true } })
  let s2 := (logFault 17 0 0 0 0xFF 0 d s1).2
  { s2 with flt := (List.range (s2.flt.log.length - s2.flt.flashed)).foldl (fun f _ => writeEntry f) s2.flt }

/-- The die sensor that ends service, the lowest of those at 110 degrees or more. -/
def hotDie (s : State) : Option Nat := (List.range 4).find? fun k => decide (1100 ≤ s.hlth.temps.getD k 0)

/-- What an updated reading leads to in a running device: warnings, a thermal shutdown, and at the reading after
it the power-down (DEDUCED, assumption log 65). -/
def actOnSensors (s : State) : State :=
  if s.hlth.thermal then powerDown 4 0 0 0 s
  else
    let s1 := (List.range 8).foldl tempEvent s
    match hotDie s1 with
    | some k => beginThermal k s1
    | none => s1

/-- The reading of every 1 ms. Below 2.5 V the auxiliary rail stops too, and the recorded cause is lost (R553;
DEDUCED, assumption log 65). -/
def execHealthSensorUpdate (vinMv : Nat) (rails : List Nat) (temps : List Int) (powerMw : Nat) (s : State) :
    Out :=
  let s1 := hifSensors (readSensors vinMv rails temps powerMw s)
  let s2 := if s.pwr.phase = 3 then actOnSensors s1 else s1
  let s3 := if vinMv < 2500 ∧ s2.pwr.phase ≠ 3 then
      { s2 with pwr := { s2.pwr with rails := [], causeCode := 0, causeRail := 0, causeAttempts := 0 } }
    else s2
  .next (alertSync s s3)

/-- Every sensor has read below 95 degrees for 10 s after a thermal shutdown: power sequencing starts again
(DEDUCED, assumption log 65). -/
def execThermalRecovery (s : State) : Out :=
  if s.hlth.thermal = true ∧ s.pwr.phase = 0 ∧ 10000 ≤ s.hlth.coolMs then
    let t := { s with hlth := { s.hlth with thermal := false, coolMs := 0 } }
    .next (if s.pwr.en then startSequence t else t)
  else .next s

end Sys2Proof.Machine
end

