-- ==== Sys2Proof/Machine/Reg.lean ====
section
/-! DEFINITION. Machine/Reg.lean: reads of RC fields (R546) and writes of BAR0 registers by offset (R543 to
R545). -/

namespace Sys2Proof.Machine

/-! ### RC fields (R546) -/

/-- The two counts of an RC field. -/
def rcGet (s : State) : RcField → RcCount
  | .errCount => s.ctl.errLog.count
  | .mbxRespLost => s.mbx.respLost
  | .mbxDbIgnored => s.mbx.dbIgnored
  | .mbxDropped => s.mbx.dropped
  | .evtLost => s.evt.lost
  | .tskStale r => (regionOf s r.val).stale
  | .tskAllocFail r => (regionOf s r.val).allocFail
  | .eccCorrected n => (mcAt s n.val).corrected
  | .eccUncorr n => (mcAt s n.val).uncorr
  | .laneCodeErr p l => (laneAt s p.val l.val).codeErr
  | .portReplays p => (fport s p.val).replays
  | .portMrkDrop p => (fport s p.val).mrkDrop
  | .rtUnroutable => s.fab.unroutable
  | .rtHopDrop => s.fab.hopDrop
  | .rtBadHdr => s.fab.badHdr
  | .rtDupDrop => s.fab.dupDrop
  | .audUnderrun n => (sapOf s n.val).underRc
  | .monUnderCount => s.mon.underCount
  | .drawErrCount => s.mon.drawErrCount
  | .healthSupply => s.hlth.supply

/-- The state with the two counts of an RC field replaced. -/
def rcPut (f : RcField) (c : RcCount) (s : State) : State :=
  match f with
  | .errCount => { s with ctl := { s.ctl with errLog := { s.ctl.errLog with count := c } } }
  | .mbxRespLost => { s with mbx := { s.mbx with respLost := c } }
  | .mbxDbIgnored => { s with mbx := { s.mbx with dbIgnored := c } }
  | .mbxDropped => { s with mbx := { s.mbx with dropped := c } }
  | .evtLost => { s with evt := { s.evt with lost := c } }
  | .tskStale r => setRegion r.val { regionOf s r.val with stale := c } s
  | .tskAllocFail r => setRegion r.val { regionOf s r.val with allocFail := c } s
  | .eccCorrected n => setMc n.val { mcAt s n.val with corrected := c } s
  | .eccUncorr n => setMc n.val { mcAt s n.val with uncorr := c } s
  | .laneCodeErr p l => modLane p.val l.val (fun x => { x with codeErr := c }) s
  | .portReplays p => setFport p.val { fport s p.val with replays := c } s
  | .portMrkDrop p => setFport p.val { fport s p.val with mrkDrop := c } s
  | .rtUnroutable => { s with fab := { s.fab with unroutable := c } }
  | .rtHopDrop => { s with fab := { s.fab with hopDrop := c } }
  | .rtBadHdr => { s with fab := { s.fab with badHdr := c } }
  | .rtDupDrop => { s with fab := { s.fab with dupDrop := c } }
  | .audUnderrun n => setSap n.val { sapOf s n.val with underRc := c } s
  | .monUnderCount => { s with mon := { s.mon with underCount := c } }
  | .drawErrCount => { s with mon := { s.mon with drawErrCount := c } }
  | .healthSupply => { s with hlth := { s.hlth with supply := c } }

/-- The BAR0 offset of the register that holds an RC field. -/
def rcOffset : RcField → Nat
  | .errCount => 0x30
  | .mbxRespLost => 0x1108
  | .mbxDbIgnored => 0x1108
  | .mbxDropped => 0x1108
  | .evtLost => 0x1218
  | .tskStale r => 0x50008 + 0x100 * r.val
  | .tskAllocFail r => 0x50008 + 0x100 * r.val
  | .eccCorrected n => 0x70200 + 16 * n.val
  | .eccUncorr n => 0x70200 + 16 * n.val
  | .laneCodeErr p l => 0x80040 + 0x100 * p.val + 8 * l.val
  | .portReplays p => 0x80080 + 0x100 * p.val
  | .portMrkDrop p => 0x80080 + 0x100 * p.val
  | .rtUnroutable => 0x81810
  | .rtHopDrop => 0x81810
  | .rtBadHdr => 0x81810
  | .rtDupDrop => 0x81810
  | .audUnderrun n => 0xA0000 + 16 * n.val
  | .monUnderCount => 0xB0010
  | .drawErrCount => 0xB0110
  | .healthSupply => 0x10020

/-- A read of an RC field returns the reading master's count and clears it (DEDUCED, assumption log 68). -/
def execRcFieldRead (f : RcField) (m : Master) (s : State) : Out :=
  if regPath s m then .next (returned (rcSeen m (rcGet s f)) (rcPut f (rcClear m (rcGet s f)) s))
  else .next (aborted (busError m false (regAddr (rcOffset f)) s))

/-! ### The register map (R545) -/

/-- Registers at regular offsets: base, stride, count and width in bytes. The 16-bit routing entries are listed in
the pairs that a 32-bit access covers. -/
def regRows : List (Nat × Nat × Nat × Nat) :=
  [(0, 4, 1, 4), (0x10, 8, 4, 4), (0x30, 8, 1, 8), (0x40, 48, 1, 48), (0x100, 8, 16, 8), (0x1000, 4, 64, 4),
   (0x1100, 8, 2, 4), (0x1200, 8, 1, 8), (0x1208, 8, 3, 4), (0x10000, 8, 3, 8), (0x10020, 16, 2, 8),
   (0x20000, 16, 2, 16), (0x20020, 4, 1, 4), (0x30000, 16, 8, 16), (0x42000, 4, 256, 4)] ++
  [(0x50000, 0x100, 8, 4), (0x50008, 0x100, 8, 8), (0x50010, 0x100, 8, 8), (0x50018, 0x100, 8, 8),
   (0x50040, 0x100, 8, 64), (0x50800, 4, 1, 4), (0x60000, 4, 1024, 4), (0x70000, 8, 2, 4), (0x70010, 16, 2, 8),
   (0x70100, 8, 6, 8), (0x70140, 8, 6, 8), (0x70200, 8, 16, 8)] ++
  ((List.range 8).map fun n => (0x80000 + 0x100 * n, 8, 4, 4)) ++
  ((List.range 8).map fun n => (0x80040 + 0x100 * n, 8, 4, 8)) ++
  [(0x80080, 0x100, 8, 8), (0x81000, 0x40, 16, 4), (0x81008, 0x40, 16, 16), (0x81018, 0x40, 16, 8),
   (0x81020, 0x40, 16, 8), (0x81028, 0x40, 16, 8), (0x81030, 0x40, 16, 4), (0x81038, 0x40, 16, 8),
   (0x81800, 8, 2, 4), (0x81810, 8, 1, 8), (0x82000, 4, 256, 4), (0x83000, 4, 2048, 4)] ++
  [(0x90000, 16, 256, 16), (0x91000, 16, 256, 16), (0x92000, 16, 256, 16), (0x93000, 16, 256, 16),
   (0x94000, 8, 1, 8), (0xA0000, 16, 8, 8), (0xA0008, 16, 8, 4), (0xB0000, 8, 2, 4), (0xB0010, 8, 1, 8),
   (0xB0100, 8, 1, 8), (0xB0108, 8, 1, 4), (0xB0110, 8, 1, 8)]

/-- The start and the width of the register that holds an offset; none where there is no register. -/
def regSpan (x : Nat) : Option (Nat × Nat) :=
  regRows.findSome? fun r =>
    if r.1 ≤ x ∧ (x - r.1) / r.2.1 < r.2.2.1 ∧ (x - r.1) % r.2.1 < r.2.2.2
    then some (x - (x - r.1) % r.2.1, r.2.2.2) else none

/-- Whether an offset lies in a listed block. -/
def inBlock (x : Nat) : Bool := decide (x < 0xC0000)

/-- Whether an access is of the kinds of R544: naturally aligned, and within one register. Where no register stands
nothing limits it. -/
def accessOk (x : Nat) (wide : Bool) : Bool :=
  decide (x % (if wide then 8 else 4) = 0) &&
    match regSpan x with
    | some (a, w) => !wide || (decide (8 ≤ w) && decide ((x - a) % 8 = 0))
    | none => true

/-! ### Values of 64-bit registers (R544) -/

/-- A write to a 64-bit register or part: which halves it covers, and the value in place. -/
structure Wr where
  lo : Bool
  hi : Bool
  v : Nat
  deriving DecidableEq, Repr

/-- The write of an access at an offset of a 64-bit part. -/
def wrOf (off : Nat) (wide : Bool) (v : Word64) : Wr :=
  if wide then { lo := true, hi := true, v := v.toNat }
  else if off % 8 = 0 then { lo := true, hi := false, v := v.toNat % 4294967296 }
  else { lo := false, hi := true, v := v.toNat % 4294967296 * 4294967296 }

/-- A value with the written halves replaced. -/
def merged (w : Wr) (old : Nat) : Nat :=
  (if w.lo then w.v else old) % 4294967296 + (if w.hi then w.v else old) / 4294967296 * 4294967296

/-- CTL_WINn as a value. -/
def winValue (w : Win) : Nat :=
  w.base.toNat * 67108864 + w.hostOwn.toNat * 8 + w.wrEn.toNat * 4 + w.rdEn.toNat * 2 + w.en.toNat

/-! ### The blocks -/

def w32 (w : Wr) : Word32 := BitVec.ofNat 32 (if w.lo then w.v else w.v / 4294967296)
def w64 (w : Wr) : Word64 := BitVec.ofNat 64 w.v

/-- CTL registers; those with no write of their own ignore it. -/
def writeCtl (m : Master) (a : Nat) (w : Wr) (s : State) : Out :=
  if a = 0 then execRemap m (w32 w) s
  else if a = 0x18 then execGo m (w32 w) s
  else if a = 0x20 then execDone m (w32 w) s
  else if a = 0x28 then execKick m (w32 w) s
  else if a = 0x30 then execValid m (w64 w) s
  else if 0x100 ≤ a ∧ a < 0x180 then
    let n := (a - 0x100) / 8
    execCtlWinWrite (Fin.ofNat 16 n) m (BitVec.ofNat 64 (merged w (winValue (winOf s n)))) s
  else if 0x1000 ≤ a ∧ a < 0x1100 ∧ a % 8 = 0 then .next (slotRegWrite ((a - 0x1000) / 8) m 0 (w32 w) s)
  else if a = 0x1100 then execCtlMbxDoneClear m (w32 w) s
  else if a = 0x1200 then
    if s.evt.en then .next s
    else .next { s with evt := { s.evt with
      base := BitVec.ofNat 51 (merged w (s.evt.base.toNat * 8192) / 8192) } }
  else if a = 0x1208 then .next (writeEvtCtl (w32 w).toNat s)
  else if a = 0x1210 then .next (writeCons (bitsAt (w32 w).toNat 16 9) s)
  else .next s

/-- TSK registers (R331). -/
def writeTsk (a : Nat) (w : Wr) (s : State) : State :=
  let v := (w32 w).toNat
  if a = 0x50800 then
    { s with tsk := { s.tsk with minReady := if bitsAt v 0 8 = 0 then s.tsk.minReady else bitsAt v 0 8 } }
  else if a % 0x100 = 0 ∧ a < 0x50800 then
    let r := (a - 0x50000) / 0x100
    let d := regionOf s r
    setRegion r { d with limitUs := if bitsAt v 16 16 < 10 then d.limitUs else bitsAt v 16 16
                         lendEn := bitAt v 1, en := bitAt v 0 } s
  else s

/-- MEM_CLASS_AGE: a field whose new value is below 10 stays. -/
def writeAges (w : Wr) (ages : List Nat) : List Nat :=
  (List.range 4).map fun i =>
    let old := ages.getD i 0
    let covered : Bool := if i < 2 then w.lo else w.hi
    let n := bitsAt w.v (16 * i) 16
    if covered && decide (10 ≤ n) then n else old

/-- MEM registers: the host writes the masks and THRESH_C (R337, R348). -/
def writeMem (m : Master) (a : Nat) (w : Wr) (s : State) : Out :=
  if a = 0x70020 ∧ (m = .pcie ∨ m = .cpuData) then
    let t := bitsAt w.v 0 7
    if w.lo ∧ 75 ≤ t ∧ t ≤ 95 then .next { s with mem := { s.mem with threshC := t } } else .next s
  else if 0x70100 ≤ a ∧ a < 0x70130 then
    let j := (a - 0x70100) / 8
    execMemBankMask (Fin.ofNat 6 j) m
      (BitVec.ofNat 64 (merged w (tabGet (defaultMask j) s.mem.stagedMask j).toNat)) s
  else if m ≠ .cpuData then .next (busError m true (regAddr a) s)
  else if a = 0x70008 then execLost m (w32 w) s
  else if a = 0x70010 then .next { s with mem := { s.mem with ages := writeAges w s.mem.ages } }
  else if 0x70200 ≤ a ∧ a < 0x70280 ∧ a % 16 = 8 then
    execEccLogValid (Fin.ofNat 8 ((a - 0x70208) / 16)) m (w64 w) s
  else .next s

/-- Registers of a check-value unit; `off` is the offset written, for the two halves of FAB_CV_PARAMn. -/
def writeCv (m : Master) (n o off : Nat) (w : Wr) (s : State) : Out :=
  let k : Fin 16 := Fin.ofNat 16 n
  if o = 0 then execCvErr k m (w32 w) s
  else if o = 0x08 then
    .next (cvWrite n 8 m (fun c =>
      if off % 0x40 < 0x10 then { c with init := BitVec.ofNat 64 (merged w c.init.toNat) }
      else { c with poly := BitVec.ofNat 64 (merged w c.poly.toNat) }) s)
  else if o = 0x18 then
    .next (cvWrite n 0x18 m (fun c => { c with value := BitVec.ofNat 64 (merged w c.value.toNat) }) s)
  else if o = 0x20 then execData k m (w64 w) s
  else if o = 0x28 then
    .next (cvWrite n 0x28 m (fun c =>
      let v := merged w (c.srcLen * 1099511627776 + c.srcAddr)
      { c with srcLen := bitsAt v 40 24, srcAddr := bitsAt v 0 37 }) s)
  else if o = 0x30 then .next (cvWrite n 0x30 m (cvCommand s n (w32 w)) s)
  else .next (cvWrite n o m id s)

/-- Two 16-bit entries of a routing table (DEDUCED, assumption log 68). -/
def writePair (cap n v : Nat) (t : Tab Nat) : Tab Nat :=
  tabSet (tabSet t n (v % 65536 % cap)) (n + 1) (v / 65536 % cap)

/-- FAB registers: all but those of CV14 and CV15 are firmware's. -/
def writeFab (m : Master) (a off : Nat) (w : Wr) (s : State) : Out :=
  let v := (w32 w).toNat
  if 0x81000 ≤ a ∧ a < 0x81400 then writeCv m ((a - 0x81000) / 0x40) ((a - 0x81000) % 0x40) off w s
  else if m ≠ .cpuData then .next (busError m true (regAddr a) s)
  else if a < 0x80800 ∧ a % 0x100 < 0x20 then
    .next (laneCtl ((a - 0x80000) / 0x100) (a % 0x100 / 8) m (w32 w) false s)
  else if a = 0x81800 then
    .next { s with fab := { s.fab with valid := bitAt v 31, priority := bitsAt v 16 8, node := bitsAt v 0 9 } }
  else if a = 0x81808 then
    .next { s with fab := { s.fab with dateline := bitsAt v 24 8, group := bitsAt v 0 16 } }
  else if 0x82000 ≤ a ∧ a < 0x82400 then
    .next { s with fab := { s.fab with ucast := writePair 16384 ((a - 0x82000) / 2) v s.fab.ucast } }
  else if 0x83000 ≤ a ∧ a < 0x85000 then
    .next { s with fab := { s.fab with mcast := writePair 512 ((a - 0x83000) / 2) v s.fab.mcast } }
  else .next s

/-- TMG_QCFGp_q (R425): the words that an access covers. -/
def writeQueue (off : Nat) (w : Wr) (q : Queue) : Queue :=
  if off % 16 < 8 then
    if w.lo then { q with iface := bitsAt w.v 8 2, launchEn := bitAt w.v 1, en := bitAt w.v 0 } else q
  else
    let q1 := if w.lo then { q with rateKbps := bitsAt w.v 0 32 } else q
    if w.hi then { q1 with burst := bitsAt w.v 32 32 } else q1

/-- MON registers: the host writes MON_INT, MATCH and the drawing registers (R492). -/
def writeMon (m : Master) (a : Nat) (w : Wr) (s : State) : Out :=
  if a = 0xB0000 then execTimingWr m (w32 w) s
  else if a = 0xB0008 then execMonIntStat m (w32 w) s
  else if a = 0xB0010 then
    .next (if w.lo then { s with mon := { s.mon with match_ := bitsAt w.v 0 12 } } else s)
  else if a = 0xB0100 then
    if s.mon.drawEn then .next s
    else .next { s with mon := { s.mon with
      drawBase := BitVec.ofNat 23 (merged w (s.mon.drawBase.toNat * 16384) / 16384) } }
  else if a = 0xB0108 then execHead m (w32 w) s
  else if a = 0xB0110 then
    let d := s.mon.drawEn.toNat * 2147483648 + s.mon.deadNs
    execDrawErr m (BitVec.ofNat 64 (merged w d)) s
  else .next s

/-- A write that only the control processor data port makes (DEDUCED, assumption log 68). -/
def fwOnly (m : Master) (a : Nat) (t s : State) : Out :=
  .next (if m = .cpuData then t else busError m true (regAddr a) s)

/-- A write of a register from its start `a`, made at an offset. -/
def writeReg (m : Master) (a off : Nat) (w : Wr) (s : State) : Out :=
  if a < 0x10000 then writeCtl m a w s
  else if a = 0x10030 then
    .next { s with hif := { s.hif with scratch := BitVec.ofNat 64 (merged w s.hif.scratch.toNat) } }
  else if a < 0x30000 then .next s
  else if a < 0x40000 then
    let n := (a - 0x30000) / 16
    let k := off % 16 / 8 * 2
    .next (mniWrite n ((if w.lo then [(k, w.v % 4294967296)] else []) ++
      if w.hi then [(k + 1, w.v / 4294967296)] else []) s)
  else if a < 0x50000 then .next (setFence ((a - 0x42000) / 4) (w32 w) s)
  else if a < 0x60000 then fwOnly m a (writeTsk a w s) s
  else if a < 0x70000 then fwOnly m a s s
  else if a < 0x80000 then writeMem m a w s
  else if a < 0x90000 then writeFab m a off w s
  else if a < 0xA0000 then
    let p := (a - 0x90000) / 0x1000
    let k := p * 256 + (a - 0x90000) % 0x1000 / 16
    fwOnly m a (if p < 2 then { s with tmg := { s.tmg with
      queues := tabMod Queue.reset s.tmg.queues k (writeQueue off w) } } else s) s
  else if a < 0xB0000 then
    let n := (a - 0xA0000) / 16
    let b := bitsAt w.v 24 8
    fwOnly m a (if a % 16 = 8 ∧ 1 ≤ b ∧ b ≤ 40 then setSap n { sapOf s n with bandwidth := b } s else s) s
  else writeMon m a w s

/-- The endpoint's identity, which no row reads and no command changes: vendor, device, subsystem vendor,
subsystem and revision IDs (R541). -/
def pciIds (s : State) : List Nat :=
  [0x1F2C, 0x0A90, 0x1F2C, if s.fuses.orderCode = 0 then 1 else 2, s.fuses.stepping % 256]

/-- A write at a BAR0 offset (R543 to R545): a register, slot memory, a place in a block with no register, which
ignores it, or the default target (R7, R19; DEDUCED, assumption log 68). -/
def execRegisterWrite (m : Master) (offset : BitVec 21) (v : Word64) (wide : Bool) (s : State) : Out :=
  let x := offset.toNat
  let bytes : List Byte := natBytes (le (if wide then 8 else 4) v.toNat)
  if 0x100000 ≤ x ∧ x < 0x120000 then execMbxSlotMemoryWrite m 0 (Fin.ofNat 131072 (x - 0x100000)) bytes s
  else if !inBlock x ∨ !accessOk x wide then execBar0BadAccess m true offset s
  else if !regPath s m then .next (busError m true (regAddr x) s)
  else match regSpan x with
    | some (a, _) => writeReg m a x (wrOf x wide v) s
    | none => .next s

end Sys2Proof.Machine
end

