-- ==== Sys2Proof/Machine/Smb.lean ====
section
/-! DEFINITION. Machine/Smb.lean: the SMBus target (R551 to R555) and HIF_HEALTH as a value (R547, R548). -/

namespace Sys2Proof.Machine

/-- HIF_HEALTH with a SUPPLY bit. -/
def healthValue (s : State) (supply : Bool) : Nat :=
  let h := s.hif
  twos 2 h.tempMax * 281474976710656 + h.vinMv % 65536 * 4294967296 + h.retired % 1024 * 4194304 +
    h.therm.toNat * 2097152 + supply.toNat * 1048576 + h.lockPerm.toNat * 524288 + h.restarting.toNat * 262144 +
    s.ctl.fwRunning.toNat * 131072 + h.channels % 256 * 256 + h.mode % 16

/-- The version of the BAR0 map (HIF_ID). -/
def mapVersion : Nat := 1

/-- The target answers whenever the auxiliary rail is up: with bytes, or with NACK. -/
def smbAnswer (bs : Option (List Nat)) (s : State) : State :=
  { s with pwr := { s.pwr with lastSmb := if s.pwr.rails.contains .aux then bs.map natBytes else none } }

/-- A Read Word. -/
def smbWord (v : Nat) (s : State) : Out := .next (smbAnswer (some (u16 v)) s)

def execSmbId (s : State) : Out := smbWord (s.fuses.orderCode * 256 + mapVersion) s

def execSmbUid (s : State) : Out := .next (smbAnswer (some (u64 s.fuses.uid)) s)

def execSmbStatus (s : State) : Out :=
  let p := s.pwr
  smbWord (p.pgood.toNat + 2 * (faultLow s).toNat + 4 * (thermLow s).toNat + 8 * p.en.toNat +
    16 * (s.hif.mode % 16) + 256 * s.ctl.fwRunning.toNat) s

def execSmbPwrCause (s : State) : Out :=
  let p := s.pwr
  smbWord (p.causeCode % 16 + 16 * (p.causeRail % 16) + 256 * (p.causeAttempts % 16)) s

/-- A Write Byte to SMB_PWR_CAUSE: 0x01 clears the record. -/
def execSmbPwrCauseClear (v : Byte) (s : State) : Out :=
  if v = 1 ∧ s.pwr.rails.contains .aux = true then
    .next { s with pwr := { s.pwr with causeCode := 0, causeRail := 0, causeAttempts := 0 } }
  else .next s

def execSmbVin (s : State) : Out := smbWord s.pwr.vinMv s

def execSmbPower (s : State) : Out := smbWord (s.hlth.powerMw / 100) s

def execSmbTempMax (s : State) : Out := smbWord (twos 2 s.hif.tempMax) s

def execSmbTempk (k : Fin 8) (s : State) : Out := smbWord (twos 2 (s.hlth.temps.getD k.val 0)) s

def execSmbHealth (s : State) : Out :=
  .next (smbAnswer (some (u64 (healthValue s (decide (0 < s.hlth.supply.pcie))))) s)

/-- A Write Byte to SMB_RESET: 0xA5 is a device reset as RESET_N low. -/
def execSmbReset (v : Byte) (s : State) : Out :=
  if v = 0xA5 ∧ s.pwr.rails.contains .aux = true ∧ s.pwr.phase = 3 then .next (resetBoot (stopLaunches s))
  else .next s

/-- The command bytes of R552. -/
def smbKnown (c : Nat) : Bool := decide (c ≤ 6 ∨ (8 ≤ c ∧ c ≤ 0x11))

/-- A command outside the table is answered with NACK. -/
def execSmbUnknownCommand (c : Byte) (s : State) : Out :=
  if smbKnown c.toNat then .next s else .next (smbAnswer none s)

/-- A read of the Alert Response Address: while this module alerts and its address is the lowest that alerts, it
answers with its own address and SMB_ALERT_N goes high (R554). -/
def execSmbAlertResponse (lowest : Bool) (s : State) : Out :=
  if lowest ∧ s.pwr.alertN = false ∧ s.pwr.rails.contains .aux = true then
    .next (smbAnswer (some [2 * s.pwr.smbAddr]) { s with pwr := { s.pwr with alertN := true } })
  else .next s

end Sys2Proof.Machine
end

