-- ==== Sys2Proof/Machine/View.lean ====
section
/-! DEFINITION. Machine/View.lean: what the registers, the flash read view and the memories of the bus matrix read as, the
decoding of its addresses and its paths (R77 to R80, R88, R108, R148, R510 to R512, R544 to R546). -/

namespace Sys2Proof.Machine

/-- A register from its fields: lowest bit, width, value. -/
def packed (fs : List (Nat × Nat × Nat)) : Nat := (fs.map fun f => f.2.2 % 2 ^ f.2.1 * 2 ^ f.1).sum

/-- A count that saturates at so many bits. -/
def satW (w n : Nat) : Nat := min (2 ^ w - 1) n

/-! ### CTL (R74, R79, R80, R94, R97, R105, R110, R128) -/

def mapCtlValue (s : State) : Nat := packed [(1, 1, s.ctl.debugUnlocked.toNat), (0, 1, s.ctl.remap.toNat)]

def bootStatusValue (s : State) : Nat :=
  let b := s.ctl.boot
  packed [(21, 1, b.serviceFlag.toNat), (20, 1, b.trialReverted.toNat), (16, 4, b.failHost), (12, 4, b.failB),
          (8, 4, b.failA), (4, 2, b.source), (0, 4, b.stage)]

def restartValue (s : State) : Nat :=
  let r := s.ctl.restart
  packed [(24, 8, elapsedNow s), (16, 8, r.restarts), (8, 8, mismatch1h s), (7, 1, r.lockstepPerm.toNat),
          (4, 3, r.cause), (0, 1, r.active.toNat)]

def errLogValue (m : Master) (s : State) : Nat :=
  let l := s.ctl.errLog
  packed [(48, 16, rcSeen m l.count), (44, 1, l.valid.toNat), (43, 1, l.write.toNat), (40, 3, l.master),
          (0, 40, l.addr.toNat)]

/-- A slot register as CTL_MBX_PEEKn shows it; the claim that a read of CTL_MBX_SLOTn makes is its own command. -/
def peekValue (s : State) (n : Nat) : Nat := slotValue (slotOf s n) (ownerCode (slotOf s n))

def mbxStatValue (m : Master) (s : State) : Nat :=
  packed [(24, 8, rcSeen m s.mbx.respLost), (16, 8, rcSeen m s.mbx.dbIgnored), (0, 16, rcSeen m s.mbx.dropped)]

def evtCtlValue (s : State) : Nat :=
  let e := s.evt
  packed [(31, 1, e.en.toNat), (16, 5, e.urgVector), (8, 5, e.vector), (0, 8, e.holdoffUs)]

def ctlValue (m : Master) (s : State) (a : Nat) : Nat :=
  if a = 0 then mapCtlValue s
  else if a = 0x10 then bootStatusValue s
  else if a = 0x20 then restartValue s
  else if a = 0x28 then s.ctl.wdogPeriod
  else if a = 0x30 then errLogValue m s
  else if a = 0x40 then s.ctl.imgDigest
  else if 0x100 ≤ a ∧ a < 0x180 then winValue (winOf s ((a - 0x100) / 8))
  else if 0x1000 ≤ a ∧ a < 0x1100 then peekValue s ((a - 0x1000) / 8)
  else if a = 0x1100 then s.mbx.done.toNat
  else if a = 0x1108 then mbxStatValue m s
  else if a = 0x1200 then s.evt.base.toNat * 8192
  else if a = 0x1208 then evtCtlValue s
  else if a = 0x1210 then packed [(16, 9, s.evt.cons), (0, 9, s.evt.prod)]
  else if a = 0x1218 then packed [(16, 16, rcSeen m s.evt.lost), (0, 10, s.evt.fifo.length)]
  else 0

/-! ### HIF and TIM (R148, R164, R547, R548) -/

def hifValue (m : Master) (s : State) (a : Nat) : Nat :=
  if a = 0x10000 then packed [(56, 8, s.fuses.orderCode), (40, 16, s.fuses.stepping), (32, 8, mapVersion)]
  else if a = 0x10008 then s.fuses.uid
  else if a = 0x10010 then packed [(48, 16, s.hif.detClass), (40, 8, s.hif.ifRevMax), (32, 8, s.hif.ifRevMin),
                                   (0, 32, s.hif.fwVersion)]
  else if a = 0x10020 then healthValue s (decide (0 < rcSeen m s.hlth.supply))
  else s.hif.scratch.toNat

/-- TIM_NOW and TIM_PPS_IN read as their last latch; a read of the first word latches anew as its own command. -/
def timValue (s : State) (a : Nat) : Nat :=
  if a = 0x20000 then packed [(80, 4, s.tim.latchedState), (0, 80, s.tim.latched)]
  else if a = 0x20010 then packed [(112, 16, s.tim.ppsLatchCount), (0, 80, s.tim.ppsLatch)]
  else packed [(31, 1, (refPresent s).toNat), (0, 17, (s.tim.refPhase % 131072).toNat)]

/-! ### MNI, PIX, TSK and CEL -/

def mniValue (x : MniIf) : Nat :=
  packed [(96, 32, x.gateway.toNat), (60, 1, x.vlanEn.toNat), (48, 12, x.vlanId), (40, 6, x.prefix_), (32, 1, x.en.toNat),
          (0, 32, x.addr.toNat)]

/-- TSK registers of a region. -/
def regionValue (m : Master) (d : Dispatcher) (o : Nat) : Nat :=
  if o = 0 then packed [(16, 16, d.limitUs), (1, 1, d.lendEn.toNat), (0, 1, d.en.toNat)]
  else if o = 8 then packed [(48, 16, rcSeen m d.stale), (32, 16, rcSeen m d.allocFail),
                             (0, 17, (d.tasks.filter fun t => t.2.inUse).length)]
  else if o = 0x10 then d.period
  else if o = 0x18 then packed ((List.range 4).map fun i => (16 * i, 16, satW 16 (d.depths.getD i 0)))
  else packed ((List.range 16).map fun i => (32 * i, 32, satW 32 (d.hist.getD i 0)))

def tskValue (m : Master) (s : State) (a : Nat) : Nat :=
  if a = 0x50800 then packed [(16, 16, satW 16 s.tsk.lent), (0, 8, s.tsk.minReady)]
  else regionValue m (regionOf s ((a - 0x50000) / 0x100)) ((a - 0x50000) % 0x100)

def cellValue (held : Bool) (c : Cell) : Nat :=
  packed [(16, 16, satW 16 c.busy), (8, 4, satW 4 c.corrected), (0, 2, if held ∧ c.state ≠ 3 then 2 else c.state)]

/-! ### MEM -/

/-- Sectors of a controller that are poisoned now. -/
def poisonedOf (s : State) (n : Nat) : Nat := (s.mem.poison.filter fun x => decide ((homeOf s (x * 64)).1 = n)).length

def eccStatValue (m : Master) (s : State) (n : Nat) : Nat :=
  let x := mcAt s n
  packed [(32, 32, rcSeen m x.corrected), (16, 16, rcSeen m x.uncorr), (0, 16, satW 16 (poisonedOf s n))]

def eccLogValue (x : Mc) : Nat :=
  packed [(63, 1, x.logValid.toNat), (48, 2, x.logClass), (40, 8, x.logPort), (6, 31, x.logSector)]

def refreshValue (s : State) : Nat :=
  let at_ (k : Nat) : Nat := if stackOn s k then s.mem.temps.getD k 0 else 0
  let two (k : Nat) : Bool := stackOn s k && s.mem.doubled.getD k false
  packed (((List.range 4).map fun k => (32 + 8 * k, 8, at_ k)) ++ [(8, 4, bitmap 4 two), (0, 7, s.mem.threshC)])

def memValue (m : Master) (s : State) (a : Nat) : Nat :=
  if a = 0x70000 then
    packed [(24, 8, bitmap 8 (mcOn s)), (16, 8, s.mem.topGib), (8, 1, s.mem.fallback.toNat), (3, 1, s.mem.evac.toNat),
            (0, 3, s.mem.evacMc)]
  else if a = 0x70008 then s.mem.lost.toNat
  else if a = 0x70010 then packed ((List.range 4).map fun i => (16 * i, 16, s.mem.ages.getD i 0))
  else if a = 0x70020 then refreshValue s
  else if a < 0x70140 then (tabGet (defaultMask ((a - 0x70100) / 8)) s.mem.stagedMask ((a - 0x70100) / 8)).toNat
  else if a < 0x70200 then (tabGet (defaultMask ((a - 0x70140) / 8)) s.mem.actMask ((a - 0x70140) / 8)).toNat
  else if a % 16 = 0 then eccStatValue m s ((a - 0x70200) / 16)
  else eccLogValue (mcAt s ((a - 0x70200) / 16))

/-! ### FAB -/

def laneStatValue (m : Master) (l : Lane) : Nat :=
  packed [(32, 32, rcSeen m l.codeErr), (24, 8, l.fom), (20, 4, l.slips), (16, 2, l.laneId), (5, 1, l.retired.toNat),
          (4, 1, l.active.toNat), (3, 1, l.polInv.toNat), (2, 1, l.deskewed.toNat), (1, 1, l.commaOk.toNat),
          (0, 1, l.lock.toNat)]

def portStatValue (m : Master) (s : State) (p : Nat) : Nat :=
  let f := fport s p
  packed [(48, 16, rcSeen m f.replays), (32, 16, rcSeen m f.mrkDrop), (16, 16, delayQ f), (12, 4, activeMap f),
          (8, 4, f.reason), (0, 3, portState s p)]

def cvValue (c : Cv) (o : Nat) : Nat :=
  if o = 0 then
    packed [(31, 1, c.bound.toNat), (30, 1, c.busy.toNat), (29, 1, c.err.toNat), (13, 1, c.invert.toNat),
            (12, 1, c.refOut.toNat), (11, 1, c.refIn.toNat), (0, 7, c.width)]
  else if o = 0x08 then packed [(64, 64, c.poly.toNat), (0, 64, c.init.toNat)]
  else if o = 0x18 then c.value.toNat
  else if o = 0x28 then packed [(40, 24, c.srcLen), (0, 37, c.srcAddr)]
  else if o = 0x30 then packed [(0, 4, c.bytes)]
  else if o = 0x38 then cvResult c
  else 0

def nodeValue (s : State) : Nat :=
  packed [(31, 1, s.fab.valid.toNat), (30, 1, s.fab.manager.toNat), (16, 8, s.fab.priority), (12, 4, 2),
          (0, 9, s.fab.node)]

def rtStatValue (m : Master) (s : State) : Nat :=
  packed [(48, 16, rcSeen m s.fab.unroutable), (32, 16, rcSeen m s.fab.hopDrop), (16, 16, rcSeen m s.fab.badHdr),
          (0, 16, rcSeen m s.fab.dupDrop)]

/-- Two entries of a routing table, as a 32-bit access covers them. -/
def pairValue (t : Tab Nat) (n : Nat) : Nat := packed [(0, 16, tabGet 0 t n), (16, 16, tabGet 0 t (n + 1))]

def fabValue (m : Master) (s : State) (a : Nat) : Nat :=
  if a < 0x81000 then
    let p := (a - 0x80000) / 0x100
    let o := a % 0x100
    if o < 0x40 then (laneAt s p (o / 8)).retired.toNat
    else if o < 0x80 then laneStatValue m (laneAt s p ((o - 0x40) / 8))
    else portStatValue m s p
  else if a < 0x81400 then cvValue (cvAt s ((a - 0x81000) / 0x40)) ((a - 0x81000) % 0x40)
  else if a = 0x81800 then nodeValue s
  else if a = 0x81808 then packed [(24, 8, s.fab.dateline), (0, 16, s.fab.group)]
  else if a = 0x81810 then rtStatValue m s
  else if a < 0x83000 then pairValue s.fab.ucast ((a - 0x82000) / 2)
  else pairValue s.fab.mcast ((a - 0x83000) / 2)

/-! ### TMG, AUD and MON -/

def queueCfgValue (q : Queue) : Nat :=
  packed [(96, 32, q.burst), (64, 32, q.rateKbps), (8, 2, q.iface), (1, 1, q.launchEn.toNat), (0, 1, q.en.toNat)]

def queueObsValue (q : Queue) : Nat :=
  packed [(96, 32, q.resMax), (64, 32, q.lateMax), (32, 32, q.depthEnd), (0, 32, q.depthMax)]

/-- TMG registers. The blocks of port 1 stand 0x1000 above those of port 0, QCFG from 0x0000 and QOBS from 0x2000. -/
def tmgValue (s : State) (a : Nat) : Nat :=
  let x := a - 0x90000
  let q (k : Nat) : Queue := tabGet Queue.reset s.tmg.queues (k * 256 + x % 0x1000 / 16)
  if x < 0x2000 then queueCfgValue (q (x / 0x1000))
  else if x < 0x4000 then queueObsValue (q (x / 0x1000 - 2))
  else s.tmg.period

def audValue (m : Master) (s : State) (a : Nat) : Nat :=
  let x := sapOf s ((a - 0xA0000) / 16)
  if a % 16 = 0 then packed [(48, 16, rcSeen m x.underRc), (40, 8, x.fill), (32, 3, x.lock), (0, 32, twos 4 x.ppb)]
  else packed [(24, 8, x.bandwidth), (0, 24, twos 3 x.steer)]

def monValue (m : Master) (s : State) (a : Nat) : Nat :=
  let x := s.mon
  if a = 0xB0000 then packed [(16, 16, x.frame), (3, 1, x.timingWr.toNat), (2, 1, x.layers.pending.isSome.toNat),
                              (0, 2, x.state)]
  else if a = 0xB0008 then packed [(16, 4, x.intEn), (0, 4, x.intStat)]
  else if a = 0xB0010 then packed [(48, 16, rcSeen m x.underCount), (32, 16, x.underFirst), (16, 16, x.current),
                                   (0, 12, x.match_)]
  else if a = 0xB0100 then x.drawBase.toNat * 16384
  else if a = 0xB0108 then packed [(16, 9, x.drawHead), (0, 9, x.drawTail)]
  else packed [(48, 16, rcSeen m x.drawErrCount), (39, 9, x.drawErrIdx), (32, 1, x.drawErr.toNat),
               (31, 1, x.drawEn.toNat), (0, 16, x.deadNs)]

/-! ### The register space (R7, R544 to R546) -/

/-- The register that begins at an offset, as a master reads it. -/
def regValue (m : Master) (s : State) (a : Nat) : Nat :=
  if a < 0x10000 then ctlValue m s a
  else if a < 0x20000 then hifValue m s a
  else if a < 0x30000 then timValue s a
  else if a < 0x40000 then mniValue (mniIf s ((a - 0x30000) / 16))
  else if a < 0x50000 then (tabGet 0 s.pix.fences ((a - 0x42000) / 4)).toNat
  else if a < 0x60000 then tskValue m s a
  else if a < 0x70000 then cellValue (cellsHeld s) (cellAt s ((a - 0x60000) / 4))
  else if a < 0x80000 then memValue m s a
  else if a < 0x90000 then fabValue m s a
  else if a < 0xA0000 then tmgValue s a
  else if a < 0xB0000 then audValue m s a
  else monValue m s a

/-- One byte of the register space; where no register stands it reads 0. -/
def regByte (m : Master) (s : State) (x : Nat) : Nat :=
  match regSpan x with
  | some (a, _) => regValue m s a / 256 ^ (x - a) % 256
  | none => 0

/-! ### The flash read view (R88, R92, R510 to R512) -/

/-- The retired units of a map copy, in the layout of UNITS, with the regions in byte 134 (R511). -/
def mapUnits (m : MapCopy) : List Nat :=
  let has (u : UnitRef) : Bool := m.units.contains u
  let eight (f : Fin 8 → UnitRef) : Nat := bitmap 8 fun i => has (f (Fin.ofNat 8 i))
  (List.range 128).map (fun b => bitmap 8 fun i => has (.cell (Fin.ofNat 1024 (8 * b + i)))) ++
    [eight .region, eight .controller, eight .fabPort, bitmap 2 fun i => has (.mediaPort (Fin.ofNat 2 i)),
     eight .sdiPort, eight .audioPort, eight .region, 0]

/-- The retired lanes of a map copy: five bits for each port (R511). -/
def mapLanes (m : MapCopy) : Nat :=
  bitmap 40 fun i => m.units.contains (.lane (Fin.ofNat 8 (i / 5)) (Fin.ofNat 5 (i % 5)))

/-- A retirement map copy's 160 bytes (R511); one that is not valid reads as erased. -/
def mapBytes (m : MapCopy) : List Nat :=
  if m.ok then
    let b := u32 0x50544552 ++ u32 m.seq ++ mapUnits m ++ u64 (mapLanes m) ++
      u16 (match m.node with | some n => n % 512 + 32768 | none => 0) ++ [0, 0]
    b ++ u32 (crc32c b)
  else []

/-- A byte of the fault log in flash: the entry of index i stands at place (i - 1) modulo the capacity (R510; DEDUCED,
assumption log 9). -/
def logByte (s : State) (x : Nat) : Nat :=
  match (s.flt.log.take s.flt.flashed).find? fun e => decide ((e.index - 1) % logCapacity = x / 64) with
  | some e => (entryBytes e).getD (x % 64) 0
  | none => 0

/-- A byte of the flash read view. -/
def flashByte (s : State) (x : Nat) : Nat :=
  if x < 0x4020000 then (memRead s.flash.bytes x).toNat
  else if x < 0x4030000 then (mapBytes s.flash.map0).getD (x - 0x4020000) 0
  else if x < 0x4040000 then (mapBytes s.flash.map1).getD (x - 0x4030000) 0
  else logByte s (x - 0x4040000)

/-! ### The bus matrix (R77, R78) -/

/-- The targets of the bus matrix, with the offset in each. -/
inductive BusTarget where
  | rom (x : Nat)
  | sram (x : Nat)
  | regs (x : Nat)
  | slots (x : Nat)
  | flashRegs (x : Nat)
  | flash (x : Nat)
  | window (n : Nat) (x : Nat)
  | dram (x : Nat)
  deriving DecidableEq, Repr

/-- The target of a 40-bit address, none for a decode miss (R77). The address-0 view shows the boot ROM until REMAP is set,
then control SRAM (R80). -/
def busDecode (s : State) (a : Nat) : Option BusTarget :=
  if a < 0x400000 then
    if s.ctl.remap then some (.sram a) else if a < 0x40000 then some (.rom a) else none
  else if 0x10000000 ≤ a ∧ a < 0x10040000 then some (.rom (a - 0x10000000))
  else if 0x20000000 ≤ a ∧ a < 0x20400000 then some (.sram (a - 0x20000000))
  else if 0x40000000 ≤ a ∧ a < 0x50000000 then some (.regs (a - 0x40000000))
  else if 0x50000000 ≤ a ∧ a < 0x50020000 then some (.slots (a - 0x50000000))
  else if 0x60000000 ≤ a ∧ a < 0x60010000 then some (.flashRegs (a - 0x60000000))
  else if 0x64000000 ≤ a ∧ a < 0x68400000 then some (.flash (a - 0x64000000))
  else if 0x80000000 ≤ a ∧ a < 0xC0000000 then some (.window ((a - 0x80000000) / 0x4000000) (a % 0x4000000))
  else if 0x2000000000 ≤ a ∧ a < 0x4000000000 ∧ a - 0x2000000000 < memTop s then some (.dram (a - 0x2000000000))
  else none

/-- Whether the control processor, or an unlocked debugger, issues a master's requests. -/
def coreMaster (s : State) (m : Master) : Bool := decide (m = .cpuData) || (decide (m = .debug) && s.ctl.debugUnlocked)

/-- The paths of R78; the address-0 view follows the column of the ROM and of SRAM, which the same masters but the control
DMA have. -/
def busPath (s : State) (m : Master) (view : Bool) (t : BusTarget) : Bool :=
  match t with
  | .rom _ => decide (m = .cpuInstr) || coreMaster s m
  | .sram _ => decide (m = .cpuInstr) || coreMaster s m || (decide (m = .dma) && !view)
  | .regs x => regPath s m && decide (m ≠ .pcie ∨ x < 0xC0000)
  | .slots _ => slotPath s m
  | .flashRegs _ => coreMaster s m || decide (m = .dma)
  | .flash _ => coreMaster s m || decide (m = .dma)
  | .window _ _ => coreMaster s m || decide (m = .pcie)
  | .dram _ => decide (m = .cpuInstr ∨ m = .dma ∨ m = .mirror) || coreMaster s m

/-- What a target refuses of itself: writes to the ROM and to the flash read view (R78), and accesses that a window does not
pass (R82). -/
def busRefuses (s : State) (write : Bool) (t : BusTarget) : Bool :=
  match t with
  | .rom _ => write
  | .flash _ => write
  | .window n x =>
    let w := winOf s n
    !w.en || !(if write then w.wrEn else w.rdEn) || decide (memTop s ≤ w.base.toNat * 67108864 + x)
  | .regs x => !inBlock x
  | _ => false

/-- The target that takes a request, none where the default target answers it. -/
def busTarget (s : State) (m : Master) (write : Bool) (a : Nat) : Option BusTarget :=
  match busDecode s a with
  | some t => if busPath s m (decide (a < 0x400000)) t && !busRefuses s write t then some t else none
  | none => none

/-- A byte that a read finds at a target. The flash controller's registers and the ROM's contents are free: the spec does not
give them (DESIGN CHOICE, assumption log 9). -/
def busByte (s : State) (m : Master) (node : Nat) (t : BusTarget) : Nat :=
  match t with
  | .rom x => (Config.romByte x).toNat
  | .sram x => (memRead s.ctl.sram x).toNat
  | .regs x => regByte m s x
  | .slots x => ((slotMemory s m node x 1).map BitVec.toNat).getD 0 0
  | .flashRegs x => Config.freeNat (s.free + x) % 256
  | .flash x => flashByte s x
  | .window n x => (memRead s.mem.dram ((winOf s n).base.toNat * 67108864 + x)).toNat
  | .dram x => (memRead s.mem.dram x).toNat

/-- What a read of eight bytes returns. -/
def busData (s : State) (m : Master) (node a : Nat) : Nat :=
  ofLe ((List.range 8).map fun i => match busTarget s m false (a + i) with
    | some t => busByte s m node t
    | none => 0)

/-- A request on the bus matrix: one that no target takes gets the default target's error response (R79). One that a target
takes is no miss: a read returns what stands there, and a write is the command of the register or memory it names. -/
def execBusDecodeMiss (m : Master) (write posted : Bool) (addr : BitVec 40) (s : State) : Out :=
  match busTarget s m write addr.toNat with
  | some _ => .next (if write then s else returned (busData s m 0 addr.toNat) s)
  | none =>
    let s1 := busError m write addr s
    .next (if posted && write then s1 else aborted s1)

end Sys2Proof.Machine
end

