-- ==== Sys2Proof/Machine/Dispatch.lean ====
section
/-! DEFINITION. Machine/Dispatch.lean: the effect of each command, one arm per constructor of Instr. -/

namespace Sys2Proof.Machine

def exec (i : Instr) (s : State) : Host.Outcome State Fault Refusal :=
  match i with
  | .devInfo r => Sys2Proof.Machine.execDevInfo r s
  | .devMode r => Sys2Proof.Machine.execDevMode r s
  | .devCapacity r => Sys2Proof.Machine.execDevCapacity r s
  | .devLedger r => Sys2Proof.Machine.execDevLedger r s
  | .devAlloc r => Sys2Proof.Machine.execDevAlloc r s
  | .devFree r => Sys2Proof.Machine.execDevFree r s
  | .devRestart r => Sys2Proof.Machine.execDevRestart r s
  | .devReset r => Sys2Proof.Machine.execDevReset r s
  | .devMgmt r => Sys2Proof.Machine.execDevMgmt r s
  | .devPort r => Sys2Proof.Machine.execDevPort r s
  | .devGpio r => Sys2Proof.Machine.execDevGpio r s
  | .chanConfigure r => Sys2Proof.Machine.execChanConfigure r s
  | .chanStart r => Sys2Proof.Machine.execChanStart r s
  | .chanStop r => Sys2Proof.Machine.execChanStop r s
  | .chanModify r => Sys2Proof.Machine.execChanModify r s
  | .chanClear r => Sys2Proof.Machine.execChanClear r s
  | .chanStatus r => Sys2Proof.Machine.execChanStatus r s
  | .chanKey r => Sys2Proof.Machine.execChanKey r s
  | .inConfigure r => Sys2Proof.Machine.execInConfigure r s
  | .inClear r => Sys2Proof.Machine.execInClear r s
  | .inStatus r => Sys2Proof.Machine.execInStatus r s
  | .inPolice r => Sys2Proof.Machine.execInPolice r s
  | .outConfigure r => Sys2Proof.Machine.execOutConfigure r s
  | .outClear r => Sys2Proof.Machine.execOutClear r s
  | .outStatus r => Sys2Proof.Machine.execOutStatus r s
  | .pixConfigure r => Sys2Proof.Machine.execPixConfigure r s
  | .pixLoad r => Sys2Proof.Machine.execPixLoad r s
  | .pixLayer r => Sys2Proof.Machine.execPixLayer r s
  | .pixCommit r => Sys2Proof.Machine.execPixCommit r s
  | .monConfigure r => Sys2Proof.Machine.execMonConfigure r s
  | .monStart r => Sys2Proof.Machine.execMonStart r s
  | .monStop r => Sys2Proof.Machine.execMonStop r s
  | .monLayer r => Sys2Proof.Machine.execMonLayer r s
  | .monCommit r => Sys2Proof.Machine.execMonCommit r s
  | .timeStatus r => Sys2Proof.Machine.execTimeStatus r s
  | .timeConfigure r => Sys2Proof.Machine.execTimeConfigure r s
  | .timeSelect r => Sys2Proof.Machine.execTimeSelect r s
  | .timeIo r => Sys2Proof.Machine.execTimeIo r s
  | .fabStatus r => Sys2Proof.Machine.execFabStatus r s
  | .fabPort r => Sys2Proof.Machine.execFabPort r s
  | .fabPriority r => Sys2Proof.Machine.execFabPriority r s
  | .fabRoute r => Sys2Proof.Machine.execFabRoute r s
  | .protConfigure r => Sys2Proof.Machine.execProtConfigure r s
  | .protStatus r => Sys2Proof.Machine.execProtStatus r s
  | .protHandover r => Sys2Proof.Machine.execProtHandover r s
  | .protDissolve r => Sys2Proof.Machine.execProtDissolve r s
  | .protJoin r => Sys2Proof.Machine.execProtJoin r s
  | .protSetting r => Sys2Proof.Machine.execProtSetting r s
  | .audPort r => Sys2Proof.Machine.execAudPort r s
  | .audStart r => Sys2Proof.Machine.execAudStart r s
  | .audStop r => Sys2Proof.Machine.execAudStop r s
  | .audRoute r => Sys2Proof.Machine.execAudRoute r s
  | .audStatus r => Sys2Proof.Machine.execAudStatus r s
  | .hlthStatus r => Sys2Proof.Machine.execHlthStatus r s
  | .hlthFaults r => Sys2Proof.Machine.execHlthFaults r s
  | .hlthSelftest r => Sys2Proof.Machine.execHlthSelftest r s
  | .hlthThresh r => Sys2Proof.Machine.execHlthThresh r s
  | .fwInfo r => Sys2Proof.Machine.execFwInfo r s
  | .fwWrite r => Sys2Proof.Machine.execFwWrite r s
  | .fwActivate r => Sys2Proof.Machine.execFwActivate r s
  | .fwRollback r => Sys2Proof.Machine.execFwRollback r s
  | .fwBootflag r => Sys2Proof.Machine.execFwBootflag r s
  | .fwWriteDone slot verified => Sys2Proof.Machine.execFwWriteDone slot verified s
  | .selftestDone failed passed => Sys2Proof.Machine.execSelftestDone failed passed s
  | .modeTransitionComplete => Sys2Proof.Machine.execModeTransitionComplete s
  | .drainLimitExpiry => Sys2Proof.Machine.execDrainLimitExpiry s
  | .portRelock p => Sys2Proof.Machine.execPortRelock p s
  | .captureInstant ch capture => Sys2Proof.Machine.execCaptureInstant ch capture s
  | .shadowStopSlotEnd ch => Sys2Proof.Machine.execShadowStopSlotEnd ch s
  | .lockstepMismatch => Sys2Proof.Machine.execLockstepMismatch s
  | .ctlSramUncorrectable => Sys2Proof.Machine.execCtlSramUncorrectable s
  | .fwFatalException => Sys2Proof.Machine.execFwFatalException s
  | .kick m v => Sys2Proof.Machine.execKick m v s
  | .watchdogExpiry => Sys2Proof.Machine.execWatchdogExpiry s
  | .restartImageCheckDone digest => Sys2Proof.Machine.execRestartImageCheckDone digest s
  | .done m v => Sys2Proof.Machine.execDone m v s
  | .restartTimeout => Sys2Proof.Machine.execRestartTimeout s
  | .busDecodeMiss m write posted addr => Sys2Proof.Machine.execBusDecodeMiss m write posted addr s
  | .valid m v => Sys2Proof.Machine.execValid m v s
  | .rcFieldRead f m => Sys2Proof.Machine.execRcFieldRead f m s
  | .remap m v => Sys2Proof.Machine.execRemap m v s
  | .dbgAuth challenge => Sys2Proof.Machine.execDbgAuth challenge s
  | .dbgAuthVerify key sig => Sys2Proof.Machine.execDbgAuthVerify key sig s
  | .dbgLockoutExpiry => Sys2Proof.Machine.execDbgLockoutExpiry s
  | .debugDisconnect => Sys2Proof.Machine.execDebugDisconnect s
  | .ctlWinWrite n m v => Sys2Proof.Machine.execCtlWinWrite n m v s
  | .bar2WindowAccess offset len data => Sys2Proof.Machine.execBar2WindowAccess offset len data s
  | .pcieReset => Sys2Proof.Machine.execPcieReset s
  | .ctlDmaAbort => Sys2Proof.Machine.execCtlDmaAbort s
  | .powerQualified => Sys2Proof.Machine.execPowerQualified s
  | .railStep => Sys2Proof.Machine.execRailStep s
  | .railFail r => Sys2Proof.Machine.execRailFail r s
  | .railRetryTimer => Sys2Proof.Machine.execRailRetryTimer s
  | .powerSequenceEnd => Sys2Proof.Machine.execPowerSequenceEnd s
  | .bootImageCopyDone digest => Sys2Proof.Machine.execBootImageCopyDone digest s
  | .go m v => Sys2Proof.Machine.execGo m v s
  | .hostImageVerifyDone digest => Sys2Proof.Machine.execHostImageVerifyDone digest s
  | .ctlMbxSlotClaim n first others => Sys2Proof.Machine.execCtlMbxSlotClaim n first others s
  | .mbxSlotMemoryWrite m node offset data => Sys2Proof.Machine.execMbxSlotMemoryWrite m node offset data s
  | .doorbell n m node v => Sys2Proof.Machine.execDoorbell n m node v s
  | .ctlMbxSlotRelease n m node v => Sys2Proof.Machine.execCtlMbxSlotRelease n m node v s
  | .mbxCommandComplete n => Sys2Proof.Machine.execMbxCommandComplete n s
  | .ctlMbxDoneClear m v => Sys2Proof.Machine.execCtlMbxDoneClear m v s
  | .commandTake => Sys2Proof.Machine.execCommandTake s
  | .mgmtDatagram dst src msg tag => Sys2Proof.Machine.execMgmtDatagram dst src msg tag s
  | .mailboxRequest node msg => Sys2Proof.Machine.execMailboxRequest node msg s
  | .mailboxResponse node opcode channel result tlvs => Sys2Proof.Machine.execMailboxResponse node opcode channel result tlvs s
  | .peerCommandTimeout node opcode channel => Sys2Proof.Machine.execPeerCommandTimeout node opcode channel s
  | .eventRingWrite => Sys2Proof.Machine.execEventRingWrite s
  | .cons v => Sys2Proof.Machine.execCons v s
  | .enSet v => Sys2Proof.Machine.execEnSet v s
  | .enClear v => Sys2Proof.Machine.execEnClear v s
  | .holdoffExpiry => Sys2Proof.Machine.execHoldoffExpiry s
  | .ledgerPeriodBoundary => Sys2Proof.Machine.execLedgerPeriodBoundary s
  | .secondBoundary => Sys2Proof.Machine.execSecondBoundary s
  | .memRequest mc arrivals ecc => Sys2Proof.Machine.execMemRequest mc arrivals ecc s
  | .patrolScrub mc ecc => Sys2Proof.Machine.execPatrolScrub mc ecc s
  | .stackTempRead stack temp => Sys2Proof.Machine.execStackTempRead stack temp s
  | .refreshDue mc bank idle => Sys2Proof.Machine.execRefreshDue mc bank idle s
  | .memBankMask j m v => Sys2Proof.Machine.execMemBankMask j m v s
  | .lost m v => Sys2Proof.Machine.execLost m v s
  | .eccLogValid n m v => Sys2Proof.Machine.execEccLogValid n m v s
  | .mcLost mc => Sys2Proof.Machine.execMcLost mc s
  | .evacGranuleCopy ecc => Sys2Proof.Machine.execEvacGranuleCopy ecc s
  | .evacComplete => Sys2Proof.Machine.execEvacComplete s
  | .timeCopyUpdate => Sys2Proof.Machine.execTimeCopyUpdate s
  | .timNowLatch m => Sys2Proof.Machine.execTimNowLatch m s
  | .timPpsInLatch m => Sys2Proof.Machine.execTimPpsInLatch m s
  | .ptpSyncRx p => Sys2Proof.Machine.execPtpSyncRx p s
  | .ptpAnnounceRx a => Sys2Proof.Machine.execPtpAnnounceRx a s
  | .ptpDelayRespRx domain t3 t4 logInterval => Sys2Proof.Machine.execPtpDelayRespRx domain t3 t4 logInterval s
  | .announceTimeout slot => Sys2Proof.Machine.execAnnounceTimeout slot s
  | .slewComplete => Sys2Proof.Machine.execSlewComplete s
  | .timeStep => Sys2Proof.Machine.execTimeStep s
  | .fabTimePacketRx inPort head body residence => Sys2Proof.Machine.execFabTimePacketRx inPort head body residence s
  | .fabTimeSourceSend slot => Sys2Proof.Machine.execFabTimeSourceSend slot s
  | .linkTimingExchange p => Sys2Proof.Machine.execLinkTimingExchange p s
  | .timingRequest p seq t2 t3 => Sys2Proof.Machine.execTimingRequest p seq t2 t3 s
  | .timingResponse p seq turnaround t4 => Sys2Proof.Machine.execTimingResponse p seq turnaround t4 s
  | .ppsInEdge stamp => Sys2Proof.Machine.execPpsInEdge stamp s
  | .ppsOutPulse => Sys2Proof.Machine.execPpsOutPulse s
  | .packetLaunch iface => Sys2Proof.Machine.execPacketLaunch iface s
  | .unitEnqueue ch => Sys2Proof.Machine.execUnitEnqueue ch s
  | .qsfpInsert port kind => Sys2Proof.Machine.execQsfpInsert port kind s
  | .mniIfWrite n m word v => Sys2Proof.Machine.execMniIfWrite n m word v s
  | .mediaPacketRx p => Sys2Proof.Machine.execMediaPacketRx p s
  | .rxWindowExpiry input => Sys2Proof.Machine.execRxWindowExpiry input s
  | .inputAbsenceTimeout input => Sys2Proof.Machine.execInputAbsenceTimeout input s
  | .sdiSignalChange port sig => Sys2Proof.Machine.execSdiSignalChange port sig s
  | .sdiSav port stamp => Sys2Proof.Machine.execSdiSav port stamp s
  | .inputUnlockTimeout input => Sys2Proof.Machine.execInputUnlockTimeout input s
  | .syncSlotFill input => Sys2Proof.Machine.execSyncSlotFill input s
  | .absentFreezeExpiry input => Sys2Proof.Machine.execAbsentFreezeExpiry input s
  | .arpRefresh output leg mac => Sys2Proof.Machine.execArpRefresh output leg mac s
  | .pixPathPicture ch capture content => Sys2Proof.Machine.execPixPathPicture ch capture content s
  | .pixFenceWrite n m v => Sys2Proof.Machine.execPixFenceWrite n m v s
  | .layerLatch ch capture => Sys2Proof.Machine.execLayerLatch ch capture s
  | .releaseFenceWrite => Sys2Proof.Machine.execReleaseFenceWrite s
  | .alloc by_ count => Sys2Proof.Machine.execAlloc by_ count s
  | .submit by_ handle d => Sys2Proof.Machine.execSubmit by_ handle d s
  | .joinAlloc by_ count target => Sys2Proof.Machine.execJoinAlloc by_ count target s
  | .take cell => Sys2Proof.Machine.execTake cell s
  | .taskDone d => Sys2Proof.Machine.execTaskDone d s
  | .doneTake d => Sys2Proof.Machine.execDoneTake d s
  | .cancel ch => Sys2Proof.Machine.execCancel ch s
  | .taskGrant region => Sys2Proof.Machine.execTaskGrant region s
  | .lendExamine => Sys2Proof.Machine.execLendExamine s
  | .taskAttemptFault f => Sys2Proof.Machine.execTaskAttemptFault f s
  | .taskTimeLimit cell => Sys2Proof.Machine.execTaskTimeLimit cell s
  | .blockClockChange block mhz => Sys2Proof.Machine.execBlockClockChange block mhz s
  | .blockRelock block => Sys2Proof.Machine.execBlockRelock block s
  | .blockRelockTimeout block => Sys2Proof.Machine.execBlockRelockTimeout block s
  | .pipelineFrameIssue cp => Sys2Proof.Machine.execPipelineFrameIssue cp s
  | .sliceCoded cp ch res => Sys2Proof.Machine.execSliceCoded cp ch res s
  | .pipelineParityError cp => Sys2Proof.Machine.execPipelineParityError cp s
  | .dispatcherParityError region => Sys2Proof.Machine.execDispatcherParityError region s
  | .decodeAuDeadline ch capture => Sys2Proof.Machine.execDecodeAuDeadline ch capture s
  | .gpioEdge n e => Sys2Proof.Machine.execGpioEdge n e s
  | .ckLock p => Sys2Proof.Machine.execCkLock p s
  | .laneAdaptDone p foms inverted commas => Sys2Proof.Machine.execLaneAdaptDone p foms inverted commas s
  | .slip p l m v comma => Sys2Proof.Machine.execSlip p l m v comma s
  | .retrain p l m v => Sys2Proof.Machine.execRetrain p l m v s
  | .retire p l m v => Sys2Proof.Machine.execRetire p l m v s
  | .deskewDone p lags laneIds => Sys2Proof.Machine.execDeskewDone p lags laneIds s
  | .width p usable proposed generation => Sys2Proof.Machine.execWidth p usable proposed generation s
  | .fomMeasure p l fom alnMissing codeErrs => Sys2Proof.Machine.execFomMeasure p l fom alnMissing codeErrs s
  | .ckLoss p => Sys2Proof.Machine.execCkLoss p s
  | .packetFrameRx p seq good pkt => Sys2Proof.Machine.execPacketFrameRx p seq good pkt s
  | .ack p seq => Sys2Proof.Machine.execAck p seq s
  | .nak p seq => Sys2Proof.Machine.execNak p seq s
  | .ackTimer p => Sys2Proof.Machine.execAckTimer p s
  | .replayTimeout p => Sys2Proof.Machine.execReplayTimeout p s
  | .creditReturn p counts => Sys2Proof.Machine.execCreditReturn p counts s
  | .creditReturnTimer p => Sys2Proof.Machine.execCreditReturnTimer p s
  | .power p request accept uid => Sys2Proof.Machine.execPower p request accept uid s
  | .loadInit n m v => Sys2Proof.Machine.execLoadInit n m v s
  | .cvGo n m v => Sys2Proof.Machine.execCvGo n m v s
  | .data n m v => Sys2Proof.Machine.execData n m v s
  | .cvFeedDone n => Sys2Proof.Machine.execCvFeedDone n s
  | .cvErr n m v => Sys2Proof.Machine.execCvErr n m v s
  | .helloTimer => Sys2Proof.Machine.execHelloTimer s
  | .hello p h => Sys2Proof.Machine.execHello p h s
  | .candidateTimeout uid => Sys2Proof.Machine.execCandidateTimeout uid s
  | .managerTakeOffice => Sys2Proof.Machine.execManagerTakeOffice s
  | .directedRoutePacket p pkt => Sys2Proof.Machine.execDirectedRoutePacket p pkt s
  | .portReport n => Sys2Proof.Machine.execPortReport n s
  | .addressAssignment node => Sys2Proof.Machine.execAddressAssignment node s
  | .routeRecompute => Sys2Proof.Machine.execRouteRecompute s
  | .bookingRequest node dest bytes => Sys2Proof.Machine.execBookingRequest node dest bytes s
  | .bookingAnswer granted => Sys2Proof.Machine.execBookingAnswer granted s
  | .nodeLostTimeout node => Sys2Proof.Machine.execNodeLostTimeout node s
  | .nodeLost node uid => Sys2Proof.Machine.execNodeLost node uid s
  | .routerForward p pkt => Sys2Proof.Machine.execRouterForward p pkt s
  | .audStartInstant n => Sys2Proof.Machine.execAudStartInstant n s
  | .audRouteEffect => Sys2Proof.Machine.execAudRouteEffect s
  | .audPlayInstant sink frame => Sys2Proof.Machine.execAudPlayInstant sink frame s
  | .clockLoopUpdate n fill => Sys2Proof.Machine.execClockLoopUpdate n fill s
  | .audRateMeasure n ppb => Sys2Proof.Machine.execAudRateMeasure n ppb s
  | .audClockLoss n frame => Sys2Proof.Machine.execAudClockLoss n frame s
  | .audClockReturn n ppb fill => Sys2Proof.Machine.execAudClockReturn n ppb fill s
  | .audClockGlitch n short missing => Sys2Proof.Machine.execAudClockGlitch n short missing s
  | .croakTimer => Sys2Proof.Machine.execCroakTimer s
  | .croak c => Sys2Proof.Machine.execCroak c s
  | .senderSilent node => Sys2Proof.Machine.execSenderSilent node s
  | .suspectTimer => Sys2Proof.Machine.execSuspectTimer s
  | .request msg => Sys2Proof.Machine.execRequest msg s
  | .witnessRequestTimeout ch => Sys2Proof.Machine.execWitnessRequestTimeout ch s
  | .renewTimer => Sys2Proof.Machine.execRenewTimer s
  | .renew msg => Sys2Proof.Machine.execRenew msg s
  | .leaseExpiry ch => Sys2Proof.Machine.execLeaseExpiry ch s
  | .refuse msg => Sys2Proof.Machine.execRefuse msg s
  | .suspect msg => Sys2Proof.Machine.execSuspect msg s
  | .grantGuardExpiry node ch => Sys2Proof.Machine.execGrantGuardExpiry node ch s
  | .grant msg => Sys2Proof.Machine.execGrant msg s
  | .yield msg => Sys2Proof.Machine.execYield msg s
  | .move msg => Sys2Proof.Machine.execMove msg s
  | .moveAck msg => Sys2Proof.Machine.execMoveAck msg s
  | .release msg => Sys2Proof.Machine.execRelease msg s
  | .witnessEntryFree node ch => Sys2Proof.Machine.execWitnessEntryFree node ch s
  | .mirrorRecord rec_ => Sys2Proof.Machine.execMirrorRecord rec_ s
  | .sourceRelay node ch capture line digest => Sys2Proof.Machine.execSourceRelay node ch capture line digest s
  | .continue_ node ch outputs => Sys2Proof.Machine.execContinue node ch outputs s
  | .handoverContinueDeadline ch => Sys2Proof.Machine.execHandoverContinueDeadline ch s
  | .monVblank => Sys2Proof.Machine.execMonVblank s
  | .monLineScan line x => Sys2Proof.Machine.execMonLineScan line x s
  | .monComposeDone => Sys2Proof.Machine.execMonComposeDone s
  | .monIntStat m v => Sys2Proof.Machine.execMonIntStat m v s
  | .timingWr m v => Sys2Proof.Machine.execTimingWr m v s
  | .head m v => Sys2Proof.Machine.execHead m v s
  | .drawDescriptorDone => Sys2Proof.Machine.execDrawDescriptorDone s
  | .drawErr m v => Sys2Proof.Machine.execDrawErr m v s
  | .unitRetire u cause => Sys2Proof.Machine.execUnitRetire u cause s
  | .retirementMapWrite => Sys2Proof.Machine.execRetirementMapWrite s
  | .faultLogWrite => Sys2Proof.Machine.execFaultLogWrite s
  | .sdiPortFault n => Sys2Proof.Machine.execSdiPortFault n s
  | .mediaPortFault n => Sys2Proof.Machine.execMediaPortFault n s
  | .audioPortFault n => Sys2Proof.Machine.execAudioPortFault n s
  | .healthSensorUpdate vinMv rails temps powerMw => Sys2Proof.Machine.execHealthSensorUpdate vinMv rails temps powerMw s
  | .thermalRecovery => Sys2Proof.Machine.execThermalRecovery s
  | .vinUndervoltage micros => Sys2Proof.Machine.execVinUndervoltage micros s
  | .vinOvervoltage => Sys2Proof.Machine.execVinOvervoltage s
  | .enLow => Sys2Proof.Machine.execEnLow s
  | .resetNAssert nanos => Sys2Proof.Machine.execResetNAssert nanos s
  | .resetNRelease => Sys2Proof.Machine.execResetNRelease s
  | .smbId => Sys2Proof.Machine.execSmbId s
  | .smbUid => Sys2Proof.Machine.execSmbUid s
  | .smbStatus => Sys2Proof.Machine.execSmbStatus s
  | .smbPwrCause => Sys2Proof.Machine.execSmbPwrCause s
  | .smbPwrCauseClear v => Sys2Proof.Machine.execSmbPwrCauseClear v s
  | .smbVin => Sys2Proof.Machine.execSmbVin s
  | .smbPower => Sys2Proof.Machine.execSmbPower s
  | .smbTempMax => Sys2Proof.Machine.execSmbTempMax s
  | .smbTempk k => Sys2Proof.Machine.execSmbTempk k s
  | .smbHealth => Sys2Proof.Machine.execSmbHealth s
  | .smbReset v => Sys2Proof.Machine.execSmbReset v s
  | .smbUnknownCommand c => Sys2Proof.Machine.execSmbUnknownCommand c s
  | .smbAlertResponse lowest => Sys2Proof.Machine.execSmbAlertResponse lowest s
  | .msixUnmask vector busMaster msixEn => Sys2Proof.Machine.execMsixUnmask vector busMaster msixEn s
  | .bar0BadAccess m write offset => Sys2Proof.Machine.execBar0BadAccess m write offset s
  | .registerWrite m offset v wide => Sys2Proof.Machine.execRegisterWrite m offset v wide s
  | .mediaLinkChange iface up => Sys2Proof.Machine.execMediaLinkChange iface up s
  | .bookingAnswerTimeout => Sys2Proof.Machine.execBookingAnswerTimeout s
  | .mirrorStreamRecovery ch => Sys2Proof.Machine.execMirrorStreamRecovery ch s
  | .restartRecopyDone => Sys2Proof.Machine.execRestartRecopyDone s
  | .ptpFollowUpRx domain source seq origin correction => Sys2Proof.Machine.execPtpFollowUpRx domain source seq origin correction s
  | .ptpDelayReqSend slot t3 => Sys2Proof.Machine.execPtpDelayReqSend slot t3 s
  | .sdiLineRx port line last crcOk digest anc audio => Sys2Proof.Machine.execSdiLineRx port line last crcOk digest anc audio s
  | .sapFrameRx n samples => Sys2Proof.Machine.execSapFrameRx n samples s
  | .ref10InEdge stamp => Sys2Proof.Machine.execRef10InEdge stamp s

end Sys2Proof.Machine
end

