-- ==== Sys2Proof/Safety.lean ====
section
/-! DEFINITION. Safety.lean: the terms in which statements about the device are put: sound states, the requests
that the mailbox commands carry, and what carrying out a request answers. -/

namespace Sys2Proof.Machine

/-! ### Sound states -/

/-- The byte memories that stand in State as bytes are in canonical form: DRAM, slot memory, control SRAM, the flash and
the host's memory that holds the event ring. -/
def memoriesOk (s : State) : Prop :=
  memWf s.mem.dram = true ∧ memWf s.mbx.mem = true ∧ memWf s.ctl.sram = true ∧ memWf s.flash.bytes = true ∧
    memWf s.evt.host = true

/-- The event FIFO holds at most 512 entries, numbered in rising order below the next number (R99, R127). -/
def eventsOk (s : State) : Prop :=
  s.evt.fifo.length ≤ 512 ∧ (s.evt.fifo.map Event.seq).Pairwise (· < ·) ∧
    ∀ e ∈ s.evt.fifo, e.seq < s.evt.nextSeq

/-- The table of inputs lists each input once, in rising order. -/
def inputsOk (s : State) : Prop := (s.inputs.map Prod.fst).Pairwise (· < ·)

/-! ### Mailbox commands -/

/-- The request that a mailbox command carries and the row of the opcode tables it is checked against. -/
def commandOf : Instr → Option (CmdSpec × Req)
  | .devInfo r => some (sDevInfo, r)
  | .devMode r => some (sDevMode, r)
  | .devCapacity r => some (sDevCapacity, r)
  | .devLedger r => some (sDevLedger, r)
  | .devAlloc r => some (sDevAlloc, r)
  | .devFree r => some (sDevFree, r)
  | .devRestart r => some (sDevRestart, r)
  | .devReset r => some (sDevReset, r)
  | .devMgmt r => some (sDevMgmt, r)
  | .devPort r => some (sDevPort, r)
  | .devGpio r => some (sDevGpio, r)
  | .chanConfigure r => some (sChanConfigure, r)
  | .chanStart r => some (sChanStart, r)
  | .chanStop r => some (sChanStop, r)
  | .chanModify r => some (sChanModify, r)
  | .chanClear r => some (sChanClear, r)
  | .chanStatus r => some (sChanStatus, r)
  | .chanKey r => some (sChanKey, r)
  | .inConfigure r => some (sInConfigure, r)
  | .inClear r => some (sInClear, r)
  | .inStatus r => some (sInStatus, r)
  | .inPolice r => some (sInPolice, r)
  | .outConfigure r => some (sOutConfigure, r)
  | .outClear r => some (sOutClear, r)
  | .outStatus r => some (sOutStatus, r)
  | .pixConfigure r => some (sPixConfigure, r)
  | .pixLoad r => some (sPixLoad, r)
  | .pixLayer r => some (sPixLayer, r)
  | .pixCommit r => some (sPixCommit, r)
  | .monConfigure r => some (sMonConfigure, r)
  | .monStart r => some (sMonStart, r)
  | .monStop r => some (sMonStop, r)
  | .monLayer r => some (sMonLayer, r)
  | .monCommit r => some (sMonCommit, r)
  | .timeStatus r => some (sTimeStatus, r)
  | .timeConfigure r => some (sTimeConfigure, r)
  | .timeSelect r => some (sTimeSelect, r)
  | .timeIo r => some (sTimeIo, r)
  | .fabStatus r => some (sFabStatus, r)
  | .fabPort r => some (sFabPort, r)
  | .fabPriority r => some (sFabPriority, r)
  | .fabRoute r => some (sFabRoute, r)
  | .protConfigure r => some (sProtConfigure, r)
  | .protStatus r => some (sProtStatus, r)
  | .protHandover r => some (sProtHandover, r)
  | .protDissolve r => some (sProtDissolve, r)
  | .protJoin r => some (sProtJoin, r)
  | .protSetting r => some (sProtSetting, r)
  | .audPort r => some (sAudPort, r)
  | .audStart r => some (sAudStart, r)
  | .audStop r => some (sAudStop, r)
  | .audRoute r => some (sAudRoute, r)
  | .audStatus r => some (sAudStatus, r)
  | .hlthStatus r => some (sHlthStatus, r)
  | .hlthFaults r => some (sHlthFaults, r)
  | .hlthSelftest r => some (sHlthSelftest, r)
  | .hlthThresh r => some (sHlthThresh, r)
  | .fwInfo r => some (sFwInfo, r)
  | .fwWrite r => some (sFwWrite, r)
  | .fwActivate r => some (sFwActivate, r)
  | .fwRollback r => some (sFwRollback, r)
  | .fwBootflag r => some (sFwBootflag, r)
  | _ => none

/-- The request is carried out in earnest: firmware runs, it passes the checks of R117 up to the device mode,
and it does not ask for the checks alone. -/
def accepted (c : CmdSpec) (r : Req) (s : State) : Prop :=
  s.ctl.fwRunning = true ∧ precheck c r s = none ∧ checkOnly r = false

/-- The state after a request of row `c` is answered with ST_OK, the TLVs `ts` and the work's state `t`. -/
def okAnswer (c : CmdSpec) (r : Req) (ts : List Tlv) (t : State) : State :=
  answer c.opcode r stOk 0 (ts ++ ignoredTlv c r) false t

/-- What every response of a row carries whatever its status: DELAY_MIN_NS on CHAN.CONFIGURE (R285), TS_MIN on
OUT.CONFIGURE (R419). -/
def alwaysTlvs (c : CmdSpec) (r : Req) (s : State) : List Tlv :=
  if c.opcode = 0x0201 then [delayTlv r s]
  else if c.opcode = 0x0401 then [tlv 0x0409 4 (tsMinOf s (tlvD r 0x0401 0))]
  else []

/-- The state after a request of row `c` is refused with a status and detail and no TLVs of its own. -/
def refusal (c : CmdSpec) (r : Req) (status detail : Nat) (s : State) : State :=
  answer c.opcode r status detail (alwaysTlvs c r s ++ ignoredTlv c r) false s

end Sys2Proof.Machine
end

