-- ==== Sys2Proof/Certificates/Slice0/Obligations.lean ====
section
/-! DEFINITION. Certificates/Slice0/Obligations.lean: the statements about the VX9, one definition each. -/

open Sys2Proof Sys2Proof.Machine

/-! ### The step, reset and whole-machine invariants -/

/-- A step takes the command at the front of the queue with the queue's rest (the block's form). -/
def Obligations.StepTakesFrontCommand : Prop :=
  ∀ (c : Instr) (cs : List Instr) (s : State), s.pending = c :: cs →
    step s = exec c { s with pending := cs }

/-- R146, R147: with nothing commanded and no boot ROM at STAGE 2, one 2 ns cycle of the time base passes and nothing
but time changes; a local copy of time advances at the rate that it was last sent; before the device is out of reset
time stands. That an idle step is one cycle is the model's choice (assumption log 6). -/
def Obligations.IdleStepAdvancesTime : Prop :=
  (∀ s : State, s.pending = [] → s.pwr.phase = 3 → s.ctl.boot.stage ≠ 2 → s.tim.state ≠ 3 → s.tim.freq = 0 →
    s.tim.phase < 65536 →
    ∃ t, step s = .next t ∧ t.tim.now = s.tim.now + 2 * 65536 ∧ t.tim.phase = s.tim.phase ∧
      t.tim.copies = s.tim.copies.map advanceCopy ∧ { t with tim := s.tim } = s) ∧
  (∀ c : TimeCopy, c.rate = 0 → c.phase < 65536 →
    (advanceCopy c).value = c.value + 2 * 65536 ∧ (advanceCopy c).phase = c.phase) ∧
  ∀ s : State, s.pending = [] → s.pwr.phase ≠ 3 → s.ctl.boot.stage ≠ 2 → step s = .next s

/-- The byte memories are in canonical form at reset, and the event FIFO is empty. -/
def Obligations.ResetStateIsSound : Prop :=
  memoriesOk State.reset ∧ eventsOk State.reset ∧ State.reset.evt.nextSeq = 0

/-- Every step from any state keeps the canonical form of DRAM, slot memory, control SRAM, the flash and the host memory
of the event ring. -/
def Obligations.StepKeepsMemoriesCanonical : Prop :=
  ∀ s t : State, memoriesOk s → step s = .next t → memoriesOk t

/-- R99, R127: every step keeps the event FIFO at no more than 512 entries, in sequence order. Every step keeps the
table of inputs in rising order of input number, so that an input has one entry. -/
def Obligations.StepKeepsTablesInOrder : Prop :=
  (∀ s t : State, eventsOk s → step s = .next t → eventsOk t) ∧
  (inputsOk State.reset ∧ ∀ s t : State, inputsOk s → step s = .next t → inputsOk t)

/-- R1, R90, R382: no step changes the unique identifier, the ordering code, the stepping, the key fuses or the debug
fuses, and the rollback counter never falls. R81: only a passed DBG_AUTH_VERIFY, with the fused debug key, a valid
signature over an outstanding challenge and DEBUG_DISABLE unblown, unlocks the debug master. -/
def Obligations.StepKeepsIdentityAndDebugLock : Prop :=
  (∀ s t : State, step s = .next t →
     t.fuses.uid = s.fuses.uid ∧ t.fuses.orderCode = s.fuses.orderCode ∧
     t.fuses.stepping = s.fuses.stepping ∧ t.fuses.revoked = s.fuses.revoked ∧
     t.fuses.keyHashes = s.fuses.keyHashes ∧ t.fuses.debugKeyHash = s.fuses.debugKeyHash ∧
     t.fuses.debugDisable = s.fuses.debugDisable ∧ s.fuses.rollback ≤ t.fuses.rollback) ∧
  (∀ (c : Instr) (s t : State), exec c s = .next t → s.ctl.debugUnlocked = false →
     t.ctl.debugUnlocked = true →
     ∃ key sig x, c = .dbgAuthVerify key sig ∧ s.ctl.challenge = some x ∧
       sha384 (byteNats key) = le 48 s.fuses.debugKeyHash.toNat ∧
       ecdsaOk (byteNats key) (byteNats sig) (dbgMessage s x) = true ∧ s.fuses.debugDisable = false)

/-! ### The checks of every mailbox command (R113 to R118, R121) -/

/-- R117: with no admitting command held, a request that fails an early check is answered with that check's status and
detail, and has no other effect; and where no firmware runs no command is carried out (R121). R114: a request with
CHECK_ONLY is answered and changes nothing else; one whose check needs the fabric manager's answer, or an earlier
admission's, waits for it and changes no channel and no group meanwhile. R117: the order of the first checks, each
with its status and detail of R118. -/
def Obligations.MailboxChecksComeFirst : Prop :=
  (∀ (i : Instr) (c : CmdSpec) (r : Req) (s : State), commandOf i = some (c, r) → s.mbx.heldAdmits = [] →
     (s.ctl.fwRunning = false → exec i s = .next s) ∧
     ∀ st d, s.ctl.fwRunning = true → precheck c r s = some (st, d) →
       exec i s = .next (refusal c r st d s)) ∧
  (∀ (i : Instr) (c : CmdSpec) (r : Req) (s : State), commandOf i = some (c, r) →
     s.ctl.fwRunning = true → checkOnly r = true → s.mbx.heldAdmits = [] →
     (∃ st d ts more, exec i s = .next (answer c.opcode r st d ts more s)) ∨
     ((c.opcode = 0x0201 ∨ c.opcode = 0x0801) ∧ ∃ t, exec i s = .next t ∧ t.chans = s.chans ∧
       t.prt.groups = s.prt.groups ∧
       (t.fab.wantBooking = some (heldOf c.opcode r s) ∨ t.mbx.heldAdmits = [heldOf c.opcode r s]))) ∧
  ((∀ c r s, r.rev ≠ 2 → r.rev ≠ 3 → precheck c r s = some (7, 3 * 256 + 2)) ∧
   (∀ c r s, r.rev = 2 ∨ r.rev = 3 → specOf r.rev c.opcode = none → precheck c r s = some (4, 0)) ∧
   (∀ c r s, r.rev = 2 ∨ r.rev = 3 → (specOf r.rev c.opcode).isSome → mayIssue r.path c.opcode = false →
     precheck c r s = some (8, 0)) ∧
   (∀ c r s, r.rev = 2 ∨ r.rev = 3 → (specOf r.rev c.opcode).isSome → mayIssue r.path c.opcode = true →
     ∀ d, formBad c r = some d → precheck c r s = some (5, d)) ∧
   (∀ c r s, r.rev = 2 ∨ r.rev = 3 → (specOf r.rev c.opcode).isSome → mayIssue r.path c.opcode = true →
     formBad c r = none → testing s = true → c.opcode ≠ 0x0B01 → c.opcode ≠ 0x0B02 → c.opcode ≠ 0x0102 →
     precheck c r s = some (1, 0)) ∧
   ∀ c r s, r.rev = 2 ∨ r.rev = 3 → (specOf r.rev c.opcode).isSome → mayIssue r.path c.opcode = true →
     formBad c r = none → testing s = false → s.modes.mode ∉ c.modes →
     ∃ ch, precheck c r s = some (2, modeCode s.modes.mode * 256 + ch) ∧
       (c.names = false → ch = 0xFF) ∧ (c.names = true → ch = stateCode (chan s r.channel).state))

/-! ### The mailbox slots (R104 to R112) -/

/-- R105 to R107: a path's read of an unowned slot claims it and reads OWNER 0 with the new generation, and of the reads
of one cycle that of the host, then management, then the fabric claims; a read of an owned slot changes nothing and
reads the owner's code; the debug and DMA masters never claim. R108: slot memory takes a write from the owner in
CLAIMED or DONE, and from the control processor data port in BUSY; every other write is dropped and counted; a
master that does not own the slot reads 0. R109, R119: a DOORBELL write by the owner in CLAIMED or DONE makes the
slot BUSY, records its generation and queues it behind the doorbells rung before, those of one cycle by path and
then by slot; any other, and one with RELEASE set too, is ignored and counted. -/
def Obligations.MailboxSlotsFollowTheirOwner : Prop :=
  ((∀ (n : Fin 32) (m : Master) (node : Fin 512) (others : List Claim) (p : Path) (s : State),
     slotPath s m = true → masterPath m = some p → (slotOf s n.val).owner = none →
     (∀ o ∈ others, slotPath s o.master = true ∧ claimRank m < claimRank o.master) →
     ∃ t x, exec (.ctlMbxSlotClaim n ⟨m, node⟩ others) s = .next t ∧ slotOf t n.val = x ∧ x.owner = some p ∧
       x.gen = ((slotOf s n.val).gen + 1) % 256 ∧
       x.state = (if (slotOf s n.val).state = 2 then 2 else 1) ∧
       x.ownerNode = (if p = .fabric then node.val else 0) ∧
       t.last = { value := BitVec.ofNat 64 (slotValue x 0), abort := false } ∧
       (∀ k, k ≠ n.val → slotOf t k = slotOf s k) ∧
       { t with mbx := { t.mbx with slots := s.mbx.slots, claimReads := s.mbx.claimReads }, last := s.last } = s) ∧
   (claimRank .pcie = 1 ∧ claimRank .cpuData = 2 ∧ claimRank .mirror = 3 ∧ claimRank .debug = 4 ∧ claimRank .dma = 4) ∧
   (∀ (n : Fin 32) (m : Master) (node : Fin 512) (p q : Path) (s : State),
     slotPath s m = true → masterPath m = some p → (slotOf s n.val).owner = some q →
     ∃ t, exec (.ctlMbxSlotClaim n ⟨m, node⟩ []) s = .next t ∧
       t.last = { value := BitVec.ofNat 64 (slotValue (slotOf s n.val) (pathCode q)), abort := false } ∧
       { t with mbx := { t.mbx with claimReads := s.mbx.claimReads }, last := s.last } = s) ∧
   ∀ (n : Fin 32) (m : Master) (node : Fin 512) (s : State),
     slotPath s m = true → masterPath m = none →
     ∃ t, exec (.ctlMbxSlotClaim n ⟨m, node⟩ []) s = .next t ∧ t.last.abort = false ∧
       { t with mbx := { t.mbx with claimReads := s.mbx.claimReads }, last := s.last } = s) ∧
  ((∀ (s : State) (m : Master) (node off len : Nat), m ≠ .cpuData →
     (∀ k, owns m node (slotOf s k) = false) → slotMemory s m node off len = List.replicate len 0) ∧
   (∀ (s : State) (node off len : Nat), slotMemory s .cpuData node off len = memReads s.mbx.mem off len) ∧
   ∀ (m : Master) (node : Fin 512) (o : Fin 131072) (d : List Byte) (s : State),
     slotPath s m = true → o.val % 4096 + d.length ≤ 4096 → memWf s.mbx.mem = true →
     (((owns m node.val (slotOf s (o.val / 4096)) = true ∧
         ((slotOf s (o.val / 4096)).state = 1 ∨ (slotOf s (o.val / 4096)).state = 3)) ∨
         (m = .cpuData ∧ (slotOf s (o.val / 4096)).state = 2)) →
       ∃ t, exec (.mbxSlotMemoryWrite m node o d) s = .next t ∧
         (∀ k, (h : k < d.length) → memRead t.mbx.mem (o.val + k) = d[k]) ∧
         (∀ a, a < o.val ∨ o.val + d.length ≤ a → memRead t.mbx.mem a = memRead s.mbx.mem a) ∧
         { t with mbx := { t.mbx with mem := s.mbx.mem } } = s) ∧
     (¬((owns m node.val (slotOf s (o.val / 4096)) = true ∧
         ((slotOf s (o.val / 4096)).state = 1 ∨ (slotOf s (o.val / 4096)).state = 3)) ∨
         (m = .cpuData ∧ (slotOf s (o.val / 4096)).state = 2)) →
       exec (.mbxSlotMemoryWrite m node o d) s =
         .next { s with mbx := { s.mbx with dropped :=
           { pcie := min 65535 (s.mbx.dropped.pcie + 1), cpu := min 65535 (s.mbx.dropped.cpu + 1) } } })) ∧
  (∀ (n : Fin 32) (m : Master) (node : Fin 512) (v : Word32) (s : State),
     slotPath s m = true → v.getLsbD 30 = true →
     (∀ p, masterPath m = some p → v.getLsbD 31 = false → owns m node.val (slotOf s n.val) = true →
       (slotOf s n.val).state = 1 ∨ (slotOf s n.val).state = 3 →
       ∃ t, exec (.doorbell n m node v) s = .next t ∧
         slotOf t n.val = { slotOf s n.val with state := 2, bellGen := (slotOf s n.val).gen } ∧
         t.mbx.bells = queueBell (n.val, p, s.tim.now) s.mbx.bells ∧
         ((∀ e ∈ s.mbx.bells, e.2.2 ≠ s.tim.now) → t.mbx.bells = s.mbx.bells ++ [(n.val, p, s.tim.now)]) ∧
         (∀ e, s.mbx.bells = [e] → e.2.2 = s.tim.now → pathCode p < pathCode e.2.1 →
           t.mbx.bells = [(n.val, p, s.tim.now), e]) ∧
         (∀ k, k ≠ n.val → slotOf t k = slotOf s k) ∧
         { t with mbx := { t.mbx with slots := s.mbx.slots, bells := s.mbx.bells } } = s) ∧
     ((v.getLsbD 31 = true ∨ owns m node.val (slotOf s n.val) = false ∨
         ((slotOf s n.val).state ≠ 1 ∧ (slotOf s n.val).state ≠ 3)) →
       exec (.doorbell n m node v) s =
         .next { s with mbx := { s.mbx with dbIgnored :=
           { pcie := min 255 (s.mbx.dbIgnored.pcie + 1), cpu := min 255 (s.mbx.dbIgnored.cpu + 1) } } }))

/-- R117, R119: firmware takes the doorbell rung first; a well-formed request goes into work with its acceptance time,
and one that fails a check is answered with the detail of its first fault. In BOOT none is taken (R121), and none
before the commands that a control restart interrupted are answered (R101). R110, R111: the response to a command
whose slot has kept its generation goes to the owner of the slot by its path; where another path has claimed the
slot it is discarded and counted, and slot memory stays. R111: a RELEASE by the owner frees a slot in CLAIMED or
DONE and leaves a BUSY slot BUSY with no owner; W1C writes of CTL_MBX_DONE clear the bits written. -/
def Obligations.CommandsTakenAndResponsesDelivered : Prop :=
  ((∀ s : State, s.ctl.fwRunning = false → exec .commandTake s = .next s) ∧
   (∀ (w : InWork) (s : State), w ∈ s.mbx.inWork → w.redo = true → exec .commandTake s = .next s) ∧
   ∀ (n : Nat) (p : Path) (at_ : Nat) (rest : List (Nat × Path × Nat)) (op : Nat) (r : Req) (cut : Option Nat)
     (c : CmdSpec) (s : State), s.ctl.fwRunning = true → (∀ w ∈ s.mbx.inWork, w.redo = false) →
     s.mbx.bells = (n, p, at_) :: rest →
     parseReq p (some (Fin.ofNat 32 n)) (slotOf s n).ownerNode (byteNats (memReads s.mbx.mem (n * 4096) 4096)) =
       (op, r, cut) →
     r.rev = 2 ∨ r.rev = 3 → specOf r.rev op = some c →
     let bs := byteNats (memReads s.mbx.mem (n * 4096) 4096)
     let w : InWork := { slot := n, opcode := op, req := r, accepted := nowNs s, redo := false }
     let s1 : State := { s with mbx := { s.mbx with bells := rest, inWork := s.mbx.inWork ++ [w] } }
     (∀ d, mayIssue p op = true → messageBad c r bs cut = some d →
       exec .commandTake s = .next (answer op r 5 d (ignoredTlv c r) false s1)) ∧
     (mayIssue p op = false ∨ messageBad c r bs cut = none → precheck c r s1 = none → exec .commandTake s = .next s1) ∧
     ∀ st d, mayIssue p op = false ∨ messageBad c r bs cut = none → precheck c r s1 = some (st, d) →
       exec .commandTake s = .next (answer op r st d (ignoredTlv c r) false s1)) ∧
  (∀ (n : Fin 32) (r : Resp) (s : State), respFor s n = some r → memWf s.mbx.mem = true →
     ((slotOf s n.val).gen = (slotOf s n.val).bellGen →
       ∃ t, exec (.mbxCommandComplete n) s = .next t ∧ t.mbx.resps = s.mbx.resps.erase r ∧
         (∀ k, (h : k < (natBytes (respBytes r)).length) →
           memRead t.mbx.mem (n.val * 4096 + k) = (natBytes (respBytes r))[k]) ∧
         (∀ a, a < n.val * 4096 ∨ n.val * 4096 + (natBytes (respBytes r)).length ≤ a →
           memRead t.mbx.mem a = memRead s.mbx.mem a) ∧
         ((slotOf s n.val).owner = some .host →
           (slotOf t n.val).state = 3 ∧ t.mbx.done = s.mbx.done ||| BitVec.ofNat 32 (2 ^ n.val) ∧
           (s.evt.busMaster = true → s.evt.msixEn = true → n.val ∉ s.evt.masked →
             t.evt.sent = s.evt.sent ++ [n.val])) ∧
         ((slotOf s n.val).owner = some .fabric →
           (slotOf t n.val).state = 0 ∧ (slotOf t n.val).owner = none ∧
             t.mbx.fabResps = s.mbx.fabResps ++ [{ r with node := (slotOf s n.val).ownerNode }]) ∧
         (∀ e, (slotOf s n.val).owner = some .management →
           (s.mbx.mgmtSlots.find? fun e => decide (e.slot = n.val ∧ e.gen = (slotOf s n.val).gen)) = some e →
           (slotOf t n.val).state = 0 ∧ (slotOf t n.val).owner = none ∧
             t.mbx.datagrams = s.mbx.datagrams ++ [.response e.ip e.port r (tagOf s (respBytes r))]) ∧
         ((slotOf s n.val).owner = none → (slotOf t n.val).state = 0)) ∧
     ((slotOf s n.val).gen ≠ (slotOf s n.val).bellGen →
       ∃ t, exec (.mbxCommandComplete n) s = .next t ∧ t.mbx.resps = s.mbx.resps.erase r ∧
         t.mbx.mem = s.mbx.mem ∧ t.mbx.done = s.mbx.done ∧
         t.mbx.respLost = { pcie := min 255 (s.mbx.respLost.pcie + 1), cpu := min 255 (s.mbx.respLost.cpu + 1) } ∧
         (slotOf t n.val).state = (if (slotOf s n.val).owner.isSome then 1 else 0))) ∧
  ((∀ (n : Fin 32) (m : Master) (node : Fin 512) (v : Word32) (s : State),
     slotPath s m = true → v.getLsbD 30 = false → v.getLsbD 31 = true →
     owns m node.val (slotOf s n.val) = true →
     ∃ t, exec (.ctlMbxSlotRelease n m node v) s = .next t ∧ (slotOf t n.val).owner = none ∧
       (slotOf t n.val).gen = (slotOf s n.val).gen ∧
       (slotOf t n.val).state = (if (slotOf s n.val).state = 2 then 2 else 0) ∧
       (∀ k, k ≠ n.val → slotOf t k = slotOf s k) ∧
       { t with mbx := { t.mbx with slots := s.mbx.slots } } = s) ∧
   (∀ (n : Fin 32) (m : Master) (node : Fin 512) (v : Word32) (s : State),
     slotPath s m = true → v.getLsbD 30 = false →
     owns m node.val (slotOf s n.val) = false → exec (.ctlMbxSlotRelease n m node v) s = .next s) ∧
   ∀ (m : Master) (v : Word32) (s : State), regPath s m = true →
     ∃ t, exec (.ctlMbxDoneClear m v) s = .next t ∧
       (∀ k, t.mbx.done.getLsbD k = (s.mbx.done.getLsbD k && !v.getLsbD k)) ∧
       { t with mbx := { t.mbx with done := s.mbx.done } } = s)

/-- R106, R124, R125: a fabric peer's request takes the lowest free slot, its message is in slot memory and its doorbell
is rung; with no free slot the mirror engine answers ST_BUSY. R122 to R124, R135: which management datagrams are
discarded, taken into a slot, answered again or answered ST_BUSY; the tag is the first 16 bytes of the HMAC-SHA-256
of the message, and one to another address or port is no management datagram. -/
def Obligations.FabricAndManagementRequests : Prop :=
  (∀ (node : Fin 512) (msg : List Byte) (s : State),
     (∀ n, freeSlot s = some n → msg.length ≤ 4096 → memWf s.mbx.mem = true →
       ∃ t, exec (.mailboxRequest node msg) s = .next t ∧
         (∀ k, k < n → ¬((slotOf s k).state = 0 ∧ (slotOf s k).owner = none)) ∧
         (slotOf t n).owner = some .fabric ∧ (slotOf t n).ownerNode = node.val ∧ (slotOf t n).state = 2 ∧
         t.mbx.bells = queueBell (n, .fabric, s.tim.now) s.mbx.bells ∧
         (∀ k, (h : k < msg.length) → memRead t.mbx.mem (n * 4096 + k) = msg[k]) ∧
         (∀ k, k ≠ n → slotOf t k = slotOf s k)) ∧
     (freeSlot s = none →
       ∃ t, exec (.mailboxRequest node msg) s = .next t ∧
         t.mbx.fabResps = s.mbx.fabResps ++ [busyResp .fabric node.val (byteNats msg)] ∧
         t.mbx.slots = s.mbx.slots ∧ t.mbx.bells = s.mbx.bells ∧ t.mbx.mem = s.mbx.mem) ∧
     (busyResp .fabric node.val (byteNats msg)).status = 1 ∧ (busyResp .fabric node.val (byteNats msg)).node = node.val) ∧
  ((∀ (s : State) (bs : List Nat) (k : BitVec 256), s.mbx.key = some k →
     tagOf s bs = (hmacSha256 (le 32 k.toNat) bs).take 16) ∧
   (∀ (dip : Word32) (dport : Nat) (ip : Word32) (port : Nat) (msg : List Byte) (tag : BitVec 128) (s : State),
     s.ctl.fwRunning = false ∨ dip ≠ s.mbx.ipv4 ∨ dport ≠ s.mbx.udpPort →
     exec (.mgmtDatagram ⟨dip, dport⟩ ⟨ip, port⟩ msg tag) s = .next s) ∧
   ∀ (ip : Word32) (port : Nat) (msg : List Byte) (tag : BitVec 128) (s : State), s.ctl.fwRunning = true →
     let c : Instr := .mgmtDatagram ⟨s.mbx.ipv4, s.mbx.udpPort⟩ ⟨ip, port⟩ msg tag
     let bs := byteNats msg
     ((s.mbx.key = none ∨ bs.length ≠ 32 + hdrField bs 0x0C 2 ∨ le 16 tag.toNat ≠ tagOf s bs) →
       exec c s = .next { s with mbx := { s.mbx with discards := s.mbx.discards + 1 } }) ∧
     (s.mbx.key ≠ none → bs.length = 32 + hdrField bs 0x0C 2 → le 16 tag.toNat = tagOf s bs →
       (∀ n, (∀ x ∈ s.mbx.sources, x.ip = ip ∧ x.port = port → x.lastSeq < hdrField bs 4 4) →
         freeSlot s = some n →
         ∃ t, exec c s = .next t ∧ (slotOf t n).owner = some .management ∧
           (slotOf t n).state = 2 ∧ t.mbx.bells = queueBell (n, .management, s.tim.now) s.mbx.bells ∧
           { slot := n, gen := (slotOf t n).gen, ip := ip, port := port } ∈ t.mbx.mgmtSlots ∧
           { ip := ip, port := port, lastSeq := hdrField bs 4 4, resp := none } ∈ t.mbx.sources) ∧
       ((∀ x ∈ s.mbx.sources, x.ip = ip ∧ x.port = port → x.lastSeq < hdrField bs 4 4) →
         freeSlot s = none →
         exec c s = .next (sendResponse ip port (busyResp .management 0 bs) s)) ∧
       (∀ x, (s.mbx.sources.find? fun x => decide (x.ip = ip ∧ x.port = port)) = some x →
         (∀ r, x.lastSeq = hdrField bs 4 4 → x.resp = some r →
           exec c s = .next { s with mbx := { s.mbx with
             datagrams := s.mbx.datagrams ++ [.response ip port r (tagOf s (respBytes r))] } }) ∧
         (hdrField bs 4 4 < x.lastSeq →
           exec c s = .next { s with mbx := { s.mbx with discards := s.mbx.discards + 1 } }))))

/-! ### The DEV opcodes (R3, R25, R36, R39, R122, R130, R133 to R136) -/

/-- DEV.INFO and DEV.CAPACITY report identity, modes, revisions, units, ledger units and the memory and fabric bookings;
DEV.LEDGER reports the period's records and starts the reported counts of throttled periods again. R133, R333, R334:
DEV.ALLOC places a buffer, rounded up to 2 MiB, at or above 1 GiB, aligned to 64 MiB where it is that large, below
the spare and apart from every other buffer; it answers ST_NO_CAPACITY with check 3 only when no such place is left.
DEV.FREE releases the buffer it names. -/
def Obligations.DevReportsAndBuffers : Prop :=
  ((∀ r s, accepted sDevInfo r s → exec (.devInfo r) s = .next (okAnswer sDevInfo r
     [tlv 0x0101 8 s.fuses.uid, tlv 0x0102 1 s.fuses.orderCode, tlv 0x0103 2 s.fuses.stepping,
      tlv 0x0104 4 s.hif.fwVersion, tlv 0x0105 2 s.hif.detClass, tlv 0x0106 2 2, tlv 0x0107 2 3,
      tlv 0x0108 2 (if s.fab.valid then s.fab.node else 0xFFFF), tlv 0x0109 1 (modeCode s.modes.mode)] s)) ∧
   (∀ r s, accepted sDevCapacity r s → exec (.devCapacity r) s = .next (okAnswer sDevCapacity r
     [tlv 0x0110 4 (luTotal s), tlv 0x0111 4 (luLimit s), tlv 0x0112 4 (luBooked s), tlvB 0x0113 (unitBytes s),
      tlv 0x0114 8 (memBookable s), tlv 0x0115 8 (memBooked s), tlvB 0x0116 (eightWords (fabBookable s)),
      tlvB 0x0117 (eightWords (fabBooked s))] s)) ∧
   (∀ r s, accepted sDevLedger r s → tlvD r 0x0120 0 ≤ 259 → 1 ≤ tlvD r 0x0121 0 → tlvD r 0x0121 0 ≤ 64 →
     ∃ t recs, exec (.devLedger r) s =
         .next (okAnswer sDevLedger r (tlv 0x0123 8 s.ledger.lastPeriodStart :: recs) t) ∧
       recs.length = min (tlvD r 0x0121 0) (260 - tlvD r 0x0120 0) ∧
       (∀ a, tabGet LedgerRec.zero t.ledger.recs a =
         (if tlvD r 0x0120 0 ≤ a ∧ a < tlvD r 0x0120 0 + tlvD r 0x0121 0 ∧ a ≤ 259 then
           { tabGet LedgerRec.zero s.ledger.recs a with throttled := 0 }
         else tabGet LedgerRec.zero s.ledger.recs a)) ∧
       { t with ledger := { t.ledger with recs := s.ledger.recs } } = s) ∧
   ∀ r s, accepted sDevLedger r s → 259 < tlvD r 0x0120 0 →
     exec (.devLedger r) s = .next (refusal sDevLedger r 5 0x0120 s)) ∧
  ((∀ r s, accepted sDevAlloc r s →
     let size := roundUp (tlvD r 0x0130 0) 0x200000
     let al := if 0x4000000 ≤ size then 0x4000000 else 0x200000
     let good (a : Nat) : Prop := 0x40000000 ≤ a ∧ a % al = 0 ∧ a + size ≤ poolEnd s ∧
       ∀ e ∈ s.mem.bufs, a + size ≤ e.2.addr ∨ e.2.addr + e.2.size ≤ a
     (∃ a, good a ∧ exec (.devAlloc r) s = .next (okAnswer sDevAlloc r
         [tlv 0x0131 4 s.mem.nextBuf, tlv 0x0132 8 a]
         { s with mem := { s.mem with bufs := tabSet s.mem.bufs s.mem.nextBuf { addr := a, size := size },
                                      nextBuf := s.mem.nextBuf + 1 } })) ∨
     ((∀ a, ¬ good a) ∧ exec (.devAlloc r) s = .next (refusal sDevAlloc r 6 3 s))) ∧
   (∀ r s b, accepted sDevFree r s → tabGet? s.mem.bufs (tlvD r 0x0131 0) = some b →
     exec (.devFree r) s = .next (okAnswer sDevFree r []
       { s with mem := { s.mem with bufs := tabErase s.mem.bufs (tlvD r 0x0131 0) } })) ∧
   ∀ r s, accepted sDevFree r s → tabGet? s.mem.bufs (tlvD r 0x0131 0) = none →
     exec (.devFree r) s = .next (refusal sDevFree r 5 0x0131 s))

/-- R134, R97, R98: DEV.RESTART is answered, its response delivered, and then starts a hitless control restart of cause
5, which leaves the channels, their egress queues, DRAM and the mode alone. R134, R549: DEV.RESET delivers its
answer and then resets the device into BOOT: channels, slots, claims and firmware are gone and the boot ROM stands
at STAGE 2; DRAM, retirements, fuses, the restart count and the node address stay. -/
def Obligations.DevRestartAndReset : Prop :=
  ((∀ (r : Req) (n : Fin 32) (s : State), accepted sDevRestart r s → memWf s.mbx.mem = true →
     s.modes.mode ≠ .boot → s.ctl.restart.lockstepPerm = false → r.slot = some n → respFor s n = none →
     (slotOf s n.val).gen = (slotOf s n.val).bellGen →
     ∃ t, exec (.devRestart r) s = .next t ∧ t.mbx.resps = s.mbx.resps ∧
       ∀ k, (h : k < (natBytes (respBytes (respOf 0x0107 r 0 0 (ignoredTlv sDevRestart r) false s))).length) →
         memRead t.mbx.mem (n.val * 4096 + k) =
           (natBytes (respBytes (respOf 0x0107 r 0 0 (ignoredTlv sDevRestart r) false s)))[k]) ∧
   ∀ r s, accepted sDevRestart r s → s.modes.mode ≠ .boot → s.ctl.restart.active = false →
     s.ctl.restart.lockstepPerm = false → s.flt.testPorts = [] → r.slot = none →
     ∃ t, exec (.devRestart r) s = .next t ∧
       t.mbx.resps = s.mbx.resps ++ [respOf 0x0107 r 0 0 (ignoredTlv sDevRestart r) false s] ∧
       t.ctl.restart.active = true ∧ t.ctl.restart.cause = 5 ∧ t.ctl.restart.startedAt = nowNs s ∧
       t.ctl.restart.restarts = min 255 (s.ctl.restart.restarts + 1) ∧
       t.ctl.boot.stage = 7 ∧ t.ctl.fwRunning = false ∧ t.ctl.remap = false ∧ t.ctl.wdogArmed = false ∧
       t.chans = s.chans ∧ t.tmg = s.tmg ∧ t.pipes = s.pipes ∧ t.modes = s.modes ∧ t.prt = s.prt ∧
       t.mem.dram = s.mem.dram ∧ t.tim = s.tim ∧ t.evt = s.evt) ∧
  ((∀ r s, accepted sDevReset r s → s.ctl.restart.permPending = none →
     ∃ t, exec (.devReset r) s = .next t ∧ t.modes.mode = .boot ∧ t.chans = [] ∧ t.mbx.slots = [] ∧
       t.mbx.bells = [] ∧ t.evt.fifo = [] ∧ t.evt.nextSeq = 0 ∧ t.ctl.fwRunning = false ∧ t.tim.now = 0 ∧
       t.mem.dram = s.mem.dram ∧ t.flt.retired = s.flt.retired ∧ t.fuses = s.fuses ∧ t.fab.node = s.fab.node ∧
       t.fab.valid = s.fab.valid ∧ t.ctl.restart.restarts = s.ctl.restart.restarts ∧
       mismatch1h t = 0 ∧ t.ctl.boot.stage = 2 ∧ t.ctl.restart.lockstepPerm = s.ctl.restart.lockstepPerm ∧ t.pwr = s.pwr) ∧
   ∀ (r : Req) (n : Fin 32) (s : State), accepted sDevReset r s → memWf s.mbx.mem = true →
     r.slot = some n → respFor s n = none → (slotOf s n.val).gen = (slotOf s n.val).bellGen →
     ∃ t, exec (.devReset r) s = .next t ∧
       ∀ k, (h : k < (natBytes (respBytes (respOf 0x0108 r 0 0 (ignoredTlv sDevReset r) false s))).length) →
         memRead t.mbx.mem (n.val * 4096 + k) =
           (natBytes (respBytes (respOf 0x0108 r 0 0 (ignoredTlv sDevReset r) false s)))[k])

/-- R122, R123, R130, R135: DEV.MGMT sets what it carries and keeps the rest, a new key clears the sources' records, and
an EVT_DEST of zeros removes the destination. R136: DEV.GPIO acts only on the bits of MASK, answers the levels, and
may not make an output of a ball that KEY_GPI or a waiting AUD.START names. -/
def Obligations.DevMgmtAndGpioSetMaskedFields : Prop :=
  (∀ r s, accepted sDevMgmt r s → fieldAt (tlvD r 0x0144 0) 6 2 = 0 →
    ∃ t, exec (.devMgmt r) s = .next (okAnswer sDevMgmt r [] t) ∧
      t.mbx.ipv4 = (match getTlv r 0x0140 with | some v => BitVec.ofNat 32 v | none => s.mbx.ipv4) ∧
      t.mbx.netmask = (match getTlv r 0x0141 with | some v => BitVec.ofNat 32 v | none => s.mbx.netmask) ∧
      t.mbx.udpPort = (getTlv r 0x0142).getD s.mbx.udpPort ∧
      t.mbx.key = (match getTlv r 0x0143 with | some v => some (BitVec.ofNat 256 v) | none => s.mbx.key) ∧
      t.mbx.sources = (if (getTlv r 0x0143).isSome then [] else s.mbx.sources) ∧
      (getTlv r 0x0144 = none → t.mbx.evtDest = s.mbx.evtDest) ∧
      (getTlv r 0x0144 = some 0 → t.mbx.evtDest = none) ∧
      (∀ v, getTlv r 0x0144 = some v → v ≠ 0 →
        t.mbx.evtDest = some (BitVec.ofNat 32 (fieldAt v 0 4), fieldAt v 4 2)) ∧
      { t with mbx := { t.mbx with ipv4 := s.mbx.ipv4, netmask := s.mbx.netmask, udpPort := s.mbx.udpPort,
                                   key := s.mbx.key, evtDest := s.mbx.evtDest, sources := s.mbx.sources } } = s) ∧
  (∀ r s, accepted sDevMgmt r s → fieldAt (tlvD r 0x0144 0) 6 2 ≠ 0 →
    exec (.devMgmt r) s = .next (refusal sDevMgmt r 5 0x0144 s)) ∧
  ∀ r s, accepted sDevGpio r s →
    let m : Word32 := BitVec.ofNat 32 (tlvD r 0x0162 0)
    let d : Word32 := BitVec.ofNat 32 (tlvD r 0x0160 0)
    let o : Word32 := BitVec.ofNat 32 (tlvD r 0x0161 0)
    ((∀ k, k < 32 → m.getLsbD k = true → d.getLsbD k = true → gpioNamed s k = false) →
      ∃ t, exec (.devGpio r) s = .next (okAnswer sDevGpio r [tlv 0x0163 4 (gpioLevel s.gpio).toNat] t) ∧
        (∀ k, t.gpio.dir.getLsbD k = (if m.getLsbD k then d.getLsbD k else s.gpio.dir.getLsbD k)) ∧
        (∀ k, t.gpio.out.getLsbD k = (if m.getLsbD k then o.getLsbD k else s.gpio.out.getLsbD k)) ∧
        { t with gpio := { t.gpio with dir := s.gpio.dir, out := s.gpio.out } } = s) ∧
    (∀ k, k < 32 → m.getLsbD k = true → d.getLsbD k = true → gpioNamed s k = true →
      exec (.devGpio r) s = .next (refusal sDevGpio r 5 0x0160 s))

/-! ### Modes, ports and draining (R46 to R56) -/

/-- R49, R50: which DEV.MODE requests are taken and which are refused. A transition that takes time puts the device in
its target at once; a request during one is ST_BUSY; one that names the present mode changes nothing. R50, R51: a
transition completes with EV_MODE, which names the old and the new mode; that of a boot waits for the retirements
due, and that out of DORMANT for the ports that the device took there to relock. R56: at the drain limit every
channel in STARTING, RUNNING or STOPPING is stopped with the abort flag. -/
def Obligations.ModeTransitions : Prop :=
  (∀ r s, accepted sDevMode r s → tlvD r 0x0109 0 ≤ 5 →
     (tlvD r 0x0109 0 = 5 → 1 ≤ tlvD r 0x010A 0 ∧ tlvD r 0x010A 0 ≤ 3 ∧ 1 ≤ tlvD r 0x010B 10 ∧
       tlvD r 0x010B 10 ≤ 600) →
     let cur := s.modes.mode
     let want := modeOf (tlvD r 0x0109 0)
     let enters : Prop := ∃ t, exec (.devMode r) s = .next (okAnswer sDevMode r [] t) ∧
       t.modes.mode = want ∧ t.modes.old = cur ∧ t.modes.incomplete = true ∧ t.chans = s.chans
     let wrong : Prop := exec (.devMode r) s = .next (refusal sDevMode r 2 (modeCode cur * 256 + 0xFF) s)
     (s.modes.incomplete = true → exec (.devMode r) s = .next (refusal sDevMode r 1 0 s)) ∧
     (s.modes.incomplete = false →
       (want = cur → exec (.devMode r) s = .next (okAnswer sDevMode r [] s)) ∧
       (cur = .ready → want = .dormant → allSettled s = true → enters) ∧
       (cur = .ready → want = .dormant → allSettled s = false → wrong) ∧
       (cur = .dormant → want = .ready → enters) ∧
       (cur = .ready → want = .service → (∀ h, h < 64 → (chan s h).state = .idle) → enters) ∧
       (cur = .ready → want = .service → (∃ h, h < 64 ∧ (chan s h).state ≠ .idle) → wrong) ∧
       (cur = .service → want = .ready → enters) ∧
       (cur = .ready ∨ cur = .operate → want = .drain →
         ∃ t, exec (.devMode r) s = .next (okAnswer sDevMode r [] t) ∧
           t.modes.target = modeOf (tlvD r 0x010A 0) ∧
           t.modes.drainEnds = nowNs s + tlvD r 0x010B 10 * 1000000000 ∧
           (t.modes.mode = .drain ∨ (t.modes.mode = t.modes.target ∧ t.modes.incomplete = true)) ∧
           (allSettled s = true → t.modes.mode = t.modes.target)) ∧
       (want ≠ cur →
         ¬((cur = .ready ∧ (want = .dormant ∨ want = .service ∨ want = .drain)) ∨
           (cur = .operate ∧ want = .drain) ∨ (want = .ready ∧ (cur = .dormant ∨ cur = .service))) → wrong))) ∧
  ((∀ s, s.modes.incomplete = true → s.ctl.fwRunning = true → (s.modes.old ≠ .boot ∨ s.flt.due = []) →
     (s.modes.old ≠ .dormant ∨ s.modes.offByDevice = []) → s.modes.mode ≠ .drain →
     ∃ t, exec .modeTransitionComplete s = .next t ∧ t.modes.incomplete = false ∧
       (s.modes.goal = .ready → s.evt.fifo = [] → ∃ e ∈ t.evt.fifo, e.code = evMode ∧ e.channel = 0xFFFF ∧
         e.time = nowNs s ∧ e.data = modeCode s.modes.old :: 3 :: List.replicate 14 0)) ∧
   (∀ s, s.modes.incomplete = false → exec .modeTransitionComplete s = .next s) ∧
   (∀ s, s.modes.mode = .drain → s.ctl.fwRunning = true → s.modes.drainEnds ≤ nowNs s →
     ∃ t, exec .drainLimitExpiry s = .next t ∧
       ∀ h, h < 64 →
         ((chan s h).state = .starting ∨ (chan s h).state = .running ∨ (chan s h).state = .stopping →
           (chan t h).state = .configured ∨ (chan t h).state = .idle) ∧
         ((chan s h).state = .migrating → (chan t h).state = .migrating)) ∧
   ∀ s, nowNs s < s.modes.drainEnds → exec .drainLimitExpiry s = .next s)

/-- R52 to R54: DEV.PORT places a media or SDI port that carries no channel in port-off, or starts to bring it out; the
ports that leave relock one at a time in order, each is in service when its turn ends, and a fabric port starts its
bring-up when its turn begins. -/
def Obligations.DevPortOffAndRelock : Prop :=
  (∀ r s, accepted sDevPort r s → (tlvD r 0x0152 0 = 1 ∨ 2 < tlvD r 0x0152 0 ∨ tlvD r 0x0150 0 = 0 ∨
      2 < tlvD r 0x0150 0) →
    exec (.devPort r) s = .next (refusal sDevPort r 5 0x0150 s)) ∧
  (∀ r s, accepted sDevPort r s → ¬(tlvD r 0x0152 0 = 1 ∨ 2 < tlvD r 0x0152 0 ∨ tlvD r 0x0150 0 = 0 ∨
      2 < tlvD r 0x0150 0) → (if tlvD r 0x0150 0 = 1 then 2 else 8) ≤ tlvD r 0x0151 0 →
    exec (.devPort r) s = .next (refusal sDevPort r 5 0x0151 s)) ∧
  (∀ r s, accepted sDevPort r s → tlvD r 0x0152 0 = 2 → tlvD r 0x0150 0 = 1 ∨ tlvD r 0x0150 0 = 2 →
    tlvD r 0x0151 0 < (if tlvD r 0x0150 0 = 1 then 2 else 8) →
    let p := portOf (tlvD r 0x0150 0) (tlvD r 0x0151 0)
    (portCarries s p = true →
      exec (.devPort r) s = .next (refusal sDevPort r 2 (modeCode s.modes.mode * 256 + 0xFF) s)) ∧
    (portCarries s p = false →
      ∃ t, exec (.devPort r) s = .next (okAnswer sDevPort r [] t) ∧ p ∈ t.modes.portsOff ∧
        p ∉ t.modes.offByDevice ∧ p ∉ t.modes.relocking ∧
        (∀ q, q ≠ p → (q ∈ t.modes.portsOff ↔ q ∈ s.modes.portsOff)))) ∧
  (∀ r s, accepted sDevPort r s → tlvD r 0x0152 0 = 0 → tlvD r 0x0150 0 = 1 ∨ tlvD r 0x0150 0 = 2 →
    tlvD r 0x0151 0 < (if tlvD r 0x0150 0 = 1 then 2 else 8) →
    ∃ t, exec (.devPort r) s = .next (okAnswer sDevPort r [] t) ∧ t.modes.portsOff = s.modes.portsOff ∧
      (portOf (tlvD r 0x0150 0) (tlvD r 0x0151 0) ∈ s.modes.portsOff →
        portOf (tlvD r 0x0150 0) (tlvD r 0x0151 0) ∈ t.modes.relocking)) ∧
  ∀ (p : PortRef) (qs : List PortRef) (s : State), s.modes.relocking = p :: qs →
    (∃ t, exec (.portRelock p) s = .next t ∧ t.modes.relocking = qs.filter (fun q => decide (q ≠ p)) ∧
      p ∉ t.modes.portsOff ∧ p ∉ t.modes.offByDevice ∧ t.modes.mode = s.modes.mode ∧ t.chans = s.chans ∧
      ∀ n rest, t.modes.relocking = .fab n :: rest → (fport t n.val).hostOff = false ∧
        ((fport s n.val).hostOff = true → (fport t n.val).state = 1)) ∧
    ∀ q, q ≠ p → exec (.portRelock q) s = .next s

/-! ### The channel lifecycle (R27, R57 to R72) -/

/-- R27, R58, R62, R285, R403: which CHAN.CONFIGURE is admitted, where no earlier admission waits. One that passes every
check books its cost within the booking limit and makes the channel CONFIGURED; one that needs fabric bytes waits
for the fabric manager; one that fails an admission check books nothing; the states that refuse it answer
ST_STOPPING or ST_STATE. -/
def Obligations.ChanConfigureAdmits : Prop :=
  ∀ r s, accepted sChanConfigure r s → mustHold r s = false → s.mbx.heldAdmits = [] →
    ((chan s r.channel).state = .stopping →
      exec (.chanConfigure r) s = .next (refusal sChanConfigure r 3 0 s)) ∧
    ((chan s r.channel).state = .starting ∨ (chan s r.channel).state = .running ∨
        (chan s r.channel).state = .migrating →
      exec (.chanConfigure r) s = .next (refusal sChanConfigure r 2
        (modeCode s.modes.mode * 256 + stateCode (chan s r.channel).state) s)) ∧
    ((chan s r.channel).state = .idle ∨ (chan s r.channel).state = .configured ∨
        (chan s r.channel).state = .faulted →
      chanValueBad r (cfgOf r s) = none → chanCfgBad r (cfgOf r s) s = none →
      (∀ new, admitChan s r.channel (cfgOf r s) (pixFor s r.channel (cfgOf r s)) = .yes new → new.fabBudget = 0 →
        ∃ t, exec (.chanConfigure r) s = .next (okAnswer sChanConfigure r
            [tlv 0x0218 4 new.cost, tlv 0x0219 1 (pipeMap new.runs),
             tlv 0x029F 8 (minDelay (cfgOf r s) (tabGet? s.inputs (cfgOf r s).input))] t) ∧
          (chan t r.channel).state = .configured ∧ (chan t r.channel).cfg = some (cfgOf r s) ∧
          (chan t r.channel).cost = chanCost (cfgOf r s) (chanFormat s (cfgOf r s)) ∧
          luBooked t = luBookedBut s r.channel + (chan t r.channel).cost ∧ luBooked t ≤ luLimit s ∧
          (∀ k, k ≠ r.channel → chan t k = chan s k)) ∧
      (∀ new, admitChan s r.channel (cfgOf r s) (pixFor s r.channel (cfgOf r s)) = .yes new → 0 < new.fabBudget →
        (s.fab.office = none → exec (.chanConfigure r) s = .next (refusal sChanConfigure r 6 4 s)) ∧
        ∀ o, s.fab.office = some o → ∃ t, exec (.chanConfigure r) s = .next t ∧ t.mbx.resps = s.mbx.resps ∧
          t.fab.wantBooking = some (heldOf 0x0201 r s) ∧ t.chans = s.chans) ∧
      ∀ d, admitChan s r.channel (cfgOf r s) (pixFor s r.channel (cfgOf r s)) = .no d →
        exec (.chanConfigure r) s = .next (answer 0x0201 r 6 d
          (tlv 0x029F 8 (minDelay (cfgOf r s) (tabGet? s.inputs (cfgOf r s).input)) ::
            ignoredTlv sChanConfigure r) false s))

/-- R61, R62, R49: CHAN.START takes a CONFIGURED channel to STARTING from the null checkpoint, at the time it names or
at its acceptance, and READY becomes OPERATE; an earlier time, a port in port-off and every other state refuse it.
R62, R64, R65: CHAN.STOP with the abort flag discards the channel's packets and ends in CONFIGURED with
EV_CHAN_STOPPED; without it the channel stops at its stop picture, and later pictures and their packets are gone. In
STOPPING it has no new effect; elsewhere it is refused. -/
def Obligations.ChanStartAndStop : Prop :=
  (∀ r s, accepted sChanStart r s →
     let h := r.channel
     let wrong : Prop := exec (.chanStart r) s = .next (refusal sChanStart r 2
       (modeCode s.modes.mode * 256 + stateCode (chan s h).state) s)
     ((chan s h).state = .stopping → exec (.chanStart r) s = .next (refusal sChanStart r 3 0 s)) ∧
     ((chan s h).state ≠ .configured → (chan s h).state ≠ .stopping → wrong) ∧
     ∀ f, (chan s h).state = .configured → (chan s h).cfg = some f →
       (anyOff s (chanPorts s f) = true → wrong) ∧
       (anyOff s (chanPorts s f) = false → tlvD r 0x0220 (acceptedAt r s) < acceptedAt r s →
         exec (.chanStart r) s = .next (refusal sChanStart r 5 0x0220 s)) ∧
       (anyOff s (chanPorts s f) = false → acceptedAt r s ≤ tlvD r 0x0220 (acceptedAt r s) →
         ∃ t, exec (.chanStart r) s = .next (okAnswer sChanStart r [] t) ∧
           (chan t h).state = .starting ∧ (chan t h).startTime = tlvD r 0x0220 (acceptedAt r s) ∧
           (chan t h).cfg = some f ∧ (chan t h).begun = [] ∧ (chan t h).firstPic = none ∧
           (chan t h).codingNo = 0 ∧ (chan t h).cost = (chan s h).cost ∧
           (chan t h).bufT.fill = f.cpbBits * picNum f ∧
           (∀ k, k ≠ h → chan t k = chan s k) ∧
           (s.modes.mode = .ready → t.modes.mode = .operate))) ∧
  (∀ r s, accepted sChanStop r s → tlvD r 0x0222 0 ≤ 1 →
     let h := r.channel
     ((chan s h).state = .stopping → exec (.chanStop r) s = .next (okAnswer sChanStop r [] s)) ∧
     ((chan s h).state = .idle ∨ (chan s h).state = .configured ∨ (chan s h).state = .faulted ∨
         (chan s h).state = .migrating →
       exec (.chanStop r) s = .next (refusal sChanStop r 2
         (modeCode s.modes.mode * 256 + stateCode (chan s h).state) s)) ∧
     ((chan s h).state = .starting ∨ (chan s h).state = .running → tlvD r 0x0222 0 = 1 →
       ∃ t, exec (.chanStop r) s = .next (okAnswer sChanStop r [] t) ∧
         ((chan t h).state = .configured ∨ (s.modes.mode = .drain ∧ (chan t h).state = .idle)) ∧
         (∀ e ∈ t.tmg.queues, ∀ k ∈ e.2.entries, k.chan ≠ h) ∧
         (∀ f, (chan s h).cfg = some f → s.evt.fifo = [] →
           ∃ e ∈ t.evt.fifo, e.code = evChanStopped ∧ e.channel = h ∧
             e.data = eventData (u32 (if f.role = .shadow then 0
               else (chan s h).unlaunched + (chan s h).begun.length)))) ∧
     ((chan s h).state = .starting ∨ (chan s h).state = .running → tlvD r 0x0222 0 = 0 →
       ∃ t, exec (.chanStop r) s = .next (okAnswer sChanStop r [] t) ∧
         ((chan t h).state = .stopping ∨ (chan t h).state = .configured ∨
           (s.modes.mode = .drain ∧ (chan t h).state = .idle)) ∧
         (∀ e ∈ t.tmg.queues, ∀ k ∈ e.2.entries, k.chan = h →
           ∃ p, stopPick (chan s h) (getTlv r 0x0221) = some p ∧ k.capture / 65536 ≤ p)))

/-- R68 to R70, R125, R299: CHAN.MODIFY carries one setting, one at a time; the shed rank is taken at once, another
setting waits for an effective picture that is far enough ahead, and an active forwards it to its shadow and answers
later, within 100 ms. R58, R62, R259, R260: CHAN.CLEAR takes CONFIGURED and FAULTED to IDLE and releases the
booking; CHAN.STATUS reports; CHAN.KEY requests a key picture on an encoding channel in RUNNING only. -/
def Obligations.ChanModifyAndSmallCommands : Prop :=
  (∀ r s f, accepted sChanModify r s → (chan s r.channel).cfg = some f →
     let h := r.channel
     let c := chan s h
     let tags := (r.tlvs.map fun t => baseTag t.tag).filter fun t => settingTags.contains t
     (c.state = .stopping → exec (.chanModify r) s = .next (refusal sChanModify r 3 0 s)) ∧
     (c.state ≠ .stopping → c.state ≠ .running → exec (.chanModify r) s =
       .next (refusal sChanModify r 2 (modeCode s.modes.mode * 256 + stateCode c.state) s)) ∧
     (c.state = .running →
       (∀ a b l, tags = a :: b :: l → exec (.chanModify r) s = .next (refusal sChanModify r 5 b s)) ∧
       (tags = [0x0216] → c.pending = none → hasTlv r 0x0224 = false →
         ∃ t, exec (.chanModify r) s = .next (okAnswer sChanModify r [] t) ∧
           chan t h = { c with shedRank := tlvD r 0x0216 0 } ∧ (∀ k, k ≠ h → chan t k = chan s k)) ∧
       (∀ tag, tags = [tag] → c.pending.isSome = true →
         exec (.chanModify r) s = .next (refusal sChanModify r 1 0 s)) ∧
       ∀ tag, tags = [tag] → tag ≠ 0x0216 →
         ∀ e, c.pending = none → getTlv r 0x0224 = some e →
           (settingBad s c f tag (tlvD r tag 0) = true →
             exec (.chanModify r) s = .next (refusal sChanModify r 5 tag s)) ∧
           (settingBad s c f tag (tlvD r tag 0) = false →
             (∀ l, c.lastBegun = some l → e < (l + 2 * periodT f) / 65536 →
               exec (.chanModify r) s = .next (refusal sChanModify r 5 0x0224 s)) ∧
             (effectiveBad c f e = false → activeGroup s h = none →
               ∃ t, exec (.chanModify r) s = .next (okAnswer sChanModify r [] t) ∧
                 chan t h = { c with pending := some { index := tag % 256, value := tlvD r tag 0,
                                                       effective := e, acked := true } } ∧
                 (∀ k, k ≠ h → chan t k = chan s k)) ∧
             (∀ g, effectiveBad c f e = false → activeGroup s h = some g →
               ∃ t, exec (.chanModify r) s = .next t ∧ t.mbx.resps = s.mbx.resps ∧
                 chan t h = { c with pending := some { index := tag % 256, value := tlvD r tag 0,
                                                       effective := e, acked := false } } ∧
                 (∃ w ∈ t.mbx.peerWaits, w.node = g.shadow ∧ w.opcode = 0x0806 ∧ w.req = some r ∧
                   w.limit ≤ nowNs s + 100000000) ∧
                 ((tabGet? s.fab.peers g.shadow).isSome = true →
                   ∃ m, t.prt.sentMbx = s.prt.sentMbx ++ [m] ∧ m.dest = g.shadow ∧ m.opcode = 0x0806 ∧
                     m.channel = g.peerChannel))))) ∧
  ((∀ r s, accepted sChanClear r s →
     ((chan s r.channel).state = .idle → exec (.chanClear r) s = .next (okAnswer sChanClear r [] s)) ∧
     ((chan s r.channel).state = .configured ∨ (chan s r.channel).state = .faulted →
       ∃ t, exec (.chanClear r) s = .next (okAnswer sChanClear r [] t) ∧ chan t r.channel = Chan.idle ∧
         (∀ k, k ≠ r.channel → chan t k = chan s k) ∧ group? t r.channel = none) ∧
     ((chan s r.channel).state = .stopping → exec (.chanClear r) s = .next (refusal sChanClear r 3 0 s)) ∧
     ((chan s r.channel).state = .starting ∨ (chan s r.channel).state = .running ∨
         (chan s r.channel).state = .migrating → exec (.chanClear r) s = .next (refusal sChanClear r 2
           (modeCode s.modes.mode * 256 + stateCode (chan s r.channel).state) s))) ∧
   (∀ r s, accepted sChanStatus r s → exec (.chanStatus r) s = .next (okAnswer sChanStatus r
     [tlv 0x0230 1 (stateCode (chan s r.channel).state), tlv 0x0218 4 (chan s r.channel).cost,
      tlv 0x0231 8 (chan s r.channel).launched, tlv 0x0232 8 (chan s r.channel).late,
      tlv 0x0233 1 (groupStateOf s r.channel), tlv 0x029E 8 (chan s r.channel).rcFloors] s)) ∧
   ∀ r s f, accepted sChanKey r s → (chan s r.channel).cfg = some f →
     ((chan s r.channel).state ≠ .running → exec (.chanKey r) s = .next (refusal sChanKey r 2
       (modeCode s.modes.mode * 256 + stateCode (chan s r.channel).state) s)) ∧
     ((chan s r.channel).state = .running → f.role = .gateway ∨ f.role = .shadow →
       exec (.chanKey r) s = .next (refusal sChanKey r 5 0x80000008 s)) ∧
     ((chan s r.channel).state = .running → f.role = .encode ∨ f.role = .transcode →
       ∃ t, exec (.chanKey r) s = .next (okAnswer sChanKey r [] t) ∧
         chan t r.channel = { chan s r.channel with
           keyReqs := (chan s r.channel).keyReqs ++ [(acceptedAt r s, 2)] } ∧
         { t with chans := s.chans } = s))

/-- R61, R64, R556: device time reaching a capture time that a channel waits for begins a picture, which resolves the
key requests before it and a modification whose effective picture has come; a capture time that the channel does not
wait for begins none. A stopping shadow ends when its stop picture's last slot ends. -/
def Obligations.CaptureInstantBeginsPicture : Prop :=
  (∀ (h : Fin 64) (cap : Nat) (s : State), captureDue s (chan s h.val) cap = false →
    ∃ t, exec (.captureInstant h cap) s = .next t ∧ (chan t h.val).begun = (chan s h.val).begun ∧
      (chan t h.val).lastBegun = (chan s h.val).lastBegun ∧ (chan t h.val).keyReqs = (chan s h.val).keyReqs ∧
      (chan t h.val).pending = (chan s h.val).pending ∧ (chan t h.val).state = (chan s h.val).state ∧
      (∀ k, k ≠ h.val → chan t k = chan s k)) ∧
  (∀ (h : Fin 64) (cap : Nat) (f : ChanCfg) (s : State), (chan s h.val).cfg = some f →
    captureDue s (chan s h.val) cap = true →
    (chan s h.val).state = .starting ∨ (chan s h.val).state = .running → f.role ≠ .shadow →
    ∃ t, exec (.captureInstant h cap) s = .next t ∧
      (chan t h.val).lastBegun = some cap ∧
      (chan t h.val).firstPic = some ((chan s h.val).firstPic.getD cap) ∧
      (chan t h.val).begun = (chan s h.val).begun ++ [cap] ∧
      (chan t h.val).pics.map Picture.capture = (chan s h.val).pics.map Picture.capture ++ [cap] ∧
      (∀ k ∈ (chan t h.val).keyReqs, cap / 65536 ≤ k.1) ∧
      (∀ m, (chan s h.val).pending = some m → m.acked = true → m.effective ≤ cap / 65536 →
        (chan t h.val).pending = none ∧ (chan t h.val).applied = (chan s h.val).applied ++ [m]) ∧
      (∀ k, k ≠ h.val → chan t k = chan s k) ∧ t.inputs = s.inputs ∧ t.tmg = s.tmg ∧ t.outputs = s.outputs ∧
      t.modes = s.modes ∧ t.prt = s.prt ∧ t.evt = s.evt ∧ t.pipes = s.pipes) ∧
  (∀ (h : Fin 64) (f : ChanCfg) (p : Nat) (s : State), (chan s h.val).cfg = some f → f.role = .shadow →
    (chan s h.val).state = .stopping → (chan s h.val).stopPic = some p → slotEnd f (p * 65536) ≤ s.tim.now →
    ∃ t, exec (.shadowStopSlotEnd h) s = .next t ∧
      ((chan t h.val).state = .configured ∨ (s.modes.mode = .drain ∧ (chan t h.val).state = .idle)) ∧
      (∀ e ∈ t.tmg.queues, ∀ k ∈ e.2.entries, k.chan ≠ h.val)) ∧
  ∀ (h : Fin 64) (s : State), (chan s h.val).state ≠ .stopping → exec (.shadowStopSlotEnd h) s = .next s

/-! ### Inputs (R173 to R203, R426, R428) -/

/-- R173, R175, R180, R187, R188: an IN.CONFIGURE whose values pass the checks sets up the input afresh with the flows,
format and ring it names and no policers; more than 32 flows or a flow already configured is refused with 0x0305,
and a running channel's input with ST_STATE. IN.CLEAR removes an input with its policers. R196, R193, R198, R428:
IN.STATUS reports LOCKED (0 absent, 1 present and unlocked, 2 locked), the repeats and drops, the newest capture
time and the policers; IN.POLICE sets the policer of a configured flow with full buckets, from the cycle after its
acceptance (R426). -/
def Obligations.InputsAreSetAndReported : Prop :=
  ((∀ r s, accepted sInConfigure r s → inputsOk s → tlvD r 0x0301 0 ≤ 127 → inputBusy s (tlvD r 0x0301 0) = none →
     let i := tlvD r 0x0301 0
     let x := inputFrom r
     x.kind ≤ 6 → linkBad x.kind x.link = false → sdiPortsBad s i x.kind x.link x.sdiPorts = false →
     (flowsBad s i x = true → exec (.inConfigure r) s = .next (refusal sInConfigure r 5 0x0305 s)) ∧
     (32 < x.flows.length → exec (.inConfigure r) s = .next (refusal sInConfigure r 5 0x0305 s)) ∧
     (flowsBad s i x = false → (hasTlv r 0x0306 = true ↔ x.kind ≤ 2) →
       (x.kind ≤ 2 → formatBad x.kind (tlvD r 0x0306 0) = false) →
       (x.kind ≤ 1 → ((if x.kind = 1 then [x.link] else if x.link = 0 then [1, 2, 3, 4, 5] else [x.link]).any
         fun l => linkTakes l (formatOf (tlvD r 0x0306 0))) = true) →
       1 ≤ x.ringFrames → x.ringFrames ≤ 16 → x.sync ≤ 3 → x.anc ≤ 15 →
       x.audioFlows.any (audioFlowBad x.flows) = false →
       (x.audioFlows.map fun v => fieldAt v 0 1).eraseDups.length = (x.flows.filter fun f => f.role = 2).length →
       x.audioFlows.length = (x.flows.filter fun f => f.role = 2).length →
       ∃ t y, exec (.inConfigure r) s = .next (okAnswer sInConfigure r [] t) ∧ inputOf t i = some y ∧
         y.kind = x.kind ∧ y.sdiPorts = x.sdiPorts ∧ y.link = x.link ∧ y.flows = x.flows ∧ y.format = x.format ∧
         y.ringFrames = x.ringFrames ∧ y.sync = x.sync ∧ y.audioFlows = x.audioFlows ∧ y.locked = false ∧
         (2 ≤ x.kind → y.present = false) ∧ (∀ e ∈ t.policers, e.1 / 32 ≠ i) ∧ t.chans = s.chans)) ∧
   (∀ r s h, accepted sInConfigure r s → tlvD r 0x0301 0 ≤ 127 → inputBusy s (tlvD r 0x0301 0) = some h →
     exec (.inConfigure r) s = .next (refusal sInConfigure r 2
       (modeCode s.modes.mode * 256 + stateCode (chan s h).state) s)) ∧
   (∀ r s x, accepted sInClear r s → inputOf s (tlvD r 0x0301 0) = some x → inputBusy s (tlvD r 0x0301 0) = none →
     ∃ t, exec (.inClear r) s = .next (okAnswer sInClear r [] t) ∧ inputOf t (tlvD r 0x0301 0) = none ∧
       (∀ k, k ≠ tlvD r 0x0301 0 → inputOf t k = inputOf s k) ∧ (∀ e ∈ t.policers, e.1 / 32 ≠ tlvD r 0x0301 0) ∧
       { t with inputs := s.inputs, policers := s.policers } = s) ∧
   ∀ r s, accepted sInClear r s → inputOf s (tlvD r 0x0301 0) = none →
     exec (.inClear r) s = .next (refusal sInClear r 5 0x0301 s)) ∧
  ((∀ r s x, accepted sInStatus r s → inputOf s (tlvD r 0x0301 0) = some x →
     exec (.inStatus r) s = .next (okAnswer sInStatus r
       ([tlv 0x0310 1 (if x.present = false then 0 else if x.locked = false then 1 else 2),
         tlv 0x0311 8 x.repeats, tlv 0x0312 8 x.drops, tlv 0x0313 8 (x.lastCapture / 65536)] ++
        (s.policers.filter fun e => e.1 / 32 = tlvD r 0x0301 0 && decide (e.2.mode ≠ 0)).map policeStat) s)) ∧
   (∀ r s, accepted sInStatus r s → inputOf s (tlvD r 0x0301 0) = none →
     exec (.inStatus r) s = .next (refusal sInStatus r 5 0x0301 s)) ∧
   (∀ r s f, accepted sInPolice r s → (tlvD r 0x0320 0, f) ∈ allFlows s →
     policerBad (tlvD r 0x0321 0) 1500 = false →
     ∃ t q, exec (.inPolice r) s = .next (okAnswer sInPolice r [] t) ∧
       tabGet? t.policers (tlvD r 0x0320 0) = some q ∧ q.mode = fieldAt (tlvD r 0x0321 0) 0 1 ∧
       q.tokC = q.cbs * 8000000000 ∧ q.tokE = q.ebs * 8000000000 ∧ q.green = 0 ∧ q.yellow = 0 ∧ q.red = 0 ∧
       policerNow t (tlvD r 0x0320 0) = policerNow s (tlvD r 0x0320 0) ∧
       (∀ m : Tim, m.now ≠ s.tim.now → policerNow { t with tim := m } (tlvD r 0x0320 0) = some q) ∧
       { t with policers := s.policers, policedBefore := s.policedBefore } = s) ∧
   ∀ r s, accepted sInPolice r s → (∀ e ∈ allFlows s, e.1 ≠ tlvD r 0x0320 0) →
     exec (.inPolice r) s = .next (refusal sInPolice r 5 0x0320 s))

/-- R183 to R185, R421: module insertion sets the port's mode and takes down the interfaces that the mode lacks; a write
of MNI_IFn takes effect at once and, while EN is 1, sends a gratuitous ARP from the MAC address that the UID gives
and the membership reports of the joined groups; a link comes up only on an interface that exists. -/
def Obligations.MediaInterfacesFollowPort : Prop :=
  (∀ (p : Fin 2) (k : QsfpKind) (s : State), ∃ t, exec (.qsfpInsert p k) s = .next t ∧
    tabGet .absent t.mediaMode p.val = k ∧
    (∀ n, n < 8 → n / 4 = p.val → ifaceExists t n = false → (mniIf t n).linkUp = false) ∧
    (∀ n, n < 8 → n / 4 ≠ p.val → mniIf t n = mniIf s n) ∧ { t with mediaMode := s.mediaMode, mni := s.mni } = s) ∧
  (∀ (n : Fin 8) (m : Master) (w : Fin 4) (v : Word32) (s : State), regPath s m = true →
    ∃ t, exec (.mniIfWrite n m w v) s = .next t ∧
      (w = 0 → (mniIf t n.val).addr = v) ∧
      (w = 1 → (mniIf t n.val).en = v.getLsbD 0 ∧ (mniIf t n.val).prefix_ = v.toNat / 256 % 64 ∧
        (mniIf t n.val).vlanId = v.toNat / 65536 % 4096 ∧ (mniIf t n.val).vlanEn = v.getLsbD 28) ∧
      (w = 3 → (mniIf t n.val).gateway = v) ∧
      (mniIf t n.val).sent = (mniIf s n.val).sent ++ (if (mniIf t n.val).en then
        .arp (ifMac s n.val) (mniIf t n.val).addr none :: reportsOf s n.val ((allFlows s).map Prod.snd) else []) ∧
      (mniIf t n.val).linkUp = (mniIf s n.val).linkUp ∧ (∀ k, k ≠ n.val → mniIf t k = mniIf s k) ∧
      { t with mni := s.mni } = s) ∧
  (∀ (s : State) (n : Nat), ifMac s n = [6, s.fuses.uid / 0x1000000 % 256, s.fuses.uid / 0x10000 % 256,
    s.fuses.uid / 0x100 % 256, s.fuses.uid % 256, 0x10 + n]) ∧
  (∀ (s : State) (n : Nat) (f : Flow), f.iface = n → isMulticast f.dstIp = true → bitAt f.flags 0 = true →
    reportsOf s n [f] = [.report (ifMac s n) f.dstIp (if f.srcIp = 0 then none else some f.srcIp)]) ∧
  ∀ (n : Fin 8) (up : Bool) (s : State), ∃ t, exec (.mediaLinkChange n up) s = .next t ∧
    mniIf t n.val = { mniIf s n.val with linkUp := up && ifaceExists s n.val } ∧
    (∀ k, k ≠ n.val → mniIf t k = mniIf s k) ∧ { t with mni := s.mni } = s

/-- R181, R183, R188, R189, R426: a packet on an interface that does not receive, or without the tag that VLAN_EN asks
for, has no effect; one that matches no flow is counted; one that its policer drops reaches no input; and a video
packet that the filter matches makes its input present, whatever its policer says. -/
def Obligations.MediaPacketReachesItsFlow : Prop :=
  (∀ (p : MediaPkt) (s : State), ifaceHears s p.iface.val = false ∨ p.proto = .ptp ∨
      ((mniIf s p.iface.val).vlanEn = true ∧ p.vlan ≠ (mniIf s p.iface.val).vlanId) →
    exec (.mediaPacketRx p) s = .next s) ∧
  (∀ (p : MediaPkt) (s : State), ifaceHears s p.iface.val = true → vlanOk (mniIf s p.iface.val) p = true →
    p.proto = .other ∨ (p.proto = .rtp ∧ filterFlow s p = none) →
    ∃ t, exec (.mediaPacketRx p) s = .next t ∧
      (mniIf t p.iface.val).unmatched = (mniIf s p.iface.val).unmatched + 1 ∧ { t with mni := s.mni } = s) ∧
  (∀ (p : MediaPkt) (id : Nat) (f : Flow) (q : Policer) (s : State), ifaceHears s p.iface.val = true →
    p.proto = .rtp → vlanOk (mniIf s p.iface.val) p = true → filterFlow s p = some (id, f) →
    policerNow s id = some q → (police (nowNs s) p.frameBytes p.dscp q).1 = false →
    (f.role ≠ 0 → exec (.mediaPacketRx p) s = .next (setPolicer id (police (nowNs s) p.frameBytes p.dscp q).2 s)) ∧
    (f.role = 0 → exec (.mediaPacketRx p) s =
      .next (setPolicer id (police (nowNs s) p.frameBytes p.dscp q).2 (heardPacket (id / 32) s)))) ∧
  ∀ (p : MediaPkt) (id : Nat) (f : Flow) (x : Input) (s : State), ifaceHears s p.iface.val = true →
    p.proto = .rtp → vlanOk (mniIf s p.iface.val) p = true → filterFlow s p = some (id, f) → f.role = 0 →
    inputOf s (id / 32) = some x →
    ∃ t y, exec (.mediaPacketRx p) s = .next t ∧ inputOf t (id / 32) = some y ∧ y.present = true ∧
      y.lastPacket = nowNs s ∧ y.flows = x.flows ∧ y.kind = x.kind

/-- R181, R190, R195, R200: when the receive window has passed, every line of a network input that waited is released;
after the absence limit with no packet the input is absent and unlocked; with no picture by a grid instant plus a
period it is unlocked; and after 1 s of absence SYNC bit 1 fills black. Not due, none of them has an effect. R167,
R198, R199: at a slot's fill instant the synchroniser puts the newest picture completed by then into the slot and
counts the others as dropped; with none, a present input repeats its last picture. -/
def Obligations.InputTimersAndSynchroniser : Prop :=
  ((∀ (i : Fin 128) (x : Input) (s : State), inputOf s i.val = some x → 2 ≤ x.kind →
     ∃ t y, exec (.rxWindowExpiry i) s = .next t ∧ inputOf t i.val = some y ∧
       ∀ b ∈ y.asm, ∀ l, b.later = some l → s.tim.now < l + windowNs (some x) * 65536) ∧
   (∀ (i : Fin 128) (x : Input) (s : State), inputOf s i.val = some x → x.kind ≤ 1 →
     exec (.rxWindowExpiry i) s = .next s) ∧
   (∀ (i : Fin 128) (x : Input) (s : State), inputOf s i.val = some x → 2 ≤ x.kind → x.present = true →
     x.lastPacket + absenceLimit s i.val x ≤ nowNs s →
     ∃ t y, exec (.inputAbsenceTimeout i) s = .next t ∧ inputOf t i.val = some y ∧ y.present = false ∧
       y.locked = false ∧ y.absentAt = nowNs s ∧ y.ring = x.ring ∧ t.chans = s.chans) ∧
   (∀ (i : Fin 128) (x : Input) (s : State), inputOf s i.val = some x →
     nowNs s < x.lastPacket + absenceLimit s i.val x → exec (.inputAbsenceTimeout i) s = .next s) ∧
   (∀ (i : Fin 128) (x : Input) (n : Nat) (q : Nat × Nat) (s : State), inputOf s i.val = some x →
     x.prevGrid = some n → inputRate s i.val x = some q →
     (x.locked = true → gridTime q (n + 2) ≤ s.tim.now →
       ∃ t y, exec (.inputUnlockTimeout i) s = .next t ∧ inputOf t i.val = some y ∧ y.locked = false ∧
         y.conform = 0 ∧ y.present = x.present) ∧
     (x.locked = false ∨ s.tim.now < gridTime q (n + 2) → exec (.inputUnlockTimeout i) s = .next s)) ∧
   ∀ (i : Fin 128) (x : Input) (s : State), inputOf s i.val = some x →
     (x.present = false → bitAt x.sync 1 = true → x.absentAt + 1000000000 ≤ nowNs s →
       exec (.absentFreezeExpiry i) s = .next (setInput i.val { x with black := true } s)) ∧
     (x.present = true ∨ bitAt x.sync 1 = false ∨ nowNs s < x.absentAt + 1000000000 →
       exec (.absentFreezeExpiry i) s = .next s)) ∧
  (∀ (i : Fin 128) (x : Input) (q : Nat × Nat) (n : Nat) (s : State), inputOf s i.val = some x →
     inputRate s i.val x = some q → nextSlot q x = some n →
     let done := x.since.filter fun c => x.ring.any fun p => p.capture = c &&
       match p.completedAt with | some t => decide (t ≤ gridTime q (n + 1)) | none => false
     (x.writing = false ∨ x.syncing = false ∨ s.tim.now < gridTime q (n + 1) →
       exec (.syncSlotFill i) s = .next s) ∧
     (x.writing = true → x.syncing = true → gridTime q (n + 1) ≤ s.tim.now →
       ∃ t y, exec (.syncSlotFill i) s = .next t ∧ inputOf t i.val = some y ∧ y.lastSlot = some n ∧
         y.lastCapture = gridTime q n ∧
         (done = [] → y.slotPic = x.slotPic ∧ y.drops = x.drops ∧
           y.repeats = x.repeats + (if x.present then 1 else 0)) ∧
         (∀ c, done.getLast? = some c → y.slotPic = some c ∧ y.drops = x.drops + (done.length - 1) ∧
           y.repeats = x.repeats ∧ ∀ d ∈ done, d ∉ y.since)))

/-- R181: an SDI input is present exactly when each of its ports is locked to a signal that matches. R166, R195: a start
of active video on the lowest port of an input's group begins a picture at the nearest grid instant, and the run of
conforming pictures decides the lock. A line with a CRC error is counted. -/
def Obligations.SdiSignalAndPictures : Prop :=
  (∀ (p : Fin 8) (sig : SdiSignal) (s : State), ∃ t, exec (.sdiSignalChange p sig) s = .next t ∧
    tabGet .unlocked t.sdi p.val = sig ∧ t.chans = s.chans ∧
    ∀ i x, inputsOk s → inputOf s i = some x → x.kind ≤ 1 →
      ∃ y, inputOf t i = some y ∧ y.present = (bitList 8 x.sdiPorts).all (sdiGood t x)) ∧
  (∀ (s : State) (x : Input) (p : Nat), sdiGood s x p = true ↔
    ∃ k, sdiSignal s p = .locked k ∧ sdiReason s x p k = 0) ∧
  (∀ (p : Fin 8) (stamp i : Nat) (x : Input) (f : Format) (q : Nat × Nat) (s : State),
    ((sdiInputs s).find? fun e => bitAt e.2.sdiPorts p.val) = some (i, x) → inputOf s i = some x →
    x.format = some f → inputRate s i x = some q → x.present = true → groupBase x p.val = p.val →
    let at_ := ((stamp * 16384 : Nat) - f.refOffset * 65536 : Int).toNat
    let n := gridIndex q at_
    let conforms := (match x.prevGrid with | some m => n = m + 1 | none => False) ∧
      Sys2Proof.Machine.dist at_ (gridTime q n) ≤ (if x.kind ≥ 2 then 11200 else if x.locked then 100000 else 50000) * 65536
    ∃ t y, exec (.sdiSav p stamp) s = .next t ∧ inputOf t i = some y ∧ y.prevGrid = some n ∧
      y.newest = some (gridTime q n) ∧
      (conforms → y.conform = min 8 (x.conform + 1)) ∧ (¬ conforms → y.conform = 0 ∧ y.locked = false) ∧
      (s.tim.state = 0 → y.locked = false) ∧
      (conforms → s.tim.state ≠ 0 → bitAt x.sync 0 = false → x.locked = true ∨ 7 ≤ x.conform → y.locked = true)) ∧
  (∀ (p : Fin 8) (stamp : Nat) (s : State), ((sdiInputs s).find? fun e => bitAt e.2.sdiPorts p.val) = none →
    exec (.sdiSav p stamp) s = .next s) ∧
  ∀ (p : Fin 8) (line : Nat) (last crcOk : Bool) (digest i : Nat) (anc : List AncPkt) (audio : List Nat) (x : Input)
    (s : State), ((sdiInputs s).find? fun e => bitAt e.2.sdiPorts p.val) = some (i, x) →
    (x.present = false → exec (.sdiLineRx p line last crcOk digest anc audio) s = .next s) ∧
    (x.present = true → ∃ t y, exec (.sdiLineRx p line last crcOk digest anc audio) s = .next t ∧
      inputOf t i = some y ∧ y.crcErrors = x.crcErrors + (if crcOk then 0 else 1) ∧ y.present = true ∧
      y.newest = x.newest)

/-! ### Outputs and egress (R170, R171, R282, R409 to R425, R429) -/

/-- R409 to R412, R419, R422, R424: an OUT.CONFIGURE whose values pass gives each leg the lowest free queue of its
interface's port, below 255, opens the queues with full buckets, answers their numbers and TS_MIN, and asks for the
addresses of unicast legs. Without a free queue or line rate it is refused with failing check 6, and with a busy
channel with ST_STATE. OUT.CLEAR removes an output and its queues. R171, R411, R429: OUT.STATUS reports the sum of
the legs' late packets, the largest queue depth since the last OUT.STATUS, which it starts afresh, and the largest
lateness; address resolution sets the MAC address of a unicast leg only, for its configuration and again every 60 s. -/
def Obligations.OutputsAreSetAndReported : Prop :=
  ((∀ r s, accepted sOutConfigure r s → tlvD r 0x0401 0 ≤ 127 →
     let o := tlvD r 0x0401 0
     let x := outputFrom r
     (∀ h, outputBusy s o = some h → exec (.outConfigure r) s = .next (refusal sOutConfigure r 2
       (modeCode s.modes.mode * 256 + stateCode (chan s h).state) s)) ∧
     (outputBusy s o = none →
       (8 < x.kind → exec (.outConfigure r) s = .next (refusal sOutConfigure r 5 0x0402 s)) ∧
       (x.kind ≤ 8 → outPortsBad s o x.kind x.ports = true →
         exec (.outConfigure r) s = .next (refusal sOutConfigure r 5 0x0403 s)) ∧
       (x.kind ≤ 8 → outPortsBad s o x.kind x.ports = false → legsBad x.kind (tlvAll r 0x0404) = true →
         exec (.outConfigure r) s = .next (refusal sOutConfigure r 5 0x0404 s)) ∧
       (x.kind ≤ 8 → outPortsBad s o x.kind x.ports = false → legsBad x.kind (tlvAll r 0x0404) = false →
         (hasTlv r 0x0405 = true → x.kind = 2 ∧ tlvD r 0x0405 0 ≤ 2) →
         (hasTlv r 0x0406 = true → 2 ≤ x.kind ∧ shaperTlvBad s o (tlvD r 0x0406 0) x = false) →
         (hasTlv r 0x0408 = true → x.kind = 6 ∧ tlvD r 0x0408 0 % 7 = 0 ∧ tlvD r 0x0408 0 ≠ 0 ∧
           (namerCfg s o ≠ none → tsMinOf s o ≤ tlvD r 0x0408 0)) →
         audioFmtBad x.kind (match x.legs with | l :: _ => l.mtu | [] => 1500) x.audioFmt = false →
         (takeQueues s o [] x.legs = none → exec (.outConfigure r) s = .next (refusal sOutConfigure r 6 6 s)) ∧
         ∀ ls, takeQueues s o [] x.legs = some ls →
           (outRatesBad (freeQueues o s) o { x with legs := ls } = true →
             exec (.outConfigure r) s = .next (refusal sOutConfigure r 6 6 s)) ∧
           (outRatesBad (freeQueues o s) o { x with legs := ls } = false →
             ∃ t y, exec (.outConfigure r) s = .next (okAnswer sOutConfigure r
                 (y.legs.map (fun l => tlv 0x0407 2 l.queue) ++ [tlv 0x0409 4 (tsMinOf s o)]) t) ∧
               outputOf t o = some y ∧ y = { x with legs := y.legs } ∧ y.legs.length = x.legs.length ∧
               (∀ (i : Nat) (l : Leg), y.legs[i]? = some l → l.queue / 256 = l.iface / 4 ∧ l.queue % 256 < 255 ∧
                 queueTaken s o l.queue = false ∧
                 (∀ q, q < l.queue % 256 → queueTaken s o (l.iface / 4 * 256 + q) = true ∨
                   ∃ (j : Nat) (m : Leg), j < i ∧ y.legs[j]? = some m ∧ m.queue = l.iface / 4 * 256 + q) ∧
                 ∃ e, tabGet? t.tmg.queues l.queue = some e ∧ e.en = true ∧ e.iface = l.iface % 4 ∧
                   e.entries = [] ∧ e.tokens = e.burst * tokScale ∧ (x.shaperRate ≠ 0 → e.rateKbps = x.shaperRate) ∧
                   (x.shaperBurst ≠ 0 → e.burst = x.shaperBurst)) ∧
               (∀ l ∈ y.legs, isMulticast l.dstIp = false → ifaceHears s l.iface = true →
                 .arpRequest (ifMac s l.iface) (mniIf s l.iface).addr (arpTarget s l) ∈ (mniIf t l.iface).sent) ∧
               (∀ k, k ≠ o → outputOf t k = outputOf s k) ∧
               { t with outputs := s.outputs, tmg := s.tmg, mni := s.mni } = s)))) ∧
   (∀ r s x, accepted sOutClear r s → outputOf s (tlvD r 0x0401 0) = some x →
     (∀ h, outputBusy s (tlvD r 0x0401 0) = some h → exec (.outClear r) s = .next (refusal sOutClear r 2
       (modeCode s.modes.mode * 256 + stateCode (chan s h).state) s)) ∧
     (outputBusy s (tlvD r 0x0401 0) = none →
       ∃ t, exec (.outClear r) s = .next (okAnswer sOutClear r [] t) ∧ outputOf t (tlvD r 0x0401 0) = none ∧
         (∀ k, k ≠ tlvD r 0x0401 0 → outputOf t k = outputOf s k) ∧
         (∀ l ∈ x.legs, tabGet? t.tmg.queues l.queue = none) ∧
         { t with outputs := s.outputs, tmg := s.tmg } = s)) ∧
   ∀ r s, accepted sOutClear r s → outputOf s (tlvD r 0x0401 0) = none →
     exec (.outClear r) s = .next (refusal sOutClear r 5 0x0401 s)) ∧
  ((∀ r s x, accepted sOutStatus r s → outputOf s (tlvD r 0x0401 0) = some x →
     ∃ t y, exec (.outStatus r) s = .next (okAnswer sOutStatus r
         [tlv 0x0410 8 ((x.legs.map Leg.late).sum), tlv 0x0411 4 ((x.legs.map Leg.depthMax).foldl max 0),
          tlv 0x0412 4 ((x.legs.map Leg.lateMax).foldl max 0)] t) ∧
       outputOf t (tlvD r 0x0401 0) = some y ∧ (∀ l ∈ y.legs, l.depthMax = 0) ∧
       y.legs.map (fun l => (l.leg, l.late, l.lateMax, l.queue)) = x.legs.map (fun l => (l.leg, l.late, l.lateMax, l.queue)) ∧
       { t with outputs := s.outputs } = s) ∧
   (∀ r s, accepted sOutStatus r s → outputOf s (tlvD r 0x0401 0) = none →
     exec (.outStatus r) s = .next (refusal sOutStatus r 5 0x0401 s)) ∧
   ∀ (o : Fin 128) (n : Fin 2) (mac : Option (BitVec 48)) (s : State),
     (outputOf s o.val = none → exec (.arpRefresh o n mac) s = .next s) ∧
     ∀ x, outputOf s o.val = some x → ∃ t y, exec (.arpRefresh o n mac) s = .next t ∧ outputOf t o.val = some y ∧
       y.legs.length = x.legs.length ∧
       (∀ (i : Nat) (l : Leg), x.legs[i]? = some l → y.legs[i]? = some (if l.leg = n.val ∧ isMulticast l.dstIp = false ∧
           (∀ a, l.arpAt = some a → a + 60000000000 ≤ nowNs s)
         then { l with mac := mac, arpAt := some (nowNs s) } else l)) ∧
       (∀ k, k ≠ o.val → outputOf t k = outputOf s k) ∧ { t with outputs := s.outputs, mni := s.mni } = s)

/-- R282, R413, R414: a unit enters the queues of the channel's legs only when it is complete and every earlier one has
entered; its packets go to the end of the leg's queue with its launch times and consecutive RTP sequence numbers.
While a unit may not enter, nothing changes. -/
def Obligations.UnitsEnterQueuesInOrder : Prop :=
  (∀ (h : Fin 64) (s : State), s.prt.stopped = true →
    ((chan s h.val).cfg = none ∨ active (chan s h.val).state = false ∨
      (∃ f, (chan s h.val).cfg = some f ∧ nextToSend (chan s h.val) f = none) ∨
      ∃ f q, (chan s h.val).cfg = some f ∧ nextToSend (chan s h.val) f = some q ∧ mayEnqueue s h.val f q = false) →
    exec (.unitEnqueue h) s = .next s) ∧
  (∀ (h : Fin 64) (s : State) f q, (chan s h.val).cfg = some f → nextToSend (chan s h.val) f = some q →
    q.units.length ≤ q.unitsEnq → mayEnqueue s h.val f q = false) ∧
  ∀ (h : Fin 64) (s : State) (f : ChanCfg) (q : Picture) (o : Nat) (x : Output) (l : Leg),
    (chan s h.val).cfg = some f → active (chan s h.val).state = true → group? s h.val = none →
    nextToSend (chan s h.val) f = some q → mayEnqueue s h.val f q = true → f.outputs = [o] →
    outputOf s o = some x → x.legs = [l] → 2 ≤ x.kind → (∀ k p, p ∈ (chan s k).pics → p.sdiDue = false) →
    let ps := unitPackets s f o x l.mtu q q.unitsEnq
    ∃ t r new, exec (.unitEnqueue h) s = .next t ∧ picOf (chan t h.val) q.capture = some r ∧
      r.unitsEnq = q.unitsEnq + 1 ∧
      (tabGet Queue.reset t.tmg.queues l.queue).entries =
        (tabGet Queue.reset s.tmg.queues l.queue).entries ++ new ∧
      new.map Pkt.launch = ps.map (fun e => some e.1) ∧
      new.map Pkt.rtpSeq = (List.range ps.length).map (fun i => (x.rtpSeq + i) % 65536) ∧
      (∀ p ∈ new, p.chan = h.val ∧ p.output = o ∧ p.capture = q.capture ∧ p.unit = q.unitsEnq ∧ p.bypass = false ∧
        (p.held = true ↔ f.role = .shadow)) ∧
      (∀ n, n ≠ l.queue → tabGet? t.tmg.queues n = tabGet? s.tmg.queues n) ∧
      t.tmg.sent = s.tmg.sent ∧ t.evt = s.evt ∧ ∀ k, k ≠ h.val → chan t k = chan s k

/-- R15, R170, R171, R411, R421, R423: an interface sends the eligible head with the earliest eligibility instant, if
none of its frames is still leaving, all by the local copy of device time in its port; a packet more than 1,000 ns
late counts as late; a packet of a leg that cannot send is discarded and counted; the first packet of a STARTING
channel makes it RUNNING. With nothing eligible nothing leaves. -/
def Obligations.EarliestEligibleHeadLeaves : Prop :=
  (∀ (l : List (Nat × Nat × Pkt)) x, earliestHead l = some x → x ∈ l ∧ ∀ y ∈ l, x.1 ≤ y.1) ∧
  (∀ (n : Fin 8) (s : State), (∀ k, (chan s k).state ≠ .migrating) →
    (∀ k p, p ∈ (chan s k).pics → p.sdiDue = false) →
    s.prt.stopped = true ∨ earliestHead (readyHeads s n.val) = none ∨
      (∃ e, earliestHead (readyHeads s n.val) = some e ∧ legSends s e.2.2 n.val = true ∧
        portNow s (n.val / 4) < tabGet 0 s.tmg.ifBusyUntil n.val) →
    exec (.packetLaunch n) s = .next s) ∧
  ∀ (n : Fin 8) (s : State) (at_ qn : Nat) (p : Pkt) (f : ChanCfg) (x : Output),
    (∀ k, (chan s k).state ≠ .migrating) → (∀ k r, r ∈ (chan s k).pics → r.sdiDue = false) →
    s.prt.stopped = false → earliestHead (readyHeads s n.val) = some (at_, qn, p) → p.chan < 64 →
    (chan s p.chan).cfg = some f → (chan s p.chan).state = .starting ∨ (chan s p.chan).state = .running →
    group? s p.chan = none → outputOf s p.output = some x →
    let now := portNow s (n.val / 4)
    let late := now - p.launch.getD now
    (legSends s p n.val = true → tabGet 0 s.tmg.ifBusyUntil n.val ≤ now →
      ∃ t y, exec (.packetLaunch n) s = .next t ∧
        t.tmg.sent = s.tmg.sent ++ [sentOf s n.val now p] ∧
        tabGet 0 t.tmg.ifBusyUntil n.val = now + p.lineBytes * 8 * 65536 / lineRate s n.val ∧
        (tabGet Queue.reset t.tmg.queues qn).entries = (tabGet Queue.reset s.tmg.queues qn).entries.drop 1 ∧
        outputOf t p.output = some y ∧
        y.legs.map Leg.late = x.legs.map (fun l => l.late + if l.leg = p.leg ∧ 1000 * 65536 < late then 1 else 0) ∧
        y.legs.map Leg.discards = x.legs.map Leg.discards ∧ (chan t p.chan).state = .running ∧
        ((chan s p.chan).state = .starting → s.evt.fifo = [] → ∃ e ∈ t.evt.fifo, e.code = evChanRunning ∧
          e.channel = p.chan)) ∧
    (legSends s p n.val = false →
      ∃ t y, exec (.packetLaunch n) s = .next t ∧ t.tmg.sent = s.tmg.sent ∧
        (tabGet Queue.reset t.tmg.queues qn).entries = (tabGet Queue.reset s.tmg.queues qn).entries.drop 1 ∧
        outputOf t p.output = some y ∧
        y.legs.map Leg.discards = x.legs.map (fun l => l.discards + if l.leg = p.leg then 1 else 0) ∧
        y.legs.map Leg.late = x.legs.map Leg.late)

/-! ### Picture processing (R206 to R228) -/

/-- R206, R208, R211, R215, R218 to R220: PIX.CONFIGURE gives a CONFIGURED or FAULTED channel its processing if the
values, a path and the bandwidth allow it; PIX.LOAD copies a LUT or a coefficient set whose taps sum to 4,096 out of
the buffer into a slot that no running channel names; PIX.LAYER writes the staged state alone; PIX.COMMIT makes one
pending commit of the staged states, or none where any check fails. R221, R222, R223, R228: at a latch instant a
pending commit whose effective picture has come flips as a whole if every acquire fence is signalled, and otherwise
nothing of it is shown and EV_LAYER_MISS says so; release writes take effect in order once due, but a write of
another master in their cycle remains; a fence holds what was last written. What a standard's filter or matrix makes
of pixels is a free function (assumption log 10). -/
def Obligations.PixelLayers : Prop :=
  ((∀ r s f, accepted sPixConfigure r s → mustHold r s = false → s.mbx.heldAdmits = [] →
     (chan s r.channel).cfg = some f →
     let h := r.channel
     let fmt := chanFormat s f
     let p := pixFrom r fmt
     ((chan s h).state ≠ .configured → (chan s h).state ≠ .faulted → exec (.pixConfigure r) s =
       .next (refusal sPixConfigure r 2 (modeCode s.modes.mode * 256 + stateCode (chan s h).state) s)) ∧
     ((chan s h).state = .configured ∨ (chan s h).state = .faulted →
       (∀ t, firstBad (pixChecks f fmt p r) = some t →
         exec (.pixConfigure r) s = .next (refusal sPixConfigure r 5 t s)) ∧
       (firstBad (pixChecks f fmt p r) = none →
         (placePath s h f fmt p = none → exec (.pixConfigure r) s = .next (refusal sPixConfigure r 6 5 s)) ∧
         ∀ q, placePath s h f fmt p = some q →
           let ingest := ingestBudgetOf f (inputOf s f.input) q
           (memBookable s < memBookedBut s h + chanMem { chan s h with ingestBudget := ingest } →
             exec (.pixConfigure r) s = .next (refusal sPixConfigure r 6 3 s)) ∧
           (memBookedBut s h + chanMem { chan s h with ingestBudget := ingest } ≤ memBookable s →
             ∃ t, exec (.pixConfigure r) s = .next (okAnswer sPixConfigure r [] t) ∧
               (chan t h).pix = some q ∧ (chan t h).state = (chan s h).state ∧ (chan t h).cfg = some f ∧
               (q.insert = true → (chan t h).layers = (chan s h).layers ∧ t.pix = s.pix) ∧
               (q.insert = false → (chan t h).layers.shown = [] ∧ (chan t h).layers.pending = none ∧
                 ∀ e ∈ (chan s h).layers.shown, e.2.enable = true → e.2.relFence < 256 →
                   (e.2.relFence, e.2.relValue, s.tim.now) ∈ t.pix.releases) ∧
               (∀ k, k ≠ h → chan t k = chan s k) ∧ { t with chans := s.chans, pix := s.pix } = s)))) ∧
   (∀ r s b, accepted sPixLoad r s → tlvD r 0x0520 0 ≤ 1 →
     let slot := tlvD r 0x0522 0
     (∀ h, slotUser s (tlvD r 0x0520 0) slot = some h → exec (.pixLoad r) s =
       .next (refusal sPixLoad r 2 (modeCode s.modes.mode * 256 + stateCode (chan s h).state) s)) ∧
     (slotUser s (tlvD r 0x0520 0) slot = none → tabGet? s.mem.bufs (tlvD r 0x0521 0) = some b →
       (tlvD r 0x0520 0 = 0 →
         (b.size < 215622 ∨ slot = 0 ∨ 15 < slot → exec (.pixLoad r) s = .next (refusal sPixLoad r 5 0x0521 s)) ∧
         (215622 ≤ b.size → 1 ≤ slot → slot ≤ 15 → ∃ t, exec (.pixLoad r) s = .next (okAnswer sPixLoad r [] t) ∧
           tabGet [] t.pix.luts slot = pairs16 (byteNats (memReads s.mem.dram b.addr 215622)) ∧
           (∀ k, k ≠ slot → tabGet [] t.pix.luts k = tabGet [] s.pix.luts k) ∧ { t with pix := s.pix } = s)) ∧
       (tlvD r 0x0520 0 = 1 →
         let cs := coefsOf (byteNats (memReads s.mem.dram b.addr 1792))
         (b.size < 1792 ∨ slot < 2 ∨ 15 < slot ∨ coefsOk cs = false →
           exec (.pixLoad r) s = .next (refusal sPixLoad r 5 0x0521 s)) ∧
         (1792 ≤ b.size → 2 ≤ slot → slot ≤ 15 → coefsOk cs = true →
           ∃ t, exec (.pixLoad r) s = .next (okAnswer sPixLoad r [] t) ∧ tabGet [] t.pix.coefs slot = cs ∧
             (∀ k, k ≠ slot → tabGet [] t.pix.coefs k = tabGet [] s.pix.coefs k) ∧ { t with pix := s.pix } = s)))) ∧
   (∀ r s, accepted sPixLayer r s →
     (3 < tlvD r 0x0530 0 ∨ inserts s r.channel = false →
       exec (.pixLayer r) s = .next (refusal sPixLayer r 5 0x0530 s)) ∧
     (tlvD r 0x0530 0 ≤ 3 → inserts s r.channel = true →
       ∃ t, exec (.pixLayer r) s = .next (okAnswer sPixLayer r [] t) ∧
         tabGet Layer.reset (chan t r.channel).layers.staged (tlvD r 0x0530 0) =
           layerFrom r 0x0531 (tabGet Layer.reset (chan s r.channel).layers.staged (tlvD r 0x0530 0)) ∧
         (∀ i, i ≠ tlvD r 0x0530 0 → tabGet Layer.reset (chan t r.channel).layers.staged i =
           tabGet Layer.reset (chan s r.channel).layers.staged i) ∧
         (chan t r.channel).layers.pending = (chan s r.channel).layers.pending ∧
         (chan t r.channel).layers.shown = (chan s r.channel).layers.shown ∧
         (∀ k, k ≠ r.channel → chan t k = chan s k) ∧ { t with chans := s.chans } = s)) ∧
   ∀ r s f, accepted sPixCommit r s → (chan s r.channel).cfg = some f →
     let c := chan s r.channel
     let group := tlvD r 0x0540 0
     let ls := (bitList 4 group).map fun i => (i, tabGet Layer.reset c.layers.staged i)
     let e := tlvD r 0x0541 (acceptedAt r s + ceilDiv (2 * periodT f) 65536)
     (c.layers.pending.isSome = true → exec (.pixCommit r) s = .next (refusal sPixCommit r 1 0 s)) ∧
     (c.layers.pending = none → 1 ≤ group → group ≤ 15 → inserts s r.channel = true →
       (∀ t, pixCommitBad s f ls = some t → exec (.pixCommit r) s = .next (refusal sPixCommit r 5 t s)) ∧
       (pixCommitBad s f ls = none →
         (hasTlv r 0x0541 = true → effectiveBad c f e = true →
           exec (.pixCommit r) s = .next (refusal sPixCommit r 5 0x0541 s)) ∧
         (hasTlv r 0x0541 = false ∨ effectiveBad c f e = false →
           ∃ t, exec (.pixCommit r) s = .next (okAnswer sPixCommit r [] t) ∧
             (chan t r.channel) = { c with layers := { c.layers with
               pending := some { layers := ls, effective := e, open_ := !hasTlv r 0x0541 } } } ∧
             (∀ k, k ≠ r.channel → chan t k = chan s k) ∧ { t with chans := s.chans } = s)))) ∧
  ((∀ (h : Fin 64) (cap : Nat) (s : State),
     inserts s h.val = false ∨ active (chan s h.val).state = false ∨ s.tim.now < cap ∨
       (chan s h.val).srcPics.any (fun x => x.capture = cap) = true →
     exec (.layerLatch h cap) s = .next s) ∧
   (∀ (h : Fin 64) (cap : Nat) (m0 : Commit) (s : State), inserts s h.val = true →
     active (chan s h.val).state = true → cap ≤ s.tim.now →
     (chan s h.val).srcPics.any (fun x => x.capture = cap) = false → (chan s h.val).layers.pending = some m0 →
     group? s h.val = none → (m0.layers.map Prod.fst).Nodup →
     let m : Commit := { m0 with effective := if m0.open_ = true then max m0.effective (capNs cap) else m0.effective
                                 open_ := m0.open_ && decide (capNs cap < m0.effective) }
     (capNs cap < m.effective → ∃ t, exec (.layerLatch h cap) s = .next t ∧
       (chan t h.val).layers.pending = some m ∧
       (chan t h.val).layers.shown = (chan s h.val).layers.shown ∧ t.pix = s.pix) ∧
     (m.effective ≤ capNs cap → commitReady s cap m = true → ∃ t, exec (.layerLatch h cap) s = .next t ∧
       (chan t h.val).layers.pending = none ∧
       (∀ e ∈ m.layers, tabGet? (chan t h.val).layers.shown e.1 = some e.2) ∧
       (∀ i, i ∉ m.layers.map Prod.fst → tabGet? (chan t h.val).layers.shown i =
         tabGet? (chan s h.val).layers.shown i) ∧
       (composedBefore (chan s h.val) cap = true → ∀ l ∈ replaced (chan s h.val).layers m, l.relFence < 256 →
         (l.relFence, l.relValue, s.tim.now) ∈ t.pix.releases) ∧
       t.pix.fences = s.pix.fences ∧ (∀ k, k ≠ h.val → chan t k = chan s k) ∧
       (s.evt.fifo.length + (chan s h.val).layers.shown.length < 512 → ∃ e ∈ t.evt.fifo, e.code = evLayerFlip ∧ e.channel = h.val ∧
         e.data = eventData (layerEvent (commitMask 4 m) (capNs cap)))) ∧
     (m.effective ≤ capNs cap → commitReady s cap m = false → ∃ t, exec (.layerLatch h cap) s = .next t ∧
       (chan t h.val).layers.pending = some m ∧
       (chan t h.val).layers.shown = (chan s h.val).layers.shown ∧ t.pix = s.pix ∧
       (s.evt.fifo.length + (chan s h.val).layers.shown.length < 512 → ∃ e ∈ t.evt.fifo, e.code = evLayerMiss ∧ e.channel = h.val ∧
         e.data = eventData (layerEvent (commitMask 4 m) (capNs cap))))) ∧
   (∀ (h : Fin 64) (cap content : Nat) (f : ChanCfg) (p : PixCfg) (s : State), (chan s h.val).cfg = some f →
     (chan s h.val).pix = some p →
     (p.path = none ∨ active (chan s h.val).state = false ∨
         (chan s h.val).srcPics.any (fun x => x.capture = cap) = true ∨ waitsCheckpoint s h.val cap = true →
       exec (.pixPathPicture h cap content) s = .next s) ∧
     (p.path ≠ none → active (chan s h.val).state = true →
       (chan s h.val).srcPics.any (fun x => x.capture = cap) = false → waitsCheckpoint s h.val cap = false →
       ∃ t, exec (.pixPathPicture h cap content) s = .next t ∧
         (inputOf s f.input = none → (chan t h.val).srcPics.getLast? =
           some { capture := cap, content := pathContent s h.val f p cap content }) ∧
         (f.role = .transcode → inputOf s f.input ≠ none → (chan t h.val).srcPics.getLast? =
           some { capture := cap, content := pathContent s h.val f p cap (decodedContent s h.val f cap) }) ∧
         (∀ ls, f.role ≠ .transcode → inputOf s f.input ≠ none → sourcePicture s h.val f cap = some ls →
           (chan t h.val).srcPics.getLast? =
             some { capture := cap, content := pathContent s h.val f p cap (Config.pictureContent ls) }) ∧
         (chan t h.val).layers = (chan s h.val).layers ∧ t.pix.fences = s.pix.fences ∧
         ∀ k, k ≠ h.val → chan t k = chan s k)) ∧
   (∀ (n : Fin 256) (m : Master) (v : Word32) (s : State),
     (regPath s m = true → ∃ t, exec (.pixFenceWrite n m v) s = .next t ∧ tabGet 0 t.pix.fences n.val = v ∧
       (∀ k, k ≠ n.val → tabGet 0 t.pix.fences k = tabGet 0 s.pix.fences k) ∧ { t with pix := s.pix } = s) ∧
     (regPath s m = false → exec (.pixFenceWrite n m v) s =
       .next (busError m true (regAddr (0x42000 + 4 * n.val)) s))) ∧
   ∀ (s : State), let due := s.pix.releases.filter fun e => decide (e.2.2 ≤ s.tim.now)
     ∃ t, exec .releaseFenceWrite s = .next t ∧
       t.pix.releases = s.pix.releases.filter (fun e => decide (s.tim.now < e.2.2)) ∧
       ((∀ e ∈ s.pix.wrote, e.2.1 ≠ s.tim.now) →
         ∀ n, tabGet 0 t.pix.fences n = match (due.filter fun e => e.1 = n).getLast? with
           | some e => e.2.1
           | none => tabGet 0 s.pix.fences n) ∧
       (∀ e ∈ s.pix.wrote, e.2.1 = s.tim.now → e.2.2.2 = true → s.pix.wrote.length + due.length ≤ 256 →
         tabGet 0 t.pix.fences e.1 = tabGet 0 s.pix.fences e.1) ∧ { t with pix := s.pix } = s)

/-! ### Confidence monitor and drawing engine (R478 to R499) -/

/-- R54, R478, R479, R482, R483, R484, R487, R489: MON.CONFIGURE sets route and timing of a stopped monitor; MON.START
waits for the first frame at least 1 ms ahead; a route in port-off refuses both; MON.STOP ends at once before the
first frame, an SDI route going on black, and otherwise after the frame in progress; MON.LAYER stages; MON.COMMIT
makes one pending commit if its checks and its load pass. R355, R482, R485, R487, R488, R492, R493: vertical
blanking ends the frame before it, latches the layers, starts composition and sets STAT bit 0, or ends scan-out
after MON.STOP; a line that the scan reaches before composition is abandoned; pixels of the frame store with an
error are counted; the end of composition sets STAT bit 2; MON_INT.STAT and TIMING_WR are cleared by writing 1. -/
def Obligations.MonitorOutputs : Prop :=
  ((∀ r s, accepted sMonConfigure r s →
     let o := tlvD r 0x0901 0
     (s.mon.state ≠ 0 → exec (.monConfigure r) s =
       .next (refusal sMonConfigure r 2 (modeCode s.modes.mode * 256 + 0xFF) s)) ∧
     (s.mon.state = 0 → routeBad s o = true → exec (.monConfigure r) s = .next (refusal sMonConfigure r 5 0x0901 s)) ∧
     (s.mon.state = 0 → routeBad s o = false → timingBad (tlvD r 0x0902 0) = true →
       exec (.monConfigure r) s = .next (refusal sMonConfigure r 5 0x0902 s)) ∧
     (s.mon.state = 0 → routeBad s o = false → timingBad (tlvD r 0x0902 0) = false →
       (∀ x, outputOf s o = some x → x.kind = 0 → linkFor (timingOf (tlvD r 0x0902 0)).width
         (timingOf (tlvD r 0x0902 0)).height (timingOf (tlvD r 0x0902 0)).rateNum
         (timingOf (tlvD r 0x0902 0)).rateDen false ≠ none) →
       (routeOff s o = true → exec (.monConfigure r) s =
         .next (refusal sMonConfigure r 2 (modeCode s.modes.mode * 256 + 0xFF) s)) ∧
       (routeOff s o = false → ∃ t, exec (.monConfigure r) s = .next (okAnswer sMonConfigure r [] t) ∧
         t.mon = { s.mon with route := o, timing := some (timingOf (tlvD r 0x0902 0)) } ∧
         (outputOf s o = none → t.tmg = s.tmg) ∧ (∀ x, outputOf s o = some x → x.legs = [] → t.tmg = s.tmg) ∧
         (∀ x l, outputOf s o = some x → x.legs = [l] → x.shaperRate ≠ 0 → x.shaperBurst ≠ 0 →
           let q := tabGet Queue.reset t.tmg.queues l.queue
           q.rateKbps = x.shaperRate ∧ q.burst = x.shaperBurst ∧ q.tokens = x.shaperBurst * tokScale) ∧
         { t with mon := s.mon, tmg := s.tmg } = s))) ∧
   (∀ r s, accepted sMonStart r s →
     (s.mon.timing = none ∨ s.mon.route = 0xFF ∨ s.mon.state ≠ 0 ∨ s.modes.mode = .dormant ∨
         s.modes.mode = .service ∨ routeOff s s.mon.route = true → exec (.monStart r) s =
       .next (refusal sMonStart r 2 (modeCode s.modes.mode * 256 + 0xFF) s)) ∧
     (∀ f, s.mon.timing = some f → s.mon.route ≠ 0xFF → s.mon.state = 0 → s.modes.mode ≠ .dormant →
       s.modes.mode ≠ .service → routeOff s s.mon.route = false → ∃ t, exec (.monStart r) s = .next (okAnswer sMonStart r [] t) ∧
         t.mon.state = 1 ∧ t.mon.stopping = false ∧ t.mon.frame = 0 ∧ t.mon.timing = some f ∧
         (0 < f.rateNum → 0 < f.rateDen →
           65536 * (acceptedAt r s + 1000000) ≤ gridTime (f.rateNum, f.rateDen) t.mon.nextFrame ∧
           ∀ n, 65536 * (acceptedAt r s + 1000000) ≤ gridTime (f.rateNum, f.rateDen) n → t.mon.nextFrame ≤ n) ∧
         t.mon.layers = s.mon.layers ∧ { t with mon := s.mon } = s)) ∧
   (∀ r s, accepted sMonStop r s →
     (s.mon.state = 0 → exec (.monStop r) s = .next (okAnswer sMonStop r [] s)) ∧
     (s.mon.state = 1 → ∃ t, exec (.monStop r) s = .next (okAnswer sMonStop r [] t) ∧
       t.mon = { s.mon with state := 0, stopping := false, lineOut := t.mon.lineOut } ∧
       (monOnSdi s = false → t.mon.lineOut = []) ∧
       (∀ f, s.mon.timing = some f → monOnSdi s = true →
         t.mon.lineOut = (List.replicate f.width [64, 512]).flatten) ∧ { t with mon := s.mon } = s) ∧
     (s.mon.state = 2 → exec (.monStop r) s = .next (okAnswer sMonStop r []
       { s with mon := { s.mon with stopping := true } }))) ∧
   (∀ r s, accepted sMonLayer r s →
     (19 < tlvD r 0x0910 0 → exec (.monLayer r) s = .next (refusal sMonLayer r 5 0x0910 s)) ∧
     (tlvD r 0x0910 0 ≤ 19 → ∃ t, exec (.monLayer r) s = .next (okAnswer sMonLayer r [] t) ∧
       tabGet Layer.reset t.mon.layers.staged (tlvD r 0x0910 0) =
         monLayerFrom r (tabGet Layer.reset s.mon.layers.staged (tlvD r 0x0910 0)) ∧
       (∀ i, i ≠ tlvD r 0x0910 0 → tabGet Layer.reset t.mon.layers.staged i =
         tabGet Layer.reset s.mon.layers.staged i) ∧
       { t.mon.layers with staged := s.mon.layers.staged } = s.mon.layers ∧ { t with mon := s.mon } = s)) ∧
   ∀ r s, accepted sMonCommit r s →
     let group := tlvD r 0x0920 0
     let ls := (bitList 20 group).map fun i => (i, tabGet Layer.reset s.mon.layers.staged i)
     (s.mon.layers.pending.isSome = true → exec (.monCommit r) s = .next (refusal sMonCommit r 1 0 s)) ∧
     (s.mon.layers.pending = none → group = 0 ∨ 1048576 ≤ group →
       exec (.monCommit r) s = .next (refusal sMonCommit r 5 0x0920 s)) ∧
     ∀ f, s.mon.layers.pending = none → 0 < group → group < 1048576 → s.mon.timing = some f →
       (∀ x, monCommitBad s f ls = some x → exec (.monCommit r) s = .next (refusal sMonCommit r 5 x s)) ∧
       (monCommitBad s f ls = none → loadBad s f ls = true →
         exec (.monCommit r) s = .next (refusal sMonCommit r 6 3 s)) ∧
       (monCommitBad s f ls = none → loadBad s f ls = false →
         let m : Commit := { layers := ls, effective := if s.mon.state = 0 then 0 else acceptedAt r s + 1000000, open_ := false }
         exec (.monCommit r) s = .next (okAnswer sMonCommit r []
           { s with mon := { s.mon with layers := { s.mon.layers with pending := some m } } }))) ∧
  ((∀ (s : State), s.mon.timing = none ∨ s.mon.state = 0 ∨
       (∃ f, s.mon.timing = some f ∧ s.tim.now < vblankAt f s.mon.nextFrame) →
     exec .monVblank s = .next s) ∧
   (∀ (f : Timing) (s : State), s.mon.timing = some f → s.mon.state ≠ 0 → vblankAt f s.mon.nextFrame ≤ s.tim.now →
     s.mon.abandoned = 0 →
     (s.mon.stopping = true → ∃ t, exec .monVblank s = .next t ∧ t.mon = { s.mon with
       state := 0, stopping := false, composing := false, current := 0xFFFF, lineOut := t.mon.lineOut
       frame := if s.mon.state = 2 then s.mon.frame + 1 else s.mon.frame } ∧ { t with mon := s.mon } = s) ∧
     (s.mon.stopping = false → ∃ t, exec .monVblank s = .next t ∧ t.mon.nextFrame = s.mon.nextFrame + 1 ∧
       t.mon.composing = true ∧ t.mon.composed = 0 ∧ t.mon.current = 0xFFFF ∧ t.mon.state = s.mon.state ∧
       t.mon.frame = (if s.mon.state = 2 then s.mon.frame + 1 else s.mon.frame) ∧
       bitAt t.mon.intStat 0 = true ∧ t.chans = s.chans ∧
       (∀ m, s.mon.layers.pending = some m → m.effective ≤ capNs (vblankAt f s.mon.nextFrame) →
         (commitReady s (vblankAt f s.mon.nextFrame) m = true → t.mon.layers.pending = none ∧
           ((m.layers.map Prod.fst).Nodup → ∀ e ∈ m.layers, tabGet? t.mon.layers.shown e.1 = some e.2) ∧
           (s.evt.fifo.length + s.mon.layers.shown.length < 512 → ∃ e ∈ t.evt.fifo, e.code = evLayerFlip ∧ e.channel = 0xFFFF)) ∧
         (commitReady s (vblankAt f s.mon.nextFrame) m = false → t.mon.layers.pending = some m ∧ t.mon.layers.shown = s.mon.layers.shown)))) ∧
   (∀ (line composed : Nat) (bad : List Nat) (f : Timing) (s : State), s.mon.timing = some f →
     (s.mon.state = 0 ∨ f.height ≤ line → exec (.monLineScan line ⟨composed, bad⟩) s = .next s) ∧
     (s.mon.state ≠ 0 → line < f.height → 0 < s.mon.nextFrame → lineAt f (s.mon.nextFrame - 1) line ≤ s.tim.now →
       ∃ t, exec (.monLineScan line ⟨composed, bad⟩) s = .next t ∧ t.mon.state = 2 ∧ t.mon.current = line ∧
         t.mon.storeErrors = s.mon.storeErrors + (bad.filter fun x => decide (x < f.width)).eraseDups.length ∧
         (s.mon.composing = true → max s.mon.composed (min composed f.height) ≤ line →
           t.mon.composed = line + 1 ∧ t.mon.abandoned = s.mon.abandoned + 1 ∧
           (s.mon.abandoned = 0 → t.mon.underFirst = line) ∧ t.mon.underCount = rcAdd 65535 1 s.mon.underCount) ∧
         (s.mon.composing = false ∨ line < max s.mon.composed (min composed f.height) →
           t.mon.abandoned = s.mon.abandoned ∧ t.mon.underCount = s.mon.underCount) ∧
         (line = s.mon.match_ → bitAt t.mon.intStat 1 = true) ∧
         (line ≠ s.mon.match_ → t.mon.intStat = s.mon.intStat ∧ t.evt = s.evt))) ∧
   (∀ (s : State), s.mon.composing = false → exec .monComposeDone s = .next s) ∧
   (∀ (f : Timing) (s : State), s.mon.timing = some f → s.mon.composing = true → ∃ t, exec .monComposeDone s = .next t ∧ t.mon.composing = false ∧
     bitAt t.mon.intStat 2 = true ∧ t.mon.abandoned = 0 ∧ t.mon.layers = s.mon.layers ∧
     (bitAt s.mon.intEn 2 = true → s.evt.fifo = [] → ∃ e ∈ t.evt.fifo, e.code = evMonDone) ∧
     (s.mon.abandoned ≠ 0 → bitAt s.mon.intEn 3 = true → s.evt.fifo = [] → ∃ e ∈ t.evt.fifo, e.code = evMonUnderrun ∧
       e.data = eventData (u16 s.mon.underFirst ++ u16 s.mon.abandoned ++ u32 s.mon.frame))) ∧
   (∀ (m : Master) (v : Word32) (s : State),
     (regPath s m = true → ∃ t, exec (.monIntStat m v) s = .next t ∧ t.mon.intEn = v.toNat / 65536 % 16 ∧
       (∀ k, k < 4 → bitAt t.mon.intStat k = (bitAt s.mon.intStat k && !bitAt v.toNat k)) ∧
       { t.mon with intEn := s.mon.intEn, intStat := s.mon.intStat } = s.mon ∧ { t with mon := s.mon } = s) ∧
     (regPath s m = false → exec (.monIntStat m v) s = .next (busError m true (regAddr 0xB0008) s))) ∧
   ∀ (m : Master) (v : Word32) (s : State),
     (m = .cpuData → exec (.timingWr m v) s = .next { s with mon := { s.mon with
       timingWr := s.mon.timingWr && !v.getLsbD 3 } }) ∧
     (m ≠ .cpuData → exec (.timingWr m v) s = .next (busError m true (regAddr 0xB0000) s)))

/-- R32, R494 to R499: HEAD moves only forward and not past a full ring; the engine takes the descriptor at TAIL while
it is enabled and the controllers admit its activity, moves no more pixels than DRAW_CAP and its bursts allow, makes
the fence write also when it skips, and moves TAIL on; a skipped descriptor writes nothing else; a fill writes its
pixels and nothing outside its rows. -/
def Obligations.DrawingEngineDescriptors : Prop :=
  (∀ (m : Master) (v : Word32) (s : State),
    let h := v.toNat / 65536 % 512
    let used (x : Nat) : Nat := (x + 512 - s.mon.drawTail) % 512
    (regPath s m = false → exec (.head m v) s = .next (busError m true (regAddr 0xB0108) s)) ∧
    (regPath s m = true → used s.mon.drawHead ≤ used h → used h ≤ 256 →
      exec (.head m v) s = .next { s with mon := { s.mon with
        drawHead := h, drawAt := if s.mon.drawHead = s.mon.drawTail then s.tim.now else s.mon.drawAt } }) ∧
    (regPath s m = true → used h < used s.mon.drawHead ∨ 256 < used h → exec (.head m v) s = .next s)) ∧
  (∀ (m : Master) (v : Word64) (s : State),
    (regPath s m = false → exec (.drawErr m v) s = .next (busError m true (regAddr 0xB0110) s)) ∧
    (regPath s m = true → ∃ t, exec (.drawErr m v) s = .next t ∧ t.mon = { s.mon with
      drawEn := v.getLsbD 31, deadNs := v.toNat % 65536, drawErr := s.mon.drawErr && !v.getLsbD 32,
      drawAt := t.mon.drawAt } ∧ { t with mon := s.mon } = s)) ∧
  (∀ (s : State), s.mon.drawEn = false ∨ s.mon.drawHead = s.mon.drawTail →
    exec .drawDescriptorDone s = .next s) ∧
  (∀ (s : State), s.mon.drawEn = true → s.mon.drawHead ≠ s.mon.drawTail → spent s actMonitor = true →
    exec .drawDescriptorDone s = .next (noteThrottle actMonitor s)) ∧
  (∀ (s : State), s.mon.drawEn = true → s.mon.drawHead ≠ s.mon.drawTail → spent s actMonitor = false →
    let d := tailDesc s
    let left := d.width * d.height - s.mon.drawPos
    skipReason s d = none → d.op ≠ 0 → drawAllowance d s < left →
    (drawAllowance d s = 0 → exec .drawDescriptorDone s = .next s) ∧
    (0 < drawAllowance d s → ∃ t, exec .drawDescriptorDone s = .next t ∧ t.mon.drawTail = s.mon.drawTail ∧
      t.mon.drawPos = s.mon.drawPos + drawAllowance d s ∧ t.pix.fences = s.pix.fences ∧
      (s.mon.drawUsed ≤ drawCap s → t.mon.drawUsed ≤ drawCap s))) ∧
  ∀ (s : State), s.mon.drawEn = true → s.mon.drawHead ≠ s.mon.drawTail → spent s actMonitor = false →
    let d := tailDesc s
    let left := d.width * d.height - s.mon.drawPos
    (skipReason s d ≠ none ∨ d.op = 0 ∨ (0 < left ∧ left ≤ drawAllowance d s)) →
    ∃ t, exec .drawDescriptorDone s = .next t ∧ t.mon.drawTail = (s.mon.drawTail + 1) % 512 ∧ t.mon.drawPos = 0 ∧
      (d.fence < 256 → tabGet 0 t.pix.fences d.fence = d.value) ∧
      (∀ k, k ≠ d.fence ∨ 256 ≤ d.fence → tabGet 0 t.pix.fences k = tabGet 0 s.pix.fences k) ∧
      t.mon.drawHead = s.mon.drawHead ∧ t.chans = s.chans ∧ t.tmg = s.tmg ∧ t.mbx = s.mbx ∧
      (s.mon.drawUsed ≤ drawCap s → t.mon.drawUsed ≤ drawCap s) ∧
      (∀ k, skipReason s d = some k → d.op ≠ 0 → t.mem.dram = s.mem.dram ∧ t.mon.drawErr = true ∧
        t.mon.drawErrCount = rcAdd 65535 1 s.mon.drawErrCount ∧
        (s.evt.fifo = [] → ∃ e ∈ t.evt.fifo, e.code = evMonDraw ∧
          e.data = eventData (u16 s.mon.drawTail ++ u8 k))) ∧
      (d.op = 0 → t.mem.dram = s.mem.dram ∧ t.evt = s.evt) ∧
      (∀ a, (∀ y, y < d.height → a < d.dst + y * d.dstPitch ∨
          d.dst + y * d.dstPitch + d.width * pixelBytes d.format ≤ a) →
        memRead t.mem.dram a = memRead s.mem.dram a) ∧
      (memWf s.mem.dram = true → skipReason s d = none → s.mon.drawPos = 0 → d.op = 1 →
        ∀ x y, x < d.width → y < d.height →
        memReads t.mem.dram (d.dst + y * d.dstPitch + x * pixelBytes d.format) (pixelBytes d.format) =
          natBytes (le (pixelBytes d.format) (fillPixel d.format d.colour))) ∧
      (memWf s.mem.dram = true → skipReason s d = none → s.mon.drawPos = 0 → d.op = 2 → s.mem.poison = [] →
        d.width = 1 → d.height = 1 →
        memReads t.mem.dram d.dst (pixelBytes d.format) = memReads s.mem.dram d.src (pixelBytes d.format))

/-! ### Device time (R146 to R164) -/

/-- R150, R152, R153, R162: TIME.STATUS reports both domains and the selection; TIME.CONFIGURE ends a manual choice,
sets priorities and restarts a slot that gets another number; TIME.SELECT takes a locked domain only, and device
time keeps its value; TIME.IO sets the directions. -/
def Obligations.TimeCommands : Prop :=
  (∀ r s, accepted sTimeStatus r s → exec (.timeStatus r) s = .next (okAnswer sTimeStatus r
    [tlv 0x0601 1 (s.tim.selected.getD 0xFF), tlvB 0x0602 (domainState (domOf s 0) ++ domainState (domOf s 1)),
     tlv 0x0603 1 s.tim.holdover] s)) ∧
  (∀ r s, accepted sTimeConfigure r s → s.tim.domains.length = 2 →
    let n (k : Nat) : Nat := match getTlv r 0x0610 with | some v => fieldAt v k 1 | none => (domOf s k).number
    let p (k : Nat) : Nat := match getTlv r 0x0611 with | some v => fieldAt v k 1 | none => (domOf s k).priority
    (127 < n 0 ∨ 127 < n 1 → exec (.timeConfigure r) s = .next (refusal sTimeConfigure r 5 0x0610 s)) ∧
    (n 0 ≤ 127 → n 1 ≤ 127 → ∃ t, exec (.timeConfigure r) s = .next (okAnswer sTimeConfigure r [] t) ∧
      (∀ k, k < 2 → domOf t k = if (domOf s k).number = n k then { domOf s k with priority := p k }
        else Domain.reset (n k) (p k)) ∧
      t.tim.manual = none ∧ t.tim.now = s.tim.now ∧ t.tim.phase = s.tim.phase ∧ t.chans = s.chans)) ∧
  (∀ r s, accepted sTimeSelect r s →
    let k := tlvD r 0x0601 0
    (1 < k → exec (.timeSelect r) s = .next (refusal sTimeSelect r 5 0x0601 s)) ∧
    (k ≤ 1 → (domOf s k).state ≠ 3 → exec (.timeSelect r) s =
      .next (refusal sTimeSelect r 2 (modeCode s.modes.mode * 256 + 0xFF) s)) ∧
    (k ≤ 1 → (domOf s k).state = 3 → ∃ t, exec (.timeSelect r) s = .next (okAnswer sTimeSelect r [] t) ∧
      t.tim.manual = some k ∧ t.tim.now = s.tim.now ∧ t.tim.phase = s.tim.phase ∧ t.tim.domains = s.tim.domains ∧
      (s.tim.state ≠ 0 → s.ctl.restart.active = false → t.tim.selected = some k) ∧ t.chans = s.chans)) ∧
  ∀ r s, accepted sTimeIo r s →
    let a := tlvD r 0x0620 s.tim.ppsDir
    let b := tlvD r 0x0621 s.tim.refDir
    (3 < a → exec (.timeIo r) s = .next (refusal sTimeIo r 5 0x0620 s)) ∧
    (a ≤ 3 → 3 < b → exec (.timeIo r) s = .next (refusal sTimeIo r 5 0x0621 s)) ∧
    (a ≤ 3 → b ≤ 3 → exec (.timeIo r) s = .next (okAnswer sTimeIo r []
      { s with tim := { s.tim with ppsDir := a, refDir := b } }))

/-- R150 to R152, R154 to R157, R160, R161: a slot follows the best master it hears, locks at the 16th Sync in
succession below 100 ns and is lost at the 16th above 10 us or at announce receipt timeout; device time then goes to
the other locked domain or holds over, and steps only while it free-runs and no channel is active. A Delay_Resp sets
the path delay; a Sync outside the intervals of R150, and a media port in port-off, change nothing; Delay_Reqs keep
the master's interval; fabric time serves only a slot that no media port in service hears. The 750 ms after which a
slot fed by the fabric alone is lost are the model's (assumption log 16). -/
def Obligations.DomainsFollowMasters : Prop :=
  (∀ (p : SyncMsg) (s : State), s.modes.mode = .boot ∨ 2 ≤ p.source.val ∨ mediaHears s p.source.val = false ∨
    p.logInterval < -7 ∨ -1 < p.logInterval → exec (.ptpSyncRx p) s = .next s) ∧
  (∀ (p : SyncMsg) (k : Nat) (s : State), s.modes.mode ≠ .boot → p.source.val < 2 →
    mediaHears s p.source.val = true → -7 ≤ p.logInterval → p.logInterval ≤ -1 →
    s.tim.domains.length = 2 → slotsOf s p.domain = [k] →
    let d := domOf s k
    let off := offsetOf d (stamped p)
    d.identity = p.identity → d.source = p.source.val → d.heard ≠ [] →
    (p.twoStep = true → ∃ t, exec (.ptpSyncRx p) s = .next t ∧ domOf t k = { d with syncPend := some (stamped p) } ∧
      { t with tim := s.tim } = s) ∧
    (p.twoStep = false → d.state = 2 → d.lastSync ≠ none → off.natAbs < 100 * 4294967296 → d.good < 15 →
      ∃ t, exec (.ptpSyncRx p) s = .next t ∧ (domOf t k).state = 2 ∧ (domOf t k).good = d.good + 1 ∧
        t.tim.now = s.tim.now ∧ { t with tim := s.tim } = s) ∧
    (p.twoStep = false → d.state = 2 → d.lastSync ≠ none → 100 * 4294967296 ≤ off.natAbs →
      ∃ t, exec (.ptpSyncRx p) s = .next t ∧ (domOf t k).state = 2 ∧ (domOf t k).good = 0 ∧
        (domOf t k).ahead = d.ahead - off ∧ { t with tim := s.tim } = s) ∧
    (p.twoStep = false → d.state = 2 → d.lastSync ≠ none → off.natAbs < 100 * 4294967296 → 15 ≤ d.good →
      ∃ t, exec (.ptpSyncRx p) s = .next t ∧ t.chans = s.chans ∧
        (s.tim.state ≠ 0 → (domOf t k).state = 3 ∧ t.tim.now = s.tim.now ∧ t.tim.phase = s.tim.phase) ∧
        (s.tim.state = 0 → (domOf s (1 - k)).state ≠ 5 → 0 < activeCount s →
          (domOf t k).state = 5 ∧ t.tim.now = s.tim.now ∧ t.tim.state = 0) ∧
        (s.tim.state = 0 → (domOf s (1 - k)).state ≠ 5 → activeCount s = 0 → (domOf t k).state = 3 ∧
          t.tim.state ≠ 0 ∧ t.tim.selected ≠ none ∧
          t.tim.now = ((s.tim.now * 65536 + s.tim.phase : Nat) + d.ahead : Int).toNat / 65536)) ∧
    (p.twoStep = false → d.state = 3 → off.natAbs ≤ 10000 * 4294967296 →
      ∃ t, exec (.ptpSyncRx p) s = .next t ∧ (domOf t k).state = 3 ∧ (domOf t k).bad = 0 ∧
        (domOf t k).ahead = d.ahead - Config.servo off d.pathDelay ∧
        t.tim.now = s.tim.now ∧ { t with tim := s.tim } = s) ∧
    (p.twoStep = false → d.state = 3 → 10000 * 4294967296 < off.natAbs →
      ∃ t, exec (.ptpSyncRx p) s = .next t ∧ t.tim.now = s.tim.now ∧ t.chans = s.chans ∧
        (d.bad < 15 → (domOf t k).state = 3 ∧ (domOf t k).bad = d.bad + 1) ∧
        (15 ≤ d.bad → (domOf t k).state = 4))) ∧
  (∀ (n seq origin corr k : Nat) (src : Fin 3) (p : SyncMsg) (s : State), s.modes.mode ≠ .boot → slotsOf s n = [k] →
    s.tim.domains.length = 2 → (domOf s k).syncPend = some p → (domOf s k).state = 2 → (domOf s k).lastSync = none →
    p.source = src → p.seq = seq → src.val < 2 → mediaHears s src.val = true →
    ∃ t q, exec (.ptpFollowUpRx n src seq origin corr) s = .next t ∧ (domOf t k).lastSync = some q ∧
      q.origin = origin ∧ q.correction = p.correction + corr ∧ (domOf t k).syncPend = none ∧ (domOf t k).good = 1 ∧
      { t with tim := s.tim } = s) ∧
  (∀ (n seq origin corr : Nat) (src : Fin 3) (s : State), 2 ≤ src.val ∨ mediaHears s src.val = false →
    exec (.ptpFollowUpRx n src seq origin corr) s = .next s) ∧
  (∀ (a : AnnounceMsg) (s : State),
    s.modes.mode = .boot ∨ announceOk a = false ∨ mediaHears s a.port.val = false →
    exec (.ptpAnnounceRx a) s = .next s) ∧
  (∀ (a : AnnounceMsg) (k : Nat) (s : State), s.modes.mode ≠ .boot → announceOk a = true →
    mediaHears s a.port.val = true → s.tim.domains.length = 2 → slotsOf s a.domain = [k] → (domOf s k).heard = [] →
    ∃ t, exec (.ptpAnnounceRx a) s = .next t ∧ (domOf t k).identity = a.identity ∧
      (domOf t k).source = a.port.val ∧ (domOf t k).lastAnnounce = nowNs s ∧ (domOf t k).timeoutNs = receiptNs a ∧
      ((domOf s k).state = 1 ∨ (domOf s k).state = 4 → (domOf t k).state = 2) ∧
      ((domOf s k).state = 2 ∨ (domOf s k).state = 3 → (domOf t k).state = (domOf s k).state) ∧
      t.tim.now = s.tim.now ∧ t.chans = s.chans) ∧
  (∀ (k : Fin 2) (t3 : Nat) (s : State), s.tim.domains.length = 2 →
    (tracksMedia (domOf s k.val) = true → s.modes.mode ≠ .boot → mediaHears s (domOf s k.val).source = true →
      (∀ x, (domOf s k.val).lastReq = some x → x + intervalNs (domOf s k.val).reqInterval ≤ nowNs s) →
      ∃ t, exec (.ptpDelayReqSend k t3) s = .next t ∧
        domOf t k.val = { domOf s k.val with reqT3 := some (t3 * 16384), lastReq := some (nowNs s),
                                             reqs := (domOf s k.val).reqs + 1 } ∧
        { t with tim := s.tim } = s) ∧
    (tracksMedia (domOf s k.val) = false ∨ (∃ x, (domOf s k.val).lastReq = some x ∧
        nowNs s < x + intervalNs (domOf s k.val).reqInterval) → exec (.ptpDelayReqSend k t3) s = .next s)) ∧
  (∀ (n t3 t4 k : Nat) (li : Int) (p : SyncMsg) (s : State), s.modes.mode ≠ .boot → slotsOf s n = [k] →
    s.tim.domains.length = 2 → (domOf s k).lastSync = some p → (domOf s k).reqT3 = some (t3 * 16384) →
    (mediaHears s (domOf s k).source = false → exec (.ptpDelayRespRx n t3 t4 li) s = .next s) ∧
    (mediaHears s (domOf s k).source = true → ∃ t, exec (.ptpDelayRespRx n t3 t4 li) s = .next t ∧ domOf t k = { domOf s k with
      pathDelay := ((((p.stamp : Int) - (p.origin * 65536 + p.correction : Nat)) + ((t4 : Int) - (t3 * 16384 : Nat))) / 2).toNat
      reqInterval := li, reqT3 := none } ∧ { t with tim := s.tim } = s)) ∧
  (∀ (k : Fin 2) (s : State), s.tim.domains.length = 2 →
    let d := domOf s k.val
    let due : Prop := (d.state = 2 ∨ d.state = 3 ∨ d.state = 5) ∧
      d.lastAnnounce + (if d.source = 2 then 750000000 else d.timeoutNs) ≤ nowNs s
    (¬ due → exec (.announceTimeout k) s = .next s) ∧
    (due → ∃ t, exec (.announceTimeout k) s = .next t ∧ (domOf t k.val).state = 4 ∧
      domOf t (1 - k.val) = domOf s (1 - k.val) ∧ t.tim.now = s.tim.now ∧ t.tim.phase = s.tim.phase ∧
      t.chans = s.chans ∧
      (s.tim.selected = some k.val → s.tim.state = 1 ∨ s.tim.state = 3 → s.ctl.restart.active = false →
        s.tim.manual = none →
        ((domOf s (1 - k.val)).state = 3 → t.tim.selected = some (1 - k.val) ∧ t.tim.holdover = 0) ∧
        ((domOf s (1 - k.val)).state ≠ 3 → t.tim.state = 2 ∧ t.tim.holdover = 1)) ∧
      (s.tim.selected = some k.val → s.tim.state = 1 ∨ s.tim.state = 3 → s.ctl.restart.active = true →
        t.tim.state = 2 ∧ t.tim.selected = some k.val))) ∧
  (∀ (inP : Fin 8) (p : FabPkt) (b : FabBody) (stay : Nat) (s : State),
    (linkUp s inP.val = false ∨ (p.type ≠ 3 ∧ p.type ≠ 4) → exec (.fabTimePacketRx inP p b stay) s = .next s) ∧
    (linkUp s inP.val = true → p.type = 3 ∨ p.type = 4 →
      exec (.fabTimePacketRx inP p b stay) s =
        .next (routePacket (some inP.val) { p with body := stayingBody stay b } s)) ∧
    (∀ (m : SyncMsg) (old k : Nat), linkUp s inP.val = true → p.type = 3 → headerBad p = false →
      p.level ≤ linkLevel (fport s inP.val) → p.dr = false → p.mcast = true → b = .sync m old →
      bitAt (tabGet 0 s.fab.mcast p.group) 8 = true → s.tim.domains.length = 2 → slotsOf s m.domain = [k] →
      (fport s inP.val).delays.length = 16 →
      ∃ t, exec (.fabTimePacketRx inP p b stay) s = .next t ∧
        (m.twoStep = false → heardOnMedia s k = true → t.tim.domains = s.tim.domains) ∧
        (m.twoStep = true → ∃ q, tabGet? (domOf t k).fabSync p.src = some q ∧
          q.correction = m.correction + linkDelay (fport s inP.val) ∧ (domOf t k).state = (domOf s k).state) ∧
        (m.twoStep = false → heardOnMedia s k = false → (domOf s k).state = 1 → (domOf t k).state = 2 ∧
          (domOf t k).source = 2 ∧ (domOf t k).lastAnnounce = nowNs s ∧
          ∃ q, (domOf t k).lastSync = some q ∧ q.correction = m.correction + linkDelay (fport s inP.val)))) ∧
  ∀ (k : Fin 2) (s : State),
    (∀ p, (domOf s k.val).lastSync = some p → s.tim.sources.contains (domOf s k.val).number = true →
      (domOf s k.val).state = 3 → (domOf s k.val).source < 2 →
      let q := { p with source := 2, twoStep := true,
                        correction := p.correction + (domOf s k.val).pathDelay + (s.tim.now - p.stamp) }
      ∃ t, exec (.fabTimeSourceSend k) s = .next t ∧
        t = sendTime 4 (.followUp (domOf s k.val).number p.identity p.seq p.origin 0) (sendTime 3 (.sync q 0) s) ∧
        t.tim = s.tim ∧ t.chans = s.chans ∧ t.outputs = s.outputs) ∧
    ((domOf s k.val).state ≠ 3 ∨ 2 ≤ (domOf s k.val).source ∨ s.tim.sources.contains (domOf s k.val).number = false →
      exec (.fabTimeSourceSend k) s = .next s)

/-- R146 to R149, R154, R156, R159, R163, R164: the first word of TIM_NOW and of TIM_PPS_IN latches the register; a slew
ends below 1 ns; the pending step is made only while device time free-runs and no channel is active; edges are
stamped where the direction takes them; a link's timing exchange gives the mean of the four stamps, of which the
last 16 are kept; a frame with a bad CRC is discarded and counted. Timers that run over a step keep what they have
measured (assumption log 15). -/
def Obligations.DeviceTimeLatchesAndStamps : Prop :=
  (∀ (s : State), ∃ t, exec .timeCopyUpdate s = .next t ∧ t.tim.copies.length = s.tim.copies.length ∧
    (∀ i c, s.tim.copies[i]? = some c → c.delay = Config.pathDelay i → Config.pathDelay i ≤ s.tim.now →
      t.tim.copies[i]? = some { value := s.tim.now, phase := s.tim.phase, rate := s.tim.freq + slewStep s.tim,
                                delay := c.delay }) ∧
    { t with tim := { t.tim with copies := s.tim.copies } } = s) ∧
  (∀ (m : Master) (s : State),
    (regPath s m = true → ∃ t, exec (.timNowLatch m) s = .next t ∧ t.tim.latched = s.tim.now ∧
      t.tim.latchedState = s.tim.state ∧ t.last = { value := BitVec.ofNat 64 (s.tim.now % 4294967296), abort := false } ∧
      { t with tim := s.tim, last := s.last } = s ∧ { t.tim with latched := s.tim.latched, latchedState := s.tim.latchedState } = s.tim) ∧
    (regPath s m = false → exec (.timNowLatch m) s = .next (aborted (busError m false (regAddr 0x20000) s))) ∧
    (regPath s m = true → ∃ t, exec (.timPpsInLatch m) s = .next t ∧ t.tim.ppsLatch = s.tim.ppsAt ∧
      t.tim.ppsLatchCount = s.tim.ppsCount ∧
      t.last = { value := BitVec.ofNat 64 (s.tim.ppsAt % 4294967296), abort := false } ∧
      { t with tim := s.tim, last := s.last } = s) ∧
    (regPath s m = false → exec (.timPpsInLatch m) s = .next (aborted (busError m false (regAddr 0x20010) s)))) ∧
  (∀ (s : State) (k : Nat), s.tim.selected = some k →
    (s.tim.state = 3 → (domOf s k).ahead.natAbs < 4294967296 →
      exec .slewComplete s = .next { s with tim := { s.tim with state := 1 } }) ∧
    (s.tim.state ≠ 3 ∨ 4294967296 ≤ (domOf s k).ahead.natAbs → exec .slewComplete s = .next s)) ∧
  (∀ (s : State),
    (s.tim.state ≠ 0 ∨ 0 < activeCount s ∨ ((domOf s 0).state ≠ 5 ∧ (domOf s 1).state ≠ 5) →
      exec .timeStep s = .next s) ∧
    (s.tim.state = 0 → activeCount s = 0 → s.tim.domains.length = 2 → (domOf s 0).state = 5 →
      ∃ t, exec .timeStep s = .next t ∧ (domOf t 0).state = 3 ∧ t.tim.state ≠ 0 ∧
        t.tim.now = ((s.tim.now * 65536 + s.tim.phase : Nat) + (domOf s 0).ahead : Int).toNat / 65536 ∧
        t.chans = s.chans ∧ t.mem.dram = s.mem.dram ∧ t.ledger.periodStart = nextPeriod
          (((s.tim.now * 65536 + s.tim.phase : Nat) + (domOf s 0).ahead : Int).toNat / 65536))) ∧
  (∀ (stamp : Nat) (s : State),
    (s.tim.ppsDir = 1 ∨ s.tim.ppsDir = 3 → exec (.ppsInEdge stamp) s = .next { s with tim := { s.tim with
      ppsAt := stamp * 16384, ppsCount := (s.tim.ppsCount + 1) % 65536 } }) ∧
    (s.tim.ppsDir = 0 ∨ s.tim.ppsDir = 2 → exec (.ppsInEdge stamp) s = .next s) ∧
    (s.tim.refDir = 1 ∨ s.tim.refDir = 3 → ∃ t, exec (.ref10InEdge stamp) s = .next t ∧
      t.tim.refPhase = (if stamp % 400 < 200 then ((stamp % 400 : Nat) : Int)
        else ((stamp % 400 : Nat) : Int) - 400) ∧ t.tim.refEdges.getLast? = some (stamp * 16384) ∧
      { t with tim := s.tim } = s) ∧
    (s.tim.refDir = 0 ∨ s.tim.refDir = 2 → exec (.ref10InEdge stamp) s = .next s)) ∧
  (∀ (s : State), (s.tim.ppsDir = 2 ∨ s.tim.ppsDir = 3 → ∃ t, exec .ppsOutPulse s = .next t ∧
      t.tim.ppsRose = nowNs s / 1000000000 * 1000000000 ∧ { t with tim := s.tim } = s) ∧
    (s.tim.ppsDir = 0 ∨ s.tim.ppsDir = 1 → exec .ppsOutPulse s = .next s)) ∧
  ∀ (p : Fin 8) (s : State),
    (portState s p.val ≠ 0 → (∀ q a b, ∃ t, exec (.timingRequest ⟨p, false⟩ q a b) s = .next t ∧
        fport t p.val = { fport s p.val with mrkDrop := rcAdd 65535 1 (fport s p.val).mrkDrop } ∧
        { t with fab := s.fab } = s) ∧
      ∀ q a b, ∃ t, exec (.timingResponse ⟨p, false⟩ q a b) s = .next t ∧
        fport t p.val = { fport s p.val with mrkDrop := rcAdd 65535 1 (fport s p.val).mrkDrop } ∧
        { t with fab := s.fab } = s) ∧
    (linkUp s p.val = false → exec (.linkTimingExchange p) s = .next s ∧
      (∀ q a b, exec (.timingRequest ⟨p, true⟩ q a b) s = .next s) ∧ ∀ q a b, exec (.timingResponse ⟨p, true⟩ q a b) s = .next s) ∧
    (linkUp s p.val = true →
      (∃ t, exec (.linkTimingExchange p) s = .next t ∧ fport t p.val = { fport s p.val with
        timeSeq := ((fport s p.val).timeSeq + 1) % 256, timeT1 := s.tim.now / 16384
        linkSent := (fport s p.val).linkSent ++ [(1, linkBody (u8 (((fport s p.val).timeSeq + 1) % 256)))] } ∧
        (∀ k, k ≠ p.val → fport t k = fport s k) ∧ { t with fab := s.fab } = s) ∧
      (∀ q a b, ∃ t, exec (.timingRequest ⟨p, true⟩ q a b) s = .next t ∧ fport t p.val = { fport s p.val with
        linkSent := (fport s p.val).linkSent ++ [(2, linkBody (u8 q ++ u32 (b - a)))] } ∧ { t with fab := s.fab } = s) ∧
      ∀ turn t4, ∃ t, exec (.timingResponse ⟨p, true⟩ (fport s p.val).timeSeq turn t4) s = .next t ∧
        (fport t p.val).delays.getLast? = some (t4 - (fport s p.val).timeT1 - turn) ∧
        (fport t p.val).delays.length ≤ 16 ∧
        ((fport s p.val).delays.length ≤ 15 → (fport t p.val).delays.length = (fport s p.val).delays.length + 1) ∧
        { t with fab := s.fab } = s)

/-! ### The fabric (R357 to R407) -/

/-- R52, R54, R372, R374, R378, R385, R386, R402: FAB.STATUS reports the ports, the manager and the nodes; FAB.PORT
refuses POWER 2 by mode before it checks values, places a port in port-off, keep-alive or full, one in port-off
waiting for its turn to relock; a priority of 255 makes this module no candidate; FAB.ROUTE holds its pages and
writes the tables when CURSOR ends a complete load. -/
def Obligations.FabricCommands : Prop :=
  (∀ r s, accepted sFabStatus r s → exec (.fabStatus r) s = .next (okAnswer sFabStatus r
    [tlvB 0x0701 ((List.range 8).map (portReport s)).flatten,
     tlv 0x0702 2 (match s.fab.office with | some o => o.1 | none => 0xFFFF), tlv 0x0703 2 (nodeCount s)] s)) ∧
  (∀ r s, accepted sFabPort r s →
    let p := tlvD r 0x0710 0
    let w := tlvD r 0x0711 0
    let early : Prop := w = 2 ∧ s.modes.mode ≠ .ready ∧ s.modes.mode ≠ .operate ∧ s.modes.mode ≠ .dormant
    (early → exec (.fabPort r) s = .next (refusal sFabPort r 2 (modeCode s.modes.mode * 256 + 0xFF) s)) ∧
    (¬ early → 7 < p → exec (.fabPort r) s = .next (refusal sFabPort r 5 0x0710 s)) ∧
    (¬ early → p ≤ 7 → 2 < w → exec (.fabPort r) s = .next (refusal sFabPort r 5 0x0711 s)) ∧
    (¬ early → p ≤ 7 → w ≤ 2 → fabOn s p = false ∨ (w = 2 ∧ (fport s p).devKeep = true) → exec (.fabPort r) s =
      .next (refusal sFabPort r 2 (modeCode s.modes.mode * 256 + 0xFF) s)) ∧
    (¬ early → p ≤ 7 → fabOn s p = true → w = 2 → (fport s p).devKeep = false →
      ∃ t, exec (.fabPort r) s = .next (okAnswer sFabPort r [] t) ∧ portState t p = 0 ∧
        (∀ q ∈ t.modes.relocking, q ≠ .fab (Fin.ofNat 8 p)) ∧
        ((fport s p).hostOff = false → (fport t p).reason = 6) ∧
        ((fport s p).hostOff = false → linkUp s p = true → (fport t p).linkSent = (fport s p).linkSent ++
          [(7, linkBody (u8 2 ++ u8 0 ++ u64 s.fuses.uid))])) ∧
    (p ≤ 7 → fabOn s p = true → w ≤ 1 → ∃ t, exec (.fabPort r) s = .next (okAnswer sFabPort r [] t) ∧
      (fport t p).hostKeep = decide (w = 1) ∧
      ((fport s p).hostOff = true → .fab (Fin.ofNat 8 p) ∈ t.modes.relocking ∧
        { t with fab := s.fab, modes := s.modes } = s ∧
        (s.modes.relocking = [] → (fport t p).hostOff = false ∧ portState t p = 1)) ∧
      ((fport s p).hostOff = false → (∀ k, k ≠ p → fport t k = fport s k) ∧ { t with fab := s.fab } = s ∧
        (w = 1 → portState s p = 4 → (fport t p).powerWant = some 1 ∧
          ((fport s p).replay = [] → (fport t p).linkSent = (fport s p).linkSent ++
            [(7, linkBody (u8 1 ++ u8 0 ++ u64 s.fuses.uid))])) ∧
        (w = 0 → portState s p = 5 → (fport t p).powerWant = some 0 ∧ (fport t p).linkSent =
          (fport s p).linkSent ++ [(7, linkBody (u8 0 ++ u8 0 ++ u64 s.fuses.uid))])))) ∧
  (∀ r s, accepted sFabPriority r s → ∃ t, exec (.fabPriority r) s = .next (okAnswer sFabPriority r [] t) ∧
    t.fab.priority = tlvD r 0x0720 0 ∧ t.fab.cands = s.fab.cands ∧
    (255 ≤ tlvD r 0x0720 0 → (∀ c ∈ s.fab.cands, c.uid ≠ s.fuses.uid) →
      t.fab.manager = false ∧ t.fab.selfSince = none) ∧ { t with fab := s.fab } = s) ∧
  (∀ r s, accepted sFabRoute r s → tlvAll r 0x0730 = [] → getTlv r 0x0731 = none →
    exec (.fabRoute r) s = .next (refusal sFabRoute r 5 0x0730 s)) ∧
  ∀ r s v, accepted sFabRoute r s → tlvAll r 0x0730 = [v] →
    let g := pageOf v
    (pageBad s v = true → exec (.fabRoute r) s = .next (refusal sFabRoute r 5 0x0730 s)) ∧
    (pageBad s v = false → getTlv r 0x0731 = none → s.fab.pages = [] →
      ∃ t, exec (.fabRoute r) s = .next (okAnswer sFabRoute r [] t) ∧ t.fab.pages = [g] ∧
        t.fab.ucast = s.fab.ucast ∧ t.fab.mcast = s.fab.mcast ∧ { t with fab := s.fab } = s) ∧
    (pageBad s v = false → getTlv r 0x0731 = some 0 →
      exec (.fabRoute r) s = .next (refusal sFabRoute r 5 0x0731 s)) ∧
    (pageBad s v = false → getTlv r 0x0731 = some 1 → s.fab.pages = [] → g.page = 0 → g.kind = 0 →
      ∃ t, exec (.fabRoute r) s = .next (okAnswer sFabRoute r [] t) ∧ t.fab.pages = [] ∧ t.fab.lastEpoch = g.epoch ∧
        (∀ i, i < g.entries.length → tabGet 0 t.fab.ucast (g.first + i) = g.entries.getD i 0) ∧
        (∀ n, n < g.first ∨ g.first + g.entries.length ≤ n → tabGet 0 t.fab.ucast n = tabGet 0 s.fab.ucast n) ∧
        t.fab.mcast = s.fab.mcast ∧ t.fab.dateline = g.dateline)

/-- R363 to R371: the steps of a bring-up: CK locks; a lane below 64 is unusable; a slip moves a lane's boundary; lanes
that lag by more than 24 symbols are unusable and crossed lanes fail the port; the port is UP when both ends propose
the same set of R368. In service a failing or retired lane leaves the active set, and loss of CK takes the port to
DOWN. -/
def Obligations.LinkBringUpAndWidth : Prop :=
  (∀ (p : Fin 8) (s : State),
    (portState s p.val = 1 → ∃ t, exec (.ckLock p) s = .next t ∧
      fport t p.val = { fport s p.val with state := 1, ckLocked := true } ∧
      (∀ k, k ≠ p.val → fport t k = fport s k) ∧ { t with fab := s.fab } = s) ∧
    (portState s p.val ≠ 1 → exec (.ckLock p) s = .next s)) ∧
  (∀ (p : Fin 8) (foms : List Nat) (inv com : List Bool) (s : State), portState s p.val = 1 →
    (fport s p.val).ckLocked = true → (fport s p.val).lanes.length = 4 →
    ∃ t, exec (.laneAdaptDone p foms inv com) s = .next t ∧
      (∀ i, i < 4 → (laneAt t p.val i).lock = decide (64 ≤ foms.getD i 0) ∧
        (laneAt t p.val i).usable = (decide (64 ≤ foms.getD i 0) && !(laneAt s p.val i).retired) ∧
        (laneAt t p.val i).commaOk = com.getD i false) ∧
      (s.ctl.fwRunning = false → (fport t p.val).state = 2) ∧
      (s.ctl.fwRunning = true → (∀ i, i < 4 → (laneAt t p.val i).usable = false) →
        (fport t p.val).state = 6 ∧ (fport t p.val).reason = 2) ∧
      (s.ctl.fwRunning = true → (∃ i, i < 4 ∧ (laneAt t p.val i).usable = true) →
        ((∀ i, i < 4 → (laneAt t p.val i).usable = true → com.getD i false = true) → (fport t p.val).state = 3) ∧
        ((∃ i, i < 4 ∧ (laneAt t p.val i).usable = true ∧ com.getD i false = false) → (fport t p.val).state = 2))) ∧
  (∀ (p : Fin 8) (l : Fin 4) (m : Master) (v : Word32) (comma : Bool) (s : State),
    let x := laneAt s p.val l.val
    let addr := regAddr (0x80000 + 0x100 * p.val + 8 * l.val)
    (m ≠ .cpuData → exec (.slip p l m v comma) s = .next (busError m true addr s) ∧
      exec (.retrain p l m v) s = .next (busError m true addr s) ∧
      exec (.retire p l m v) s = .next (busError m true addr s)) ∧
    (m = .cpuData → (fport s p.val).lanes.length = 4 →
      (v.getLsbD 31 = true → v.getLsbD 30 = false → v.getLsbD 0 = false → x.lock = true → x.active = false →
        ∃ t, exec (.slip p l m v comma) s = .next t ∧ (laneAt t p.val l.val).slips = min 9 (x.slips + 1) ∧
          (laneAt t p.val l.val).commaOk = comma ∧
          (laneAt t p.val l.val).usable = (x.usable && (comma || decide (x.slips < 8)))) ∧
      (v.getLsbD 31 = false → v.getLsbD 30 = true → v.getLsbD 0 = false → x.active = false →
        ∃ t, exec (.retrain p l m v) s = .next t ∧ (laneAt t p.val l.val).lock = false ∧
          (laneAt t p.val l.val).usable = false ∧ (portState s p.val = 6 → portState t p.val = 1)) ∧
      (v.getLsbD 31 = false → v.getLsbD 30 = true → v.getLsbD 0 = false → x.active = true →
        ∃ t, exec (.retrain p l m v) s = .next t ∧ laneAt t p.val l.val = { x with retired := false }) ∧
      (v.getLsbD 31 = false → v.getLsbD 30 = false → v.getLsbD 0 = true →
        ∃ t, exec (.retire p l m v) s = .next t ∧ (laneAt t p.val l.val).retired = true ∧
          (laneAt t p.val l.val).active = false))) ∧
  (∀ (p : Fin 8) (lags ids : List Nat) (s : State), portState s p.val = 3 → (fport s p.val).lanes.length = 4 →
    (∀ l ∈ (fport s p.val).lanes, l.deskewed = false) →
    let used (i : Nat) : Prop := i < 4 ∧ (laneAt s p.val i).usable = true ∧ (laneAt s p.val i).commaOk = true
    ∃ t, exec (.deskewDone p lags ids) s = .next t ∧
      (∀ i j, used i → used j → lags.getD j 0 + 24 < lags.getD i 0 → (laneAt t p.val i).usable = false) ∧
      ((∀ i, used i → ids.getD i 0 % 4 = i) → (fport t p.val).state = 3 ∧
        (fport t p.val).linkSent = (fport s p.val).linkSent ++ [(6, linkBody (u8 (usableMap (fport t p.val)) ++
          u8 (fport t p.val).proposed ++ u8 (fport s p.val).generation))]) ∧
      (∀ i, used i → (∀ j, used j → lags.getD i 0 ≤ lags.getD j 0) → ids.getD i 0 % 4 ≠ i →
        (fport t p.val).state = 6 ∧ (fport t p.val).reason = 3)) ∧
  (∀ (p : Fin 8) (usable proposed gen : Nat) (s : State), (fport s p.val).lanes.length = 4 →
    let m := bestSet (usableMap (fport s p.val)) (usable % 16)
    (portState s p.val = 3 → m = 0 → ∃ t, exec (.width ⟨p, true⟩ usable proposed gen) s = .next t ∧
      (fport t p.val).state = 6 ∧ (fport t p.val).reason = 2) ∧
    (portState s p.val = 3 → m ≠ 0 → proposed ≠ m → ∃ t, exec (.width ⟨p, true⟩ usable proposed gen) s = .next t ∧
      (fport t p.val).state = 3 ∧ (fport t p.val).proposed = m) ∧
    (portState s p.val = 3 → m ≠ 0 → proposed = m → ∃ t, exec (.width ⟨p, true⟩ usable proposed gen) s = .next t ∧
      portState t p.val = 4 ∧ activeMap (fport t p.val) = m ∧
      (s.evt.fifo = [] → (∃ e ∈ t.evt.fifo, e.code = evFabLink) ∧
        (m ≠ 15 → ∃ e ∈ t.evt.fifo, e.code = evFabWidth ∧ e.data = eventData (u8 p.val ++ u8 0 ++ u8 m ++ u8 4)))) ∧
    (linkUp s p.val = true → m ≠ 0 → laneCount m ≤ laneCount (activeMap (fport s p.val)) ∨ s.ctl.fwRunning = true →
      ∃ t, exec (.width ⟨p, true⟩ usable proposed gen) s = .next t ∧ activeMap (fport t p.val) = m) ∧
    (portState s p.val ≠ 3 → linkUp s p.val = false → exec (.width ⟨p, true⟩ usable proposed gen) s = .next s)) ∧
  (∀ (p : Fin 8) (l : Fin 4) (fom codeErrs : Nat) (aln : Bool) (s : State), (fport s p.val).lanes.length = 4 →
    let failing : Prop := linkUp s p.val = true ∧ (laneAt s p.val l.val).active = true ∧
      (fom < 32 ∨ aln = true ∨ 16 < codeErrs)
    (failing → ∃ t, exec (.fomMeasure p l fom aln codeErrs) s = .next t ∧ (laneAt t p.val l.val).active = false ∧
      (laneAt t p.val l.val).usable = false) ∧
    (portState s p.val = 0 → exec (.fomMeasure p l fom aln codeErrs) s = .next s) ∧
    (portState s p.val ≠ 0 → ¬ failing → ∃ t, exec (.fomMeasure p l fom aln codeErrs) s = .next t ∧ laneAt t p.val l.val =
      { laneAt s p.val l.val with fom := min 255 fom, codeErr := rcAdd 4294967295 codeErrs (laneAt s p.val l.val).codeErr } ∧
      { t with fab := s.fab } = s)) ∧
  ∀ (p : Fin 8) (s : State),
    (linkUp s p.val = true → ∃ t, exec (.ckLoss p) s = .next t ∧ portState t p.val = 1 ∧
      (fport t p.val).reason = 1 ∧ (s.evt.fifo = [] → ∃ e ∈ t.evt.fifo, e.code = evFabLinkLost ∧
        e.data = eventData (u8 p.val ++ u8 1 ++ [0, 0] ++ u32 (fport s p.val).replay.length))) ∧
    (portState s p.val = 0 → exec (.ckLoss p) s = .next s) ∧
    (linkUp s p.val = false → portState s p.val ≠ 0 → ∃ t, exec (.ckLoss p) s = .next t ∧
      (fport t p.val).state = 1 ∧ (fport t p.val).ckLocked = false ∧ t.evt = s.evt)

/-- R371 to R377, R399: a numbered frame is taken only when it is good and next; anything else ahead of it gets a NAK;
an ACK frees the frames it covers; a NAK or 8 us without an ACK advance sends frames again, and after 8 resends the
link is lost; returned credits come back; a power change follows the peer's agreement or request; a link frame with
a bad CRC is discarded and counted, and a port that is off receives nothing. -/
def Obligations.LinkReplayCreditsAndPower : Prop :=
  (∀ (p : Fin 8) (seq : Nat) (good : Bool) (k : FabPkt) (s : State),
    let f := fport s p.val
    (linkUp s p.val = false → exec (.packetFrameRx p seq good k) s = .next s) ∧
    (linkUp s p.val = true → good = true → seq % 65536 = f.rxSeq → ∃ t, exec (.packetFrameRx p seq good k) s = .next t ∧
      (fport t p.val).rxSeq = (f.rxSeq + 1) % 65536 ∧
      (fport t p.val).linkSent = f.linkSent ++
        (if 16 ≤ f.sinceAck + 1 then [(3, linkBody (u16 (seq % 65536)))] else [])) ∧
    (linkUp s p.val = true → good = true → 32768 ≤ (seq % 65536 + 65536 - f.rxSeq) % 65536 →
      exec (.packetFrameRx p seq good k) s = .next s) ∧
    (linkUp s p.val = true → good = false ∨
        (seq % 65536 ≠ f.rxSeq ∧ (seq % 65536 + 65536 - f.rxSeq) % 65536 < 32768) →
      exec (.packetFrameRx p seq good k) s = .next (setFport p.val
        { f with linkSent := f.linkSent ++ [(4, linkBody (u16 f.rxSeq))] } s))) ∧
  (∀ (p : Fin 8) (seq : Nat) (s : State), linkUp s p.val = true → (fport s p.val).vcq = [] →
    (fport s p.val).powerWant = none →
    let keep := (fport s p.val).replay.filter fun e =>
      decide (0 < (e.1 + 65536 - seq % 65536) % 65536 ∧ (e.1 + 65536 - seq % 65536) % 65536 < 32768)
    (keep.length = (fport s p.val).replay.length → exec (.ack ⟨p, true⟩ seq) s = .next s) ∧
    (keep.length ≠ (fport s p.val).replay.length → ∃ t, exec (.ack ⟨p, true⟩ seq) s = .next t ∧
      fport t p.val = { fport s p.val with replay := keep, ackedAt := nowNs s, resendsNoAck := 0 } ∧
      { t with fab := s.fab } = s)) ∧
  (∀ (p : Fin 8) (seq : Nat) (s : State),
    let f := fport s p.val
    let es := f.replay.filter fun e => decide ((e.1 + 65536 - seq % 65536) % 65536 < 32768)
    (linkUp s p.val = false ∨ es = [] → exec (.nak ⟨p, true⟩ seq) s = .next s) ∧
    (linkUp s p.val = true → es ≠ [] → f.resendsNoAck < 8 → ∃ t, exec (.nak ⟨p, true⟩ seq) s = .next t ∧
      t.fab.sentPkts = s.fab.sentPkts ++ es.map (fun e => (p.val, e.1, e.2)) ∧ (fport t p.val).replay = f.replay ∧
      (fport t p.val).resendsNoAck = f.resendsNoAck + 1 ∧ (fport t p.val).replays = rcAdd 65535 1 f.replays ∧
      { t.ledger with lineUsed := s.ledger.lineUsed } = s.ledger) ∧
    (linkUp s p.val = true → es ≠ [] → 8 ≤ f.resendsNoAck → ∃ t, exec (.nak ⟨p, true⟩ seq) s = .next t ∧
      portState t p.val = 1 ∧ (fport t p.val).reason = 4) ∧
    (linkUp s p.val = false ∨ nowNs s < f.ackedAt + 8000 ∨ f.replay = [] → exec (.replayTimeout p) s = .next s) ∧
    (linkUp s p.val = true → f.ackedAt + 8000 ≤ nowNs s → f.replay ≠ [] → f.resendsNoAck < 8 →
      ∃ t, exec (.replayTimeout p) s = .next t ∧
        t.fab.sentPkts = s.fab.sentPkts ++ f.replay.map (fun e => (p.val, e.1, e.2)) ∧
        (fport t p.val).resendsNoAck = f.resendsNoAck + 1)) ∧
  (∀ (p : Fin 8) (s : State),
    (linkUp s p.val = true → 0 < (fport s p.val).sinceAck → ∃ t, exec (.ackTimer p) s = .next t ∧
      fport t p.val = { fport s p.val with sinceAck := 0, linkSent := (fport s p.val).linkSent ++
        [(3, linkBody (u16 (((fport s p.val).rxSeq + 65535) % 65536)))] } ∧
      { t with fab := s.fab } = s) ∧
    (linkUp s p.val = false ∨ (fport s p.val).sinceAck = 0 → exec (.ackTimer p) s = .next s) ∧
    (linkUp s p.val = true → ∃ t, exec (.creditReturnTimer p) s = .next t ∧
      fport t p.val = { fport s p.val with linkSent := (fport s p.val).linkSent ++
        [(5, linkBody (creditBytes (fport s p.val).freed))] } ∧
      { t with fab := s.fab } = s) ∧
    (linkUp s p.val = false → exec (.creditReturnTimer p) s = .next s)) ∧
  (∀ (p : Fin 8) (counts : List Nat) (s : State), (linkUp s p.val = false → exec (.creditReturn ⟨p, true⟩ counts) s = .next s) ∧
    (linkUp s p.val = true → (fport s p.val).vcq = [] → (fport s p.val).credits.length = 8 →
      ∃ t, exec (.creditReturn ⟨p, true⟩ counts) s = .next t ∧
        (∀ i, i < 8 → (fport t p.val).credits.getD i 0 = min (fullCredits.getD i 0) ((fport s p.val).credits.getD i 0 +
          (counts.getD i 0 % 4096 + 4096 - (fport s p.val).peerCounts.getD i 0) % 4096)) ∧
        { t with fab := s.fab } = s)) ∧
  (∀ (p : Fin 8) (c : Instr) (s : State), portState s p.val ≠ 0 →
    (∃ q, c = .ack ⟨p, false⟩ q) ∨ (∃ q, c = .nak ⟨p, false⟩ q) ∨ (∃ x, c = .creditReturn ⟨p, false⟩ x) ∨
      (∃ u m g, c = .width ⟨p, false⟩ u m g) ∨ (∃ q a u, c = .power ⟨p, false⟩ q a u) →
    ∃ t, exec c s = .next t ∧
      fport t p.val = { fport s p.val with mrkDrop := rcAdd 65535 1 (fport s p.val).mrkDrop } ∧
      (∀ k, k ≠ p.val → fport t k = fport s k) ∧ { t with fab := s.fab } = s) ∧
  ∀ (p : Fin 8) (acc uid : Nat) (s : State),
    (portState s p.val = 4 → (fport s p.val).powerWant = some 1 →
      ∃ t, exec (.power ⟨p, true⟩ 1 1 uid) s = .next t ∧ portState t p.val = 5) ∧
    (portState s p.val = 5 → (fport s p.val).powerWant = some 0 →
      ∃ t, exec (.power ⟨p, true⟩ 0 1 uid) s = .next t ∧ portState t p.val = 4) ∧
    (portState s p.val = 4 → (fport s p.val).powerWant = none → acc ≠ 1 →
      ∃ t, exec (.power ⟨p, true⟩ 1 acc uid) s = .next t ∧ portState t p.val = 5 ∧
        (fport t p.val).linkSent = (fport s p.val).linkSent ++ [(7, linkBody (u8 1 ++ u8 1 ++ u64 s.fuses.uid))]) ∧
    (portState s p.val = 0 → ∀ q g, exec (.power ⟨p, g⟩ q acc uid) s = .next s) ∧
    (portState s p.val ≠ 0 → acc ≠ 1 → ∃ t, exec (.power ⟨p, true⟩ 2 acc uid) s = .next t ∧ portState t p.val = 1 ∧
      (fport t p.val).reason = 5 ∧ (s.evt.fifo = [] → ∃ e ∈ t.evt.fifo, e.code = evFabLink))

/-- R379 to R381: who may write a check-value unit's registers, that a bound unit ignores writes and a busy one sets
ERR, LOAD_INIT, GO, the feed by DATA and from DRAM, which the ledger holds while its activity is used up and which
stops at poison, and ERR cleared by writing 1. -/
def Obligations.CheckValueUnits : Prop :=
  (∀ (n : Fin 16) (m : Master) (v : Word32) (w : Word64) (s : State),
    let c := cvAt s n.val
    (cvMaster n.val m = false →
      exec (.loadInit n m v) s = .next (busError m true (regAddr (0x81000 + 0x40 * n.val + 0x30)) s) ∧
      exec (.cvGo n m v) s = .next (busError m true (regAddr (0x81000 + 0x40 * n.val + 0x30)) s) ∧
      exec (.data n m w) s = .next (busError m true (regAddr (0x81000 + 0x40 * n.val + 0x20)) s) ∧
      exec (.cvErr n m v) s = .next (busError m true (regAddr (0x81000 + 0x40 * n.val)) s)) ∧
    (cvMaster n.val m = true → c.bound = true → exec (.loadInit n m v) s = .next s ∧ exec (.cvGo n m v) s = .next s ∧
      exec (.data n m w) s = .next s ∧ exec (.cvErr n m v) s = .next s) ∧
    (cvMaster n.val m = true → c.bound = false → c.busy = true →
      exec (.cvGo n m v) s = .next (setCv n.val { c with err := true } s) ∧
      exec (.loadInit n m v) s = .next (setCv n.val { c with err := true } s) ∧
      exec (.data n m w) s = .next (setCv n.val { c with err := true } s)) ∧
    (cvMaster n.val m = true → c.bound = false → c.busy = false →
      (v.getLsbD 31 = true → v.getLsbD 30 = false → ∃ t, exec (.loadInit n m v) s = .next t ∧
        (cvAt t n.val).value = c.init ∧ (cvAt t n.val).busy = false ∧ (cvAt t n.val).err = c.err) ∧
      (v.getLsbD 30 = true → memTop s < c.srcAddr + c.srcLen ∨ (14 ≤ n.val ∧ c.srcAddr < 1073741824) →
        ∃ t, exec (.cvGo n m v) s = .next t ∧ (cvAt t n.val).busy = false ∧ (cvAt t n.val).err = true) ∧
      (v.getLsbD 30 = true → c.srcAddr + c.srcLen ≤ memTop s → n.val < 14 ∨ 1073741824 ≤ c.srcAddr →
        ∃ t, exec (.cvGo n m v) s = .next t ∧ (cvAt t n.val).busy = true ∧ (cvAt t n.val).err = c.err ∧
          (cvAt t n.val).value = if v.getLsbD 31 then c.init else c.value) ∧
      (∃ t, exec (.data n m w) s = .next t ∧ cvAt t n.val = cvFeed c (le c.bytes w.toNat)) ∧
      ∃ t, exec (.cvErr n m v) s = .next t ∧ (cvAt t n.val).err = (c.err && !v.getLsbD 29) ∧
        (cvAt t n.val).refIn = v.getLsbD 11 ∧ (cvAt t n.val).refOut = v.getLsbD 12 ∧
        (cvAt t n.val).invert = v.getLsbD 13)) ∧
  ∀ (n : Fin 16) (s : State), let c := cvAt s n.val
    (c.busy = false → exec (.cvFeedDone n) s = .next s) ∧
    (c.busy = true → spent s (cvActivity n.val) = true → ∃ t, exec (.cvFeedDone n) s = .next t ∧ cvAt t n.val = c ∧
      { t with ledger := s.ledger } = s) ∧
    (c.busy = true → spent s (cvActivity n.val) = false → s.mem.poison = [] → ∃ t, exec (.cvFeedDone n) s = .next t ∧
      cvAt t n.val = { cvFeed c (byteNats (memReads s.mem.dram c.srcAddr c.srcLen)) with busy := false } ∧
      t.mem = s.mem) ∧
    (c.busy = true → spent s (cvActivity n.val) = false → ∀ q, s.mem.poison = [q] → c.srcAddr < (q + 1) * 64 → q * 64 < c.srcAddr + c.srcLen → 0 < c.srcLen →
      ∃ t, exec (.cvFeedDone n) s = .next t ∧ (cvAt t n.val).busy = false ∧ (cvAt t n.val).err = true)

/-- R161, R383 to R390, R392 to R407: HELLOs leave on every link; the claims heard decide the election; a candidate
takes office after 20 ms; the manager learns nodes, assigns addresses and computes tables of a new epoch; the router
delivers, forwards or discards a packet by its header and its entry; the manager books on every port of a route or
answers no; a lost node's claims and bookings are released. The routes themselves are the model's (assumption log
58). -/
def Obligations.ElectionRoutingAndNodes : Prop :=
  (∀ (s : State), ∃ t, exec .helloTimer s = .next t ∧
    t.fab.epoch = (if s.fab.priority < 255 then (s.fab.epoch + 1) % 4294967296 else s.fab.epoch) ∧
    t.fab.hellos.map Prod.fst = (List.range 8).filter (linkUp s) ∧
    ∀ e ∈ t.fab.hellos, e.2.uid = s.fuses.uid ∧ e.2.port = e.1 ∧ e.2.level = 2 ∧ e.2.ifRevMax = 3 ∧
      e.2.priority = s.fab.priority ∧ e.2.mode = modeCode s.modes.mode) ∧
  (∀ (p : Fin 8) (h : HelloMsg) (s : State), (linkUp s p.val = false → exec (.hello p h) s = .next s) ∧
    (linkUp s p.val = true → ∃ t, exec (.hello p h) s = .next t ∧ (fport t p.val).peerUid = h.uid ∧
      (fport t p.val).peerPort = h.port ∧ (fport t p.val).peerLevel = h.level ∧
      (h.candUid ≠ s.fuses.uid → h.candPriority < 255 → h.candUid = h.uid →
        (∀ c ∈ s.fab.cands, c.uid ≠ h.candUid) → ∃ c ∈ t.fab.cands, c.uid = h.candUid ∧
          c.priority = h.candPriority ∧ c.epoch = h.candEpoch ∧ c.distance = h.candDistance + 1 ∧
          c.heardAt = nowNs s ∧ c.node = h.node) ∧
      (h.candUid = s.fuses.uid → t.fab.cands = s.fab.cands))) ∧
  (∀ (uid : Nat) (s : State), ∃ t, exec (.candidateTimeout uid) s = .next t ∧
    t.fab.cands = s.fab.cands.filter (fun c => !(decide (c.uid = uid) && !candLive s c)) ∧ { t with fab := s.fab } = s) ∧
  (∀ (since : Nat) (s : State), s.fab.selfSince = some since →
    (s.ctl.fwRunning = true → s.fab.manager = false → ownCandidate s = true → since + 20000000 ≤ nowNs s →
      ∃ t, exec .managerTakeOffice s = .next t ∧ t.fab.manager = true ∧
        (s.evt.fifo = [] → ∃ e ∈ t.evt.fifo, e.code = evFabManager)) ∧
    (s.ctl.fwRunning = false ∨ s.fab.manager = true ∨ ownCandidate s = false ∨ nowNs s < since + 20000000 →
      exec .managerTakeOffice s = .next s)) ∧
  (∀ (s : State), s.fab.selfSince = none → exec .managerTakeOffice s = .next s) ∧
  (∀ (n : NodeReport) (s : State), (s.fab.manager = false ∨ s.ctl.fwRunning = false → exec (.portReport n) s = .next s) ∧
    (s.fab.manager = true → s.ctl.fwRunning = true → ∃ t, exec (.portReport n) s = .next t ∧ n ∈ t.fab.reports ∧
      (∀ r ∈ t.fab.reports, r = n ∨ (r.uid ≠ n.uid ∧ r ∈ s.fab.reports)) ∧ t.fab.ucast = s.fab.ucast ∧
      t.fab.assigned = s.fab.assigned ∧ t.chans = s.chans ∧ t.evt = s.evt)) ∧
  (∀ (node : Fin 512) (s : State), s.ctl.fwRunning = false → exec (.addressAssignment node) s = .next s) ∧
  (∀ (node : Fin 512) (s : State), s.ctl.fwRunning = true → ∃ t, exec (.addressAssignment node) s = .next t ∧ t.fab.valid = true ∧
    t.fab.node = node.val ∧ (s.fab.valid = false ∨ s.fab.node ≠ node.val → t.flash.mapDue = true) ∧
    (s.fab.valid = true → s.fab.node = node.val → t.evt = s.evt) ∧
    (s.fab.valid = true → s.fab.node ≠ node.val → s.evt.fifo = [] → ∃ e ∈ t.evt.fifo, e.code = evFabNode ∧
      e.data = eventData (u16 s.fab.node ++ u16 node.val))) ∧
  (∀ (s : State), (s.fab.manager = false ∨ s.ctl.fwRunning = false → exec .routeRecompute s = .next s) ∧
    (s.fab.manager = true → s.ctl.fwRunning = true → ∃ t, exec .routeRecompute s = .next t ∧
      t.fab.routeEpoch = s.fab.routeEpoch + 1 ∧ t.fab.lastEpoch = t.fab.routeEpoch ∧ t.fab.pages = [] ∧
      let as := assignAddrs s.fab.assigned (allNodes s)
      t.tim.sources = ((timeSources as (allNodes s)).filter fun e => decide (e.2 = t.fab.node)).map Prod.fst ∧
      ∀ a, addrOf as s.fuses.uid = some a →
        t.fab.valid = true ∧ t.fab.node = a ∧ tabGet 0 t.fab.ucast a = 0x2080 ∧
        ∀ m ∈ allNodes s, ∀ b, addrOf as m.uid = some b →
          tabGet 0 t.fab.ucast b = routeEntry (topoOf as (allNodes s)) a b)) ∧
  (∀ (q : Fin 8) (k : FabPkt) (s : State),
    (headerBad k = true ∨ linkLevel (fport s q.val) < k.level → ∃ t, exec (.routerForward (some q) k) s = .next t ∧
      t.fab.badHdr = rcAdd 65535 1 s.fab.badHdr ∧ t.fab.delivered = s.fab.delivered ∧
      t.fab.sentPkts = s.fab.sentPkts) ∧
    (headerBad k = false → k.level ≤ linkLevel (fport s q.val) → k.dr = false → k.type ≠ 5 → k.type ≠ 6 →
      k.mcast = false →
      let e := tabGet 0 s.fab.ucast k.dest
      (bitAt e 13 = true → tabGet? s.fab.rx (k.src * 4 + k.vc.val) = none →
        ∃ t, exec (.routerForward (some q) k) s = .next t ∧ t.fab.delivered = s.fab.delivered ++ [k] ∧
          tabGet? t.fab.rx (k.src * 4 + k.vc.val) = some ((k.seq + 1) % 65536)) ∧
      (∀ n, bitAt e 13 = true → tabGet? s.fab.rx (k.src * 4 + k.vc.val) = some n →
        32768 ≤ (k.seq + 65536 - n % 65536) % 65536 → ∃ t, exec (.routerForward (some q) k) s = .next t ∧
          t.fab.delivered = s.fab.delivered ∧ t.fab.dupDrop = rcAdd 65535 1 s.fab.dupDrop) ∧
      (bitAt e 13 = false → bitAt e 7 = false → ∃ t, exec (.routerForward (some q) k) s = .next t ∧
        t.fab.unroutable = rcAdd 65535 1 s.fab.unroutable ∧ t.fab.delivered = s.fab.delivered ∧
        t.fab.sentPkts = s.fab.sentPkts) ∧
      (bitAt e 13 = false → bitAt e 7 = true → portTakes s k.vc (bitsAt e 0 3) = true → 31 ≤ k.hops →
        ∃ t, exec (.routerForward (some q) k) s = .next t ∧ t.fab.hopDrop = rcAdd 65535 1 s.fab.hopDrop ∧
          t.fab.sentPkts = s.fab.sentPkts) ∧
      (bitAt e 13 = false → bitAt e 7 = true → portTakes s k.vc (bitsAt e 0 3) = true → k.hops < 31 →
        s.modes.mode = .dormant → k.vc ≠ 0 → ∃ t, exec (.routerForward (some q) k) s = .next t ∧
          t.fab.unroutable = rcAdd 65535 1 s.fab.unroutable ∧ t.fab.sentPkts = s.fab.sentPkts) ∧
      (bitAt e 13 = false → bitAt e 7 = true → portTakes s k.vc (bitsAt e 0 3) = true → k.hops < 31 →
        s.modes.mode ≠ .dormant ∨ k.vc = 0 → k.src ≠ s.fab.node → (fport s (bitsAt e 0 3)).vcq = [] →
        (fport s (bitsAt e 0 3)).credits = List.replicate 8 0 → ∃ t w, exec (.routerForward (some q) k) s = .next t ∧
          (fport t (bitsAt e 0 3)).vcq = [w] ∧ w.pkt.hops = k.hops + 1 ∧
          w.pkt.dest = k.dest ∧ w.pkt.seq = k.seq ∧ w.inPort = some q.val ∧ t.fab.delivered = s.fab.delivered))) ∧
  (∀ (q : Fin 8) (k : FabPkt) (s : State), headerBad k = false → k.level ≤ linkLevel (fport s q.val) → k.vc = 0 →
    k.type = 5 → k.tag ≠ 2 → k.route[k.hops + 1]? = none →
    ∃ t, exec (.directedRoutePacket (some q) k) s = .next t ∧
      t.fab.delivered = s.fab.delivered ++ [{ k with dr := true, back := k.back ++ [q.val] }]) ∧
  (∀ (node dest bytes : Nat) (s : State),
    (s.fab.manager = false ∨ s.ctl.fwRunning = false → exec (.bookingRequest node dest bytes) s = .next s) ∧
    (s.fab.manager = true → s.ctl.fwRunning = true →
      let path := routePath (topoOf s.fab.assigned (allNodes s)) 31 node dest
      ((∀ np ∈ path, bookedAt s.fab.bookings np + bytes ≤ bookableAt s s.fab.assigned np.1 np.2) →
        ∃ t, exec (.bookingRequest node dest bytes) s = .next t ∧ t.fab.answers = s.fab.answers ++ [(node, true)] ∧
          t.fab.bookings = s.fab.bookings ++ [{ node := node, dest := dest, bytes := bytes, ports := path }]) ∧
      ((∃ np ∈ path, bookableAt s s.fab.assigned np.1 np.2 < bookedAt s.fab.bookings np + bytes) →
        ∃ t, exec (.bookingRequest node dest bytes) s = .next t ∧ t.fab.answers = s.fab.answers ++ [(node, false)] ∧
          t.fab.bookings = s.fab.bookings))) ∧
  (∀ (g : Bool) (s : State), s.fab.wantBooking = none → exec (.bookingAnswer g) s = .next s ∧
    exec .bookingAnswerTimeout s = .next s) ∧
  (∀ (w : InWork) (s : State), s.fab.wantBooking = some w → s.mbx.heldAdmits = [] →
    (∃ t, exec (.bookingAnswer false) s = .next t ∧ t.fab.wantBooking = none ∧ t.chans = s.chans ∧
      t = answer w.opcode w.req stNoCapacity 4 (if w.opcode = 0x0201 then [delayTlv w.req s] else []) false { s with fab := { s.fab with wantBooking := none } }) ∧
    (s.fab.bookingSince + 10000000 ≤ nowNs s → exec .bookingAnswerTimeout s = exec (.bookingAnswer false) s) ∧
    (nowNs s < s.fab.bookingSince + 10000000 → exec .bookingAnswerTimeout s = .next s)) ∧
  (∀ (node : Fin 512) (uid : Nat) (s : State), ∃ t, exec (.nodeLost node uid) s = .next t ∧
    (∀ e ∈ t.fab.rx, e.1 / 4 ≠ node.val) ∧
    (∀ e ∈ t.mbx.slots, e.2.owner = some .fabric → e.2.ownerNode ≠ node.val) ∧ t.chans = s.chans ∧
    (s.evt.fifo = [] → ∃ e ∈ t.evt.fifo, e.code = evFabNodeLost ∧
      e.data = eventData (u16 node.val ++ [0, 0, 0, 0, 0, 0] ++ u64 uid))) ∧
  ∀ (node : Fin 512) (uid : Nat) (s : State), s.fab.assigned.find? (fun e => decide (e.1 = node.val)) = some (node.val, uid) →
    (s.fab.manager = false ∨ s.ctl.fwRunning = false → exec (.nodeLostTimeout node) s = .next s) ∧
    (uid = s.fuses.uid ∨ linkedTo s uid = true → ∃ t, exec (.nodeLostTimeout node) s = .next t ∧
      t.fab.bookings = s.fab.bookings ∧ t.fab.reports = s.fab.reports ∧ { t with fab := s.fab } = s) ∧
    (s.fab.manager = true → s.ctl.fwRunning = true → uid ≠ s.fuses.uid → linkedTo s uid = false →
      (tabGet? s.fab.lostSince node.val = none → ∃ t, exec (.nodeLostTimeout node) s = .next t ∧
        tabGet? t.fab.lostSince node.val = some (nowNs s) ∧ t.fab.bookings = s.fab.bookings ∧
        { t with fab := s.fab } = s) ∧
      ∀ x, tabGet? s.fab.lostSince node.val = some x →
        (nowNs s < x + 10000000 → ∃ t, exec (.nodeLostTimeout node) s = .next t ∧
          tabGet? t.fab.lostSince node.val = some x ∧ t.fab.bookings = s.fab.bookings ∧ { t with fab := s.fab } = s) ∧
        (x + 10000000 ≤ nowNs s → ∃ t, exec (.nodeLostTimeout node) s = .next t ∧
          (∀ b ∈ t.fab.bookings, b.node ≠ node.val) ∧ (∀ r ∈ t.fab.reports, r.uid ≠ uid) ∧
          t.fab.assigned = s.fab.assigned ∧ (s.evt.fifo = [] → ∃ e ∈ t.evt.fifo, e.code = evFabNodeLost)))

/-! ### Protection (R448 to R475) -/

/-- R448 to R453, R70, R472, R475: PROT.CONFIGURE forms a group on the shadow and asks the fabric manager for the
active's mirror; PROT.STATUS reports; PROT.DISSOLVE ends a group that is not in TAKEOVER; PROT.JOIN compares digest
and class; PROT.SETTING leaves a setting pending on the shadow; PROT.HANDOVER makes a RUNNING active MIGRATING and
starts the peer's channel. Answers of peers end the waits; a setting's acknowledgement after its limit comes too
late, and a DEV.INFO lets the requests kept for a peer go out. The order of PROT.SETTING's checks, the limits of the
waits and the peer's comparisons are the model's choices (assumption log 22). -/
def Obligations.ProtectionCommands : Prop :=
  (∀ r s f, accepted sProtConfigure r s → mustHold r s = false → s.mbx.heldAdmits = [] → (chan s r.channel).cfg = some f →
    let h := r.channel
    let g := groupFrom r s
    (1 < g.role → exec (.protConfigure r) s = .next (refusal sProtConfigure r 5 0x0801 s)) ∧
    (g.role ≤ 1 → roleFits s h g.role = false → exec (.protConfigure r) s = .next (refusal sProtConfigure r 2
      (modeCode s.modes.mode * 256 + stateCode (chan s h).state) s)) ∧
    (g.role ≤ 1 → roleFits s h g.role = true → group? s h ≠ none →
      exec (.protConfigure r) s = .next (refusal sProtConfigure r 1 0 s)) ∧
    (g.role ≤ 1 → roleFits s h g.role = true → group? s h = none →
      s.fab.valid = false ∨ (if g.role = 0 then g.active else g.shadow) ≠ s.fab.node ∨ g.active = g.shadow ∨
        g.active = g.witness ∨ g.shadow = g.witness →
      exec (.protConfigure r) s = .next (refusal sProtConfigure r 5 0x0801 s)) ∧
    (g.role ≤ 1 → roleFits s h g.role = true → group? s h = none → s.fab.valid = true →
      (if g.role = 0 then g.active else g.shadow) = s.fab.node → g.active ≠ g.shadow → g.active ≠ g.witness →
      g.shadow ≠ g.witness → g.active ≤ 511 → g.shadow ≤ 511 → g.witness ≤ 511 → g.peerChannel ≤ 63 → g.source ≤ 1 →
      (g.role = 1 → ¬(g.source = 1 ↔ f.input = 0xFFFF) →
        exec (.protConfigure r) s = .next (refusal sProtConfigure r 5 0x0806 s)) ∧
      (g.role = 1 → (g.source = 1 ↔ f.input = 0xFFFF) → ∃ t,
        exec (.protConfigure r) s = .next (okAnswer sProtConfigure r [] t) ∧ group? t h = some g ∧
          g.state = 0 ∧ g.joined = false ∧ (∀ k, k ≠ h → group? t k = group? s k) ∧ { t with prt := s.prt } = s) ∧
      (g.role = 0 → let c := { chan s h with
          mirrorBudget := mirrorBudgetOf f
          fabBudget := mirrorBudgetOf f + if g.source = 1 then relayBudgetOf f else 0 }
        (memBookable s < memBookedBut s h + chanMem c →
          exec (.protConfigure r) s = .next (refusal sProtConfigure r 6 3 s)) ∧
        (memBookedBut s h + chanMem c ≤ memBookable s → s.fab.office = none →
          exec (.protConfigure r) s = .next (refusal sProtConfigure r 6 4 s)) ∧
        (memBookedBut s h + chanMem c ≤ memBookable s → s.fab.office ≠ none → ∃ t w,
          exec (.protConfigure r) s = .next t ∧ t.fab.wantBooking = some w ∧ w.opcode = 0x0801 ∧ w.req = r ∧
            t.mbx.resps = s.mbx.resps ∧ t.prt = s.prt ∧ t.chans = s.chans)))) ∧
  (∀ r s f, accepted sProtStatus r s → (chan s r.channel).cfg = some f →
    exec (.protStatus r) s = .next (okAnswer sProtStatus r
      [tlv 0x0810 1 (groupStateOf s r.channel), tlv 0x0811 8 (lastCheckpoint s r.channel),
       tlv 0x0815 8 (f.delayNs - minDelay f (inputOf s f.input)), tlv 0x0816 8 (reserveNeed f)] s)) ∧
  (∀ r s, accepted sProtDissolve r s →
    (group? s r.channel = none → exec (.protDissolve r) s = .next (refusal sProtDissolve r 2
      (modeCode s.modes.mode * 256 + stateCode (chan s r.channel).state) s)) ∧
    ∀ g, group? s r.channel = some g →
      (g.state = 4 → exec (.protDissolve r) s = .next (refusal sProtDissolve r 1 0 s)) ∧
      (g.state ≠ 4 → g.role = 0 → ∃ t, exec (.protDissolve r) s = .next (okAnswer sProtDissolve r [] t) ∧
        group? t r.channel = none ∧ (chan t r.channel).state = (chan s r.channel).state ∧
        ∃ m, t.prt.sentLease = s.prt.sentLease ++ [(g.witness, 9, m), (g.shadow, 9, m)] ∧ m.activeNode = g.active ∧
          m.activeCh = r.channel ∧ m.epoch = g.epoch ∧ m.timeA = 0) ∧
      (g.state ≠ 4 → g.role = 1 → ∃ t, exec (.protDissolve r) s = .next (okAnswer sProtDissolve r [] t) ∧
        group? t r.channel = none ∧ active (chan t r.channel).state = false ∧
        (g.active, 9, leaseMsg r.channel g 0 0 0 0) ∈ t.prt.sentLease)) ∧
  (∀ r s g, accepted sProtJoin r s → group? s r.channel = some g → g.role = 0 → g.shadow = r.node →
    let d := (cfgDigest s r.channel).toNat
    (tlvD r 0x0830 0 ≠ d → exec (.protJoin r) s =
      .next (refusal sProtJoin r 5 0x0830 (setGroupState r.channel 0 s))) ∧
    (tlvD r 0x0830 0 = d → tlvD r 0x0831 0 ≠ s.hif.detClass → exec (.protJoin r) s =
      .next (refusal sProtJoin r 5 0x0831 (setGroupState r.channel 5 s))) ∧
    (tlvD r 0x0830 0 = d → tlvD r 0x0831 0 = s.hif.detClass → ∃ t x,
      exec (.protJoin r) s = .next (okAnswer sProtJoin r [] t) ∧ group? t r.channel = some x ∧ x.joined = true ∧
        x.state = 1 ∧ x.leaseReq = some (nowNs s) ∧
        ∃ m, t.prt.sentLease = s.prt.sentLease ++ [(g.witness, 1, m)] ∧ m.epoch = g.epoch)) ∧
  (∀ r s g f tag, accepted sProtSetting r s → group? s r.channel = some g → (chan s r.channel).cfg = some f →
    g.role = 1 → g.active = r.node →
    ((r.tlvs.map fun t => baseTag t.tag).filter fun t => settingTags.contains t) = [tag] →
    let e := tlvD r 0x0824 0
    ((chan s r.channel).pending.isSome = true → exec (.protSetting r) s = .next (refusal sProtSetting r 1 0 s)) ∧
    ((chan s r.channel).pending = none → nowNs s + capNs (periodT f) ≤ e →
      ∃ t, exec (.protSetting r) s = .next (okAnswer sProtSetting r [] t) ∧
        (let m : PendingMod := { index := tag % 256, value := tlvD r tag 0, effective := e, acked := true }
         chan t r.channel = { chan s r.channel with pending := some m }) ∧
        (∀ k, k ≠ r.channel → chan t k = chan s k) ∧ { t with chans := s.chans } = s)) ∧
  (∀ r s f, accepted sProtHandover r s → (chan s r.channel).cfg = some f → r.path ≠ .fabric →
    let h := r.channel
    let peer := tlvD r 0x0820 0
    let pic := tlvD r 0x0821 0
    ((chan s h).state = .migrating → exec (.protHandover r) s = .next (refusal sProtHandover r 1 0 s)) ∧
    ((chan s h).state ≠ .running → (chan s h).state ≠ .migrating → (chan s h).state ≠ .stopping →
      exec (.protHandover r) s = .next (refusal sProtHandover r 2
        (modeCode s.modes.mode * 256 + stateCode (chan s h).state) s)) ∧
    ((chan s h).state = .running → 511 < peer ∨ peer = s.fab.node →
      exec (.protHandover r) s = .next (refusal sProtHandover r 5 0x0820 s)) ∧
    ((chan s h).state = .running → peer ≤ 511 → peer ≠ s.fab.node → effectiveBad (chan s h) f pic = true →
      exec (.protHandover r) s = .next (refusal sProtHandover r 5 0x0821 s)) ∧
    ((chan s h).state = .running → peer ≤ 511 → peer ≠ s.fab.node → effectiveBad (chan s h) f pic = false →
      ∃ t, exec (.protHandover r) s = .next t ∧ (chan t h).state = .migrating ∧ (chan t h).handoverPic = pic ∧
        t.mbx.resps = s.mbx.resps ∧ (∃ m : PeerMsg, m.dest = peer ∧ m.opcode = 0x0803 ∧ m.channel = h ∧
          m.sender = some (handoverCfg s f) ∧ ((tabGet? s.fab.peers peer).isSome = true → t.prt.sentMbx = s.prt.sentMbx ++ [m]) ∧
          (tabGet? s.fab.peers peer = none → t.mbx.unsent = s.mbx.unsent ++ [m])) ∧
        ∃ w ∈ t.mbx.peerWaits, w.node = peer ∧ w.opcode = 0x0803 ∧ w.channel = h ∧ w.req = some r)) ∧
  (∀ r s f, accepted sProtHandover r s → (chan s r.channel).cfg = some f → r.path = .fabric →
    (chan s r.channel).state = .configured → f.role = .encode ∨ f.role = .transcode →
    anyOff s (chanPorts s f) = false →
    let pic := tlvD r 0x0821 0
    (∀ t, peerMismatch (handoverCfg s f) r.sender (Config.freeNat s.free) = some t →
      exec (.protHandover r) s = .next (refusal sProtHandover r 5 t s)) ∧
    (peerMismatch (handoverCfg s f) r.sender (Config.freeNat s.free) = none → pic < acceptedAt r s + capNs (periodT f) →
      exec (.protHandover r) s = .next (refusal sProtHandover r 5 0x0821 s)) ∧
    (peerMismatch (handoverCfg s f) r.sender (Config.freeNat s.free) = none → acceptedAt r s + capNs (periodT f) ≤ pic →
      s.modes.mode ≠ .drain → ∃ t, exec (.protHandover r) s = .next (okAnswer sProtHandover r [] t) ∧
        (chan t r.channel).state = .starting ∧ (chan t r.channel).startTime = pic ∧
        (chan t r.channel).continueDue = true ∧ (chan t r.channel).handoverPeer = some r.node)) ∧
  (∀ (n o c st d : Nat) (ts : List Tlv) (s : State), waitFor s n o c = none → exec (.mailboxResponse n o c ⟨st, d⟩ ts) s = .next s ∧
    exec (.peerCommandTimeout n o c) s = .next s) ∧
  ∀ (n c st d : Nat) (ts : List Tlv) (s : State),
    (∀ w v, waitFor s n 0x0101 c = some w → ts.find? (fun x => decide (x.tag = 0x0107)) = some v →
      ∃ t, exec (.mailboxResponse n 0x0101 c ⟨st, d⟩ ts) s = .next t ∧ tabGet? t.fab.peers n = some v.val ∧
        (∀ m ∈ t.mbx.unsent, m.dest ≠ n) ∧
        t.prt.sentMbx.length = s.prt.sentMbx.length + (s.mbx.unsent.filter fun m => decide (m.dest = n)).length) ∧
    (∀ w r, waitFor s n 0x0806 c = some w → w.req = some r → w.limit < nowNs s →
      ∃ t, exec (.mailboxResponse n 0x0806 c ⟨st, d⟩ ts) s = .next (answer 0x0204 r stTimeout n [] false t) ∧
        (chan t c).pending = none) ∧
    (∀ w r, waitFor s n 0x0806 c = some w → w.req = some r → nowNs s ≤ w.limit →
      ∃ t, exec (.mailboxResponse n 0x0806 c ⟨st, d⟩ ts) s = .next (answer 0x0204 r st d [] false t) ∧
        (st = stOk → (chan t c).pending = (chan s c).pending.map fun m => { m with acked := true }) ∧
        (st ≠ stOk → (chan t c).pending = none) ∧ t.mbx.peerWaits = s.mbx.peerWaits.erase w) ∧
    (∀ w g, waitFor s n 0x0805 c = some w → group? s c = some g →
      ∃ t x, exec (.mailboxResponse n 0x0805 c ⟨st, d⟩ ts) s = .next t ∧ group? t c = some x ∧
        (st = stOk → x.joined = true ∧ x.state = 1 ∧ (chan t c).flag = 1) ∧
        (st ≠ stOk → x.state = if d = 0x0831 then 5 else 0) ∧ t.mbx.peerWaits = s.mbx.peerWaits.erase w) ∧
    (∀ w, waitFor s n 0x0803 c = some w → (chan s c).state = .migrating → st ≠ stOk → s.modes.mode ≠ .drain →
      handoverWait s c = some w → ∃ t, exec (.mailboxResponse n 0x0803 c ⟨st, d⟩ ts) s = .next t ∧
        (chan t c).state = .running ∧ (chan t c).handoverPeer = none ∧
        t.mbx.peerWaits = s.mbx.peerWaits.erase w ∧
        (s.evt.fifo = [] → ∃ e ∈ t.evt.fifo, e.code = evHandoverFailed ∧ e.channel = c)) ∧
    ∀ o w, waitFor s n o c = some w →
      (nowNs s < w.limit → exec (.peerCommandTimeout n o c) s = .next s) ∧
      (w.limit ≤ nowNs s → ∃ t, exec (.peerCommandTimeout n o c) s = .next t ∧
        exec (.mailboxResponse n o c ⟨stTimeout, w.node⟩ []) s = .next t)

/-- R67, R459, R460, R462, R464, R465, R475: heartbeats reach every module that shares a group; what they tell a witness
and a coding member; a silent member; the witness's duty, RENEW from the active's own send time, SUSPECT, the
guarded GRANT and the end of an entry; what a copy of RELEASE does at a shadow; and the active's lease, which fences
it when it runs out, and its move to a new witness. -/
def Obligations.HeartbeatsAndLeases : Prop :=
  (∀ (x : Nat) (s : State), s.prt.croakAt = some x → nowNs s < x + 50000 → exec .croakTimer s = .next s) ∧
  (∀ (s : State), (∀ x, s.prt.croakAt = some x → x + 50000 ≤ nowNs s) → ∃ t, exec .croakTimer s = .next t ∧
    { t with prt := s.prt, fab := s.fab, ledger := s.ledger } = s ∧
    t.prt.croakAt = some (nowNs s) ∧ t.prt.groups = s.prt.groups ∧ t.prt.witnesses = s.prt.witnesses ∧
    ∀ n ∈ groupNodes s, ∃ m, (n, m) ∈ t.prt.sentCroak ∧ m.sender = s.fab.node ∧ m.sendTime = nowNs s ∧
      m.mode = modeCode s.modes.mode) ∧
  (∀ (c : CroakMsg) (e : CroakEntry) (w : Witness) (s : State), c.entries = [e] → s.prt.groups = [] →
    witness? s e.activeNode e.activeCh = some w → e.role = 0 → w.activeNode = c.sender →
    ∃ t x, exec (.croak c) s = .next t ∧ witness? t e.activeNode e.activeCh = some x ∧ x.heard = some c.sendTime ∧
      x.heardAt = nowNs s ∧ x.suspected = false ∧
      x.through = (if e.through = 4294967295 then w.through else c.sendTime - e.through) ∧ x.epoch = w.epoch ∧
      { t with prt := s.prt } = s) ∧
  (∀ (c : CroakMsg) (e : CroakEntry) (h : Nat) (g : Group) (s : State), c.entries = [e] → s.prt.groups = [(h, g)] →
    s.prt.witnesses = [] → e.activeNode = g.active → e.activeCh = activeHandle h g →
    (e.role = 0 → g.role = 1 → g.active = c.sender → g.shadow ≠ c.sender → g.witness ≠ c.sender → g.activeSilent = false →
      ∃ t x, exec (.croak c) s = .next t ∧ group? t h = some x ∧ x.activeHeard = some (nowNs s) ∧
        x.activeSend = max g.activeSend c.sendTime ∧ x.activeSilent = false) ∧
    (e.role = 1 → g.role = 0 → g.shadow = c.sender → g.active ≠ c.sender → e.state ≠ 4 →
      ∃ t x, exec (.croak c) s = .next t ∧ group? t h = some x ∧ x.shadowHeard = some (nowNs s) ∧
        x.state = e.state) ∧
    (e.role = 1 → g.role = 0 → g.shadow = c.sender → g.active ≠ c.sender → e.state = 4 → g.yielded = false →
      ∃ t, exec (.croak c) s = .next t ∧ group? t h = none ∧ active (chan t h).state = false)) ∧
  (∀ (node : Fin 512) (h : Nat) (g : Group) (s : State), s.prt.groups = [(h, g)] → s.prt.witnesses = [] →
    (nowNs s < heardFrom g node.val + 200000 → exec (.senderSilent node) s = .next s) ∧
    (heardFrom g node.val + 200000 ≤ nowNs s → g.role = 1 → g.active = node.val → g.activeSilent = false →
      ∃ t x, exec (.senderSilent node) s = .next t ∧ group? t h = some x ∧ x.activeSilent = true ∧
        (replicaOk s h g = true → x.wasProtected = decide (g.state = 2)) ∧
        (replicaOk s h g = false → g.joined = true → g.state ≠ 4 → x.wasProtected = false)) ∧
    (heardFrom g node.val + 200000 ≤ nowNs s → g.role = 0 → g.shadow = node.val → g.active ≠ node.val →
      g.shadowSilent = false → ∃ t x, exec (.senderSilent node) s = .next t ∧ group? t h = some x ∧
        x.shadowSilent = true ∧ x.state = 0)) ∧
  (∀ (s : State), ∃ t, exec .suspectTimer s = .next t ∧
    { t with prt := s.prt, fab := s.fab, ledger := s.ledger } = s ∧
    (∀ e ∈ s.prt.groups, e.2.role = 1 → seeks s e.1 e.2 = true →
      (∀ x, e.2.suspectAt = some x → x + 50000 ≤ nowNs s) → (e.2.witness, 4, leaseMsg e.1 e.2 0 0 e.2.activeSend 0) ∈ t.prt.sentLease) ∧
    ((∀ e ∈ s.prt.groups, e.2.role ≠ 1 ∨ seeks s e.1 e.2 = false ∨
      ∃ x, e.2.suspectAt = some x ∧ nowNs s < x + 50000) → t = s)) ∧
  (∀ (m : LeaseMsg) (s : State),
    let k := witnessKey m.activeNode m.activeCh
    let takes : Prop := s.modes.mode = .ready ∨ s.modes.mode = .operate ∨ s.modes.mode = .dormant
    (∀ w, tabGet? s.prt.witnesses k = some w → m.epoch < w.epoch → ∃ t, exec (.request m) s = .next t ∧
      t.prt.sentLease = s.prt.sentLease ++ [(m.activeNode, 3, { m with reason := 3 })] ∧
      { t with prt := s.prt, fab := s.fab, ledger := s.ledger } = s) ∧
    (tabGet? s.prt.witnesses k = none → ¬ takes → ∃ t, exec (.request m) s = .next t ∧
      t.prt.sentLease = s.prt.sentLease ++ [(m.activeNode, 3, { m with reason := 2 })] ∧
      { t with prt := s.prt, fab := s.fab, ledger := s.ledger } = s) ∧
    (tabGet? s.prt.witnesses k = none → takes → 256 ≤ s.prt.witnesses.length → ∃ t, exec (.request m) s = .next t ∧
      t.prt.sentLease = s.prt.sentLease ++ [(m.activeNode, 3, { m with reason := 1 })] ∧
      { t with prt := s.prt, fab := s.fab, ledger := s.ledger } = s) ∧
    (tabGet? s.prt.witnesses k = none → takes → s.prt.witnesses.length < 256 → ∃ t w, exec (.request m) s = .next t ∧
      tabGet? t.prt.witnesses k = some w ∧ w.epoch = m.epoch ∧ w.shadowNode = m.shadowNode ∧ w.heard = none ∧
      w.granted = false ∧ { t with prt := s.prt } = s)) ∧
  (∀ (s : State), s.prt.stopped = true → exec .renewTimer s = .next s) ∧
  (∀ (k sent : Nat) (w : Witness) (s : State), s.prt.stopped = false → s.prt.witnesses = [(k, w)] →
    w.heard = some sent →
    (∀ x, w.renewedAt = some x → nowNs s < x + 250000 → exec .renewTimer s = .next s) ∧
    ((∀ x, w.renewedAt = some x → x + 250000 ≤ nowNs s) → nowNs s < w.heardAt + 200000 → w.granted = false ∨ w.yielded = true → w.released = none →
      ∃ t x m, exec .renewTimer s = .next t ∧ tabGet? t.prt.witnesses k = some x ∧
        x.lastH = max w.lastH (sent + 1000000) ∧ m.timeA = sent + 1000000 ∧ m.epoch = w.epoch ∧
        x.renewedAt = some (nowNs s) ∧ t.prt.sentLease = s.prt.sentLease ++ [(w.activeNode, 2, m), (w.shadowNode, 2, m)] ∧
        { t with prt := s.prt, fab := s.fab, ledger := s.ledger } = s) ∧
    (w.heardAt + 200000 ≤ nowNs s ∨ (w.granted = true ∧ w.yielded = false) ∨ w.released ≠ none →
      exec .renewTimer s = .next s)) ∧
  (∀ (m : LeaseMsg) (w : Witness) (s : State), witness? s m.activeNode m.activeCh = some w →
    (m.epoch = w.epoch → (∃ t, exec (.suspect m) s = .next t ∧
        witness? t m.activeNode m.activeCh = some { w with suspected := true } ∧ { t with prt := s.prt } = s) ∧
      (s.prt.groups = [] → ∃ t, exec (.release m) s = .next t ∧
        witness? t m.activeNode m.activeCh = some { w with released := some (nowNs s) } ∧ { t with prt := s.prt } = s)) ∧
    (m.epoch ≠ w.epoch → exec (.suspect m) s = .next s ∧ (s.prt.groups = [] → exec (.release m) s = .next s))) ∧
  (∀ (m : LeaseMsg) (h : Nat) (g : Group) (s : State), group? s h = some g → g.role = 1 → m.shadowCh = h →
    g.active = m.activeNode → g.shadow = m.shadowNode →
    (g.state = 4 → ∃ t, exec (.release m) s = .next t ∧ group? t h = some g ∧ { t with prt := s.prt } = s) ∧
    (g.state ≠ 4 → ∃ t, exec (.release m) s = .next t ∧ group? t h = none ∧
      (m.timeA = 0 → active (chan t h).state = false) ∧
      (m.timeA ≠ 0 → active (chan s h).state = true → (chan t h).state = .stopping →
        (chan t h).stopPic = some m.timeA))) ∧
  (∀ (node ch : Nat) (w : Witness) (s : State), witness? s node ch = some w →
    w.activeNode = node → w.activeCh = ch →
    let due : Prop := w.granted = false ∧ w.suspected = true ∧ w.heardAt + 200000 ≤ nowNs s ∧
      w.lastH + 100000 ≤ nowNs s
    (due → ∃ t x m, exec (.grantGuardExpiry node ch) s = .next t ∧ witness? t node ch = some x ∧ x.granted = true ∧
      x.yielded = false ∧ t.prt.sentLease = s.prt.sentLease ++ [(w.shadowNode, 5, m), (w.activeNode, 5, m)] ∧
      m.epoch = w.epoch ∧ m.timeA = w.lastH ∧ m.timeB = w.through ∧
      (s.evt.fifo = [] → ∃ e ∈ t.evt.fifo, e.code = evProtTakeover)) ∧
    (¬ due → exec (.grantGuardExpiry node ch) s = .next s) ∧
    ((∃ q, w.released = some q ∧ q + 10000000 ≤ nowNs s) ∨ (∃ q, w.silentSince = some q ∧ q + 10000000 ≤ nowNs s) →
      ∃ t, exec (.witnessEntryFree node ch) s = .next t ∧ witness? t node ch = none ∧ { t with prt := s.prt } = s) ∧
    (w.released = none → w.silentSince = none → exec (.witnessEntryFree node ch) s = .next s)) ∧
  (∀ (m : LeaseMsg) (h : Nat) (g : Group) (s : State), s.prt.groups = [(h, g)] → g.active = m.activeNode →
    g.shadow = m.shadowNode → m.epoch = g.epoch → m.witness = g.witness →
    (g.role = 0 → m.activeCh = h → ∃ t x, exec (.renew m) s = .next t ∧ group? t h = some x ∧
      x.leaseH = some (max m.timeA (g.leaseH.getD 0)) ∧
      (nowNs s < m.timeA → x.fenced = false) ∧ { t with prt := s.prt } = s) ∧
    (g.role = 1 → m.shadowCh = h → ∃ t x, exec (.renew m) s = .next t ∧ group? t h = some x ∧
      x.leaseH = some (max m.timeA (g.leaseH.getD 0)) ∧ x.through = max g.through m.timeB ∧
      ∀ e ∈ t.tmg.queues, ∀ k ∈ e.2.entries, k.chan = h → k.held = true → 65536 * x.through < k.launch.getD 0) ∧
    (g.role = 0 → m.activeCh = h → g.triedAlts = 0 → g.alts.getD 0 0xFFFF ≠ 0xFFFF →
      ∃ t x y, exec (.refuse m) s = .next t ∧ group? t h = some x ∧ x.newWitness = some (g.alts.getD 0 0xFFFF) ∧
        x.triedAlts = 1 ∧ t.prt.sentLease = s.prt.sentLease ++ [(g.shadow, 7, y)] ∧ y.epoch = g.epoch + 1 ∧
        y.witness = g.alts.getD 0 0xFFFF ∧ { t with prt := s.prt, fab := s.fab, ledger := s.ledger } = s)) ∧
  ∀ (ch : Fin 64) (g : Group) (s : State), group? s ch.val = some g → g.role = 0 →
    (∀ q, g.leaseReq = some q →
      (nowNs s < q + 1000000 → exec (.witnessRequestTimeout ch) s = .next s) ∧
      (q + 1000000 ≤ nowNs s → g.triedAlts = 0 → g.alts.getD 0 0xFFFF ≠ 0xFFFF → ∃ t x,
        exec (.witnessRequestTimeout ch) s = .next t ∧ group? t ch.val = some x ∧
          x.newWitness = some (g.alts.getD 0 0xFFFF) ∧ x.leaseReq = none)) ∧
    (∀ q, g.leaseH = some q → g.fenced = false →
      (nowNs s < q → exec (.leaseExpiry ch) s = .next s) ∧
      (q ≤ nowNs s → ∃ t, exec (.leaseExpiry ch) s = .next t ∧ group? t ch.val = some { g with fenced := true } ∧
        fencedOff t ch.val = true ∧ t.tmg = s.tmg ∧
        (s.evt.fifo = [] → ∃ e ∈ t.evt.fifo, e.code = evProtFenced ∧ e.channel = ch.val)))

/-- R450, R454 to R458, R464, R466, R468, R473: a mirror record that fails its check marks the mirror bad, one that
passes becomes the shadow's checkpoint and ends its STARTING; relayed lines are kept; MOVE is taken in any state but
TAKEOVER; GRANT frees the held packets after time B and makes the shadow an encode in TAKEOVER, and stops the former
active; YIELD sets the boundary, and the witness grants at once; CONTINUE carries the output state to the peer of a
handover, without which it stops. Time B of a grant to a yield is a free value (assumption log 23). -/
def Obligations.MirrorTakeoverAndContinue : Prop :=
  (∀ (m : MirrorRec) (g : Group) (f : ChanCfg) (s : State), group? s m.ch.val = some g →
    (chan s m.ch.val).cfg = some f →
    let takes : Prop := g.role = 1 ∧ g.joined = true ∧ g.active = m.node ∧ g.state ≠ 4 ∧ f.role = .shadow ∧
      active (chan s m.ch.val).state = true
    (¬ takes → exec (.mirrorRecord m) s = .next s) ∧
    (takes → m.intact = false → ∃ t x, exec (.mirrorRecord m) s = .next t ∧ group? t m.ch.val = some x ∧
      x.mirrorBad = true ∧ x.checkpoint = g.checkpoint ∧ x.state = (if g.everProtected then 3 else 1) ∧
      t.chans = s.chans ∧ t.tmg = s.tmg) ∧
    (takes → m.intact = true → ∃ t x, exec (.mirrorRecord m) s = .next t ∧ group? t m.ch.val = some x ∧
      x.checkpoint = some m.checkpoint ∧
      ((chan s m.ch.val).state = .starting → (chan t m.ch.val).state = .running))) ∧
  (∀ (node capture line digest : Nat) (ch : Fin 64) (g : Group) (s : State), group? s ch.val = some g →
    (g.role = 1 → g.active = node → g.source = 1 → ∃ t x, exec (.sourceRelay node ch capture line digest) s = .next t ∧
      group? t ch.val = some x ∧ x.relaySeen.getLast? = some (capture, line, digest) ∧ { t with prt := s.prt } = s) ∧
    (g.role ≠ 1 ∨ g.active ≠ node ∨ g.source ≠ 1 →
      exec (.sourceRelay node ch capture line digest) s = .next s)) ∧
  (∀ (m : LeaseMsg) (h : Nat) (g : Group) (s : State), group? s h = some g → g.active = m.activeNode →
    g.shadow = m.shadowNode →
    (g.role = 1 → m.shadowCh = h → g.state = 4 → ∃ t, exec (.move m) s = .next t ∧
      t.prt.sentLease = s.prt.sentLease ++ [(g.active, 8, { m with reason := 1 })] ∧ group? t h = some g ∧
      { t with prt := s.prt, fab := s.fab, ledger := s.ledger } = s) ∧
    (g.role = 1 → m.shadowCh = h → g.state ≠ 4 → ∃ t x, exec (.move m) s = .next t ∧ group? t h = some x ∧
      x.witness = m.witness ∧ x.epoch = m.epoch ∧ x.state = g.state ∧
      t.prt.sentLease = s.prt.sentLease ++ [(g.active, 8, { m with reason := 0 })] ∧
      (s.evt.fifo = [] → ∃ e ∈ t.evt.fifo, e.code = evProtWitness)) ∧
    (∀ w, g.role = 0 → m.activeCh = h → g.newWitness = some w →
      (m.reason = 0 → m.witness = w → m.epoch = g.epoch + 1 → ∃ t x y, exec (.moveAck m) s = .next t ∧
        group? t h = some x ∧ x.witness = w ∧ x.epoch = g.epoch + 1 ∧ x.newWitness = none ∧
        x.leaseH = g.leaseH ∧ t.prt.sentLease = s.prt.sentLease ++ [(w, 1, y)] ∧ y.epoch = g.epoch + 1) ∧
      (m.reason ≠ 0 → ∃ t x, exec (.moveAck m) s = .next t ∧ group? t h = some x ∧ x.newWitness = none ∧
        x.witness = g.witness ∧ x.epoch = g.epoch ∧ { t with prt := s.prt } = s))) ∧
  (∀ (m : LeaseMsg) (h : Nat) (g : Group) (f : ChanCfg) (s : State), group? s h = some g →
    g.active = m.activeNode → g.shadow = m.shadowNode → (chan s h).cfg = some f → m.epoch = g.epoch →
    (g.role = 1 → m.shadowCh = h → m.witness = g.witness → g.joined = true → g.state ≠ 4 → g.reencoding = true →
      sourceHolds s h g f = true → (chan s h).handoverPeer = none →
      let b := match g.boundary with | some x => boundaryLaunch f x | none => m.timeB
      ∃ t x, exec (.grant m) s = .next t ∧ group? t h = some x ∧ x.state = 4 ∧ x.grantB = some b ∧ x.unbooked = luTotal s - luBooked s ∧
        (chan t h).cfg = some { f with role := .encode } ∧ (chan t h).state = (chan s h).state ∧
        ∀ e ∈ t.tmg.queues, ∀ k ∈ e.2.entries, k.chan = h → k.held = false) ∧
    (g.role = 0 → m.activeCh = h → groupOfMsg s 1 m = none → g.yielded = true → exec (.grant m) s = .next s) ∧
    (g.role = 0 → m.activeCh = h → groupOfMsg s 1 m = none → g.yielded = false → ∃ t, exec (.grant m) s = .next t ∧
      group? t h = none ∧ active (chan t h).state = false ∧ ∀ e ∈ t.tmg.queues, ∀ k ∈ e.2.entries,
        active (chan s h).state = true → k.chan ≠ h)) ∧
  (∀ (m : LeaseMsg) (h : Nat) (g : Group) (s : State), group? s h = some g → g.role = 1 → m.shadowCh = h →
    g.active = m.activeNode → g.shadow = m.shadowNode → witness? s m.activeNode m.activeCh = none →
    ∃ t x, exec (.yield m) s = .next t ∧ group? t h = some x ∧ x.yielded = true ∧
      x.boundary = some (ns m.timeA, m.slice) ∧ x.grantKind = m.reason ∧ { t with prt := s.prt } = s) ∧
  (∀ (m : LeaseMsg) (w : Witness) (s : State), s.prt.groups = [] → witness? s m.activeNode m.activeCh = some w →
    w.activeNode = m.activeNode → w.activeCh = m.activeCh →
    (m.epoch = w.epoch → w.granted = false → ∃ t x y, exec (.yield m) s = .next t ∧
      witness? t m.activeNode m.activeCh = some x ∧ x.granted = true ∧ x.yielded = true ∧
      t.prt.sentLease = s.prt.sentLease ++ [(w.shadowNode, 5, y), (w.activeNode, 5, y)] ∧ y.epoch = w.epoch ∧
      t.free = s.free + 1) ∧
    (m.epoch ≠ w.epoch ∨ w.granted = true → exec (.yield m) s = .next s)) ∧
  (∀ (node o seq : Nat) (cc : List Nat) (ch : Fin 64) (f : ChanCfg) (x : Output) (s : State),
    (chan s ch.val).cfg = some f →
    ((chan s ch.val).state ≠ .starting ∨ (chan s ch.val).continueDue = false ∨ (chan s ch.val).handoverPeer ≠ some node →
      exec (.continue_ node ch [(seq, cc)]) s = .next s) ∧
    ((chan s ch.val).state = .starting → (chan s ch.val).continueDue = true →
      (chan s ch.val).handoverPeer = some node → f.outputs = [o] → outputOf s o = some x →
      ∃ t, exec (.continue_ node ch [(seq, cc)]) s = .next t ∧ (chan t ch.val).continueDue = false ∧
        (chan t ch.val).handoverPeer = none ∧ (chan t ch.val).state = .starting ∧
        outputOf t o = some { x with rtpSeq := seq, cc := cc } ∧ (∀ k, k ≠ ch.val → chan t k = chan s k))) ∧
  ∀ (ch : Fin 64) (f : ChanCfg) (s : State), (chan s ch.val).cfg = some f →
    ((chan s ch.val).state ≠ .starting ∨ (chan s ch.val).continueDue = false ∨
        s.tim.now < ns (chan s ch.val).handoverPic + ns f.delayNs →
      exec (.handoverContinueDeadline ch) s = .next s) ∧
    ((chan s ch.val).state = .starting → (chan s ch.val).continueDue = true →
      ns (chan s ch.val).handoverPic + ns f.delayNs ≤ s.tim.now →
      ∃ t, exec (.handoverContinueDeadline ch) s = .next t ∧ active (chan t ch.val).state = false ∧
        (∀ e ∈ t.tmg.queues, ∀ k ∈ e.2.entries, k.chan ≠ ch.val) ∧
        (s.evt.fifo = [] → ∃ e ∈ t.evt.fifo, e.code = evHandoverFailed ∧ e.channel = ch.val))

/-! ### Audio (R430 to R447) -/

/-- R54, R431, R432, R434, R435, R437, R439 to R442, R446, R447: the AUD opcodes; the common start; frames written and
played by index, with underruns and flagged zeros, each not before its play instant; a master port's MCLK while it
runs; routes that take effect, none over a port in port-off; the clock loop's lock states, slips, rate faults, clock
loss and return, and glitches. The servo's steering and the loudness figures are opaque (assumption log 5). -/
def Obligations.AudioPortsRoutesAndPlay : Prop :=
  (∀ r s, accepted sAudPort r s →
    let n := tlvD r 0x0A01 0
    let v := tlvD r 0x0A02 0
    (7 < n → exec (.audPort r) s = .next (refusal sAudPort r 5 0x0A01 s)) ∧
    (n ≤ 7 → sapStopped (sapOf s n) = false → (sapOf s n).lock ≠ 4 → exec (.audPort r) s =
      .next (refusal sAudPort r 2 (modeCode s.modes.mode * 256 + 0xFF) s)) ∧
    (n ≤ 7 → sapStopped (sapOf s n) = true ∨ (sapOf s n).lock = 4 →
      (sapBad v = true → exec (.audPort r) s = .next (refusal sAudPort r 5 0x0A02 s)) ∧
      (sapBad v = false → ∃ t, exec (.audPort r) s = .next (okAnswer sAudPort r [] t) ∧
        sapOf t n = sapFrom v (sapOf s n) ∧ (∀ k, k ≠ n → sapOf t k = sapOf s k) ∧ { t with aud := s.aud } = s))) ∧
  (∀ r s, accepted sAudStart r s →
    let ps := bitList 8 (tlvD r 0x0A03 0)
    let ready := ps.all fun n => sapOn s n && (sapOf s n).configured && sapStopped (sapOf s n)
    (s.modes.mode = .dormant ∨ s.modes.mode = .service ∨ ready = false → exec (.audStart r) s =
      .next (refusal sAudStart r 2 (modeCode s.modes.mode * 256 + 0xFF) s)) ∧
    (s.modes.mode ≠ .dormant → s.modes.mode ≠ .service → ready = true →
      (∀ q, getTlv r 0x0A04 = some q → getTlv r 0x0A05 = none → q < acceptedAt r s + 1000000 →
        exec (.audStart r) s = .next (refusal sAudStart r 5 0x0A04 s)) ∧
      (∀ q, getTlv r 0x0A04 = some q → getTlv r 0x0A05 = none → acceptedAt r s + 1000000 ≤ q →
        ∃ t, exec (.audStart r) s = .next (okAnswer sAudStart r [] t) ∧
          (∀ n, sapOf t n = if n ∈ ps then { sapOf s n with startAt := some q, startGpi := none } else sapOf s n) ∧
          { t with aud := s.aud } = s) ∧
      (∀ g, getTlv r 0x0A04 = none → getTlv r 0x0A05 = some g → g ≤ 31 → s.gpio.dir.getLsbD g = false →
        ∃ t, exec (.audStart r) s = .next (okAnswer sAudStart r [] t) ∧
          (∀ n, sapOf t n = if n ∈ ps then { sapOf s n with startAt := none, startGpi := some g } else sapOf s n) ∧
          { t with aud := s.aud } = s))) ∧
  (∀ r s, accepted sAudStop r s → ∃ t, exec (.audStop r) s = .next (okAnswer sAudStop r [] t) ∧
    (∀ n ∈ bitList 8 (tlvD r 0x0A03 0), (sapOf t n).lock = 0 ∧ (sapOf t n).started = false ∧
      (sapOf t n).startAt = none ∧ (sapOf t n).startGpi = none ∧ (sapOf t n).mclk = none) ∧
    (∀ n, n ∉ bitList 8 (tlvD r 0x0A03 0) → sapOf t n = sapOf s n) ∧ t.chans = s.chans ∧ t.aud.routes = s.aud.routes) ∧
  (∀ r s, accepted sAudRoute r s →
    let ms := (tlvAll r 0x0A06).map mapOf
    let rs := ms.foldl (fun rs m => addRoute ((acceptedAt r s / 1000000 + 1) * 1000000) m rs) s.aud.routes
    let live := rs.filter fun x => epKind x.src ≠ 0
    (ms.any (mapBad s) = true → exec (.audRoute r) s = .next (refusal sAudRoute r 5 0x0A06 s)) ∧
    (ms.any (mapBad s) = false →
      (∀ h, (ms.findSome? fun m => sinkBusy s m.2) = some h → exec (.audRoute r) s = .next (refusal sAudRoute r 2
        (modeCode s.modes.mode * 256 + stateCode (chan s h).state) s)) ∧
      let off := ms.any fun m => decide (epKind m.1 ≠ 0) && (sourceOff s m.1 || sinkOff s m.2)
      ((ms.findSome? fun m => sinkBusy s m.2) = none → off = true → exec (.audRoute r) s = .next (refusal sAudRoute r 2
        (modeCode s.modes.mode * 256 + 0xFF) s)) ∧
      ((ms.findSome? fun m => sinkBusy s m.2) = none → off = false → 256 < (live.map Route.src).eraseDups.length ∨ 256 < live.length →
        exec (.audRoute r) s = .next (refusal sAudRoute r 6 7 s)) ∧
      ((ms.findSome? fun m => sinkBusy s m.2) = none → off = false → (live.map Route.src).eraseDups.length ≤ 256 → live.length ≤ 256 →
        exec (.audRoute r) s = .next (okAnswer sAudRoute r [] { s with aud := { s.aud with routes := rs } })))) ∧
  (∀ r s, accepted sAudStatus r s → tlvD r 0x0A01 0 ≤ 7 → (sapOf s (tlvD r 0x0A01 0)).loudness = 0 →
    let x := sapOf s (tlvD r 0x0A01 0)
    exec (.audStatus r) s = .next (okAnswer sAudStatus r
      [tlv 0x0A10 1 x.lock, tlv 0x0A11 4 (twos 4 x.ppb), tlv 0x0A12 8 x.underruns,
       tlv 0x0A13 16 (0x80008000 + 0x80008000 * 4294967296), tlv 0x0A14 8 x.slips, tlv 0x0A15 8 x.glitches] s)) ∧
  (∀ r s, accepted sAudStatus r s → tlvD r 0x0A01 0 ≤ 7 → ∃ l, exec (.audStatus r) s = .next (okAnswer sAudStatus r l s) ∧
    l.length = 6) ∧
  (∀ (n : Fin 8) (s : State),
    ((sapOf s n.val).startAt = none → exec (.audStartInstant n) s = .next s) ∧
    (∀ q, (sapOf s n.val).startAt = some q → nowNs s < q → exec (.audStartInstant n) s = .next s) ∧
    (∀ q, (sapOf s n.val).startAt = some q → q ≤ nowNs s → ∃ t, exec (.audStartInstant n) s = .next t ∧
      (sapOf t n.val).started = true ∧ (sapOf t n.val).startAt = none ∧
      (sapOf t n.val).lock = (if (sapOf s n.val).slave then 1 else 2) ∧
      (sapOf t n.val).mclk = (if (sapOf s n.val).slave then none else
        some ((if (sapOf s n.val).rate = 3 then 128 else 256) * rateHz (sapOf s n.val).rate)) ∧
      ((sapOf s n.val).slave = false → (sapOf s n.val).output = false →
        q * rateHz (sapOf s n.val).rate ≤ (sapOf t n.val).frame * 1000000000 ∧
        ∀ k, q * rateHz (sapOf s n.val).rate ≤ k * 1000000000 → (sapOf t n.val).frame ≤ k))) ∧
  (∀ (n : Fin 8) (samples : List Nat) (s : State), let x := sapOf s n.val
    (x.started = false ∨ x.output = true ∨ (x.lock ≠ 1 ∧ x.lock ≠ 2) → exec (.sapFrameRx n samples) s = .next s) ∧
    (x.started = true → x.output = false → x.lock = 1 ∨ x.lock = 2 → ∃ t, exec (.sapFrameRx n samples) s = .next t ∧
      sapOf t n.val = { x with frame := x.frame + 1 } ∧
      (∀ v rest, samples = v :: rest → 1 ≤ x.slots →
        (tabGet [] s.aud.rings (endpoint 1 n.val 0 0).toNat).any (fun e => e.1 = x.frame) = false →
        (x.frame, packSample x.wordLen x.packing v, true) ∈ tabGet [] t.aud.rings (endpoint 1 n.val 0 0).toNat) ∧
      { t with aud := s.aud, ledger := s.ledger } = s)) ∧
  (∀ (s : State), ∃ t, exec .audRouteEffect s = .next t ∧ { t with aud := s.aud } = s ∧
    (∀ x ∈ t.aud.routes, ∀ q, x.effectAt = some q → nowNs s < q) ∧
    ∀ x ∈ s.aud.routes, x.effectAt = none → epKind x.src ≠ 0 → x ∈ t.aud.routes) ∧
  (∀ (sink : BitVec 32) (frame : Nat) (s : State),
    (sinkPlays s sink = false ∨ playDue s sink frame = false → exec (.audPlayInstant sink frame) s = .next s) ∧
    (∀ x src, epKind sink = 1 → sinkPlays s sink = true → playDue s sink frame = true →
      (s.aud.routes.find? fun y => y.sink = sink) = some x →
      routeSrc ((playNs s sink frame).getD (nowNs s)) x = some src → audDomain s src = sinkDomain s sink →
      (∀ v valid, readFrame s src frame = some (v, valid) → ∃ t, exec (.audPlayInstant sink frame) s = .next t ∧
        t.aud.played = s.aud.played ++ [(sink, frame, if valid then sinkWord s sink v else 0)] ∧ t.aud.ports = s.aud.ports) ∧
      (readFrame s src frame = none → ∃ t, exec (.audPlayInstant sink frame) s = .next t ∧
        t.aud.played = s.aud.played ++ [(sink, frame, 0)] ∧
        (sapOf t (epUnit sink)).underruns = (sapOf s (epUnit sink)).underruns + 1))) ∧
  (∀ (n : Fin 8) (fill : Nat) (s : State), let x := sapOf s n.val
    (loopRuns x = false → exec (.clockLoopUpdate n fill) s = .next s) ∧
    (loopRuns x = true → ∃ t, exec (.clockLoopUpdate n fill) s = .next t ∧ (sapOf t n.val).fill = fill ∧
      (sapOf t n.val).slips = x.slips + (if fill ≤ 4 ∨ 60 ≤ fill then 1 else 0) ∧
      (sapOf t n.val).inRange = (if 30 ≤ fill ∧ fill ≤ 34 then x.inRange + 1 else 0) ∧
      (x.ignoreMs = false → -5000000 ≤ (sapOf t n.val).steer ∧ (sapOf t n.val).steer ≤ 5000000) ∧
      (x.ignoreMs = true → (sapOf t n.val).steer = x.steer) ∧
      (x.lock = 1 → (sapOf t n.val).lock = if 100 ≤ (sapOf t n.val).inRange then 2 else 1))) ∧
  ∀ (n : Fin 8) (ppb : Int) (frame fill missing : Nat) (short : Bool) (s : State), let x := sapOf s n.val
    (loopRuns x = false → exec (.audRateMeasure n ppb) s = .next s ∧ exec (.audClockLoss n frame) s = .next s ∧
      exec (.audClockGlitch n short missing) s = .next s) ∧
    (loopRuns x = true → ppb.natAbs ≤ 1000000 → exec (.audRateMeasure n ppb) s = .next (setSap n.val { x with ppb := ppb } s)) ∧
    (loopRuns x = true → 1000000 < ppb.natAbs → ∃ t, exec (.audRateMeasure n ppb) s = .next t ∧
      (sapOf t n.val).lock = 4 ∧ (sapOf t n.val).started = false ∧ (sapOf t n.val).ppb = ppb ∧
      (s.evt.fifo = [] → ∃ e ∈ t.evt.fifo, e.code = evAudRate)) ∧
    (loopRuns x = true → ∃ t, exec (.audClockLoss n frame) s = .next t ∧ (sapOf t n.val).lock = 3 ∧
      (sapOf t n.val).flagFrom = (if x.output then none else some frame) ∧ (sapOf t n.val).steer = x.steer ∧
      (s.evt.fifo = [] → ∃ e ∈ t.evt.fifo, e.code = evAudClockLost)) ∧
    (x.slave = true → x.started = true → x.lock = 3 → ppb.natAbs ≤ 1000000 →
      ∃ t, exec (.audClockReturn n ppb fill) s = .next t ∧ (sapOf t n.val).lock = 1 ∧ (sapOf t n.val).fill = 32 ∧
        (sapOf t n.val).slips = x.slips + (if fill ≤ 32 then 32 - fill else fill - 32) ∧
        (sapOf t n.val).flagFrom = none) ∧
    (x.lock ≠ 3 → exec (.audClockReturn n ppb fill) s = .next s) ∧
    (loopRuns x = true → ∃ t, exec (.audClockGlitch n short missing) s = .next t ∧
      (sapOf t n.val).glitches = x.glitches + (if short then 1 else missing) ∧ (sapOf t n.val).ignoreMs = true ∧
      (sapOf t n.val).lock = x.lock ∧ (short = false → x.output = false →
        (sapOf t n.val).flagged = x.flagged ++ [(x.frame, missing)] ∧ (sapOf t n.val).frame = x.frame + missing) ∧
      { t with aud := s.aud } = s)

/-! ### Health and firmware images (R88 to R93, R140, R504, R512 to R519, R532) -/

/-- R512, R518, R519: HLTH.STATUS reports the monitors and starts the lowest and highest values again; HLTH.THRESH takes
levels of 50 to 105 degrees; HLTH.FAULTS pages through the log by CURSOR. R504: HLTH.SELFTEST takes a scope and
takes the fabric ports under test out of UP. R504, R505, R512, R517: a self-test that ends logs its summary and
raises EV_SELFTEST with the result and the index; a unit that failed waits to be retired; with RETEST a retired unit
returns when it passes a second time in succession. -/
def Obligations.HealthAndSelftest : Prop :=
  ((∀ r s, accepted sHlthStatus r s → ∃ t, exec (.hlthStatus r) s = .next (okAnswer sHlthStatus r
       [tlvB 0x0B01 (voltBytes s.hlth), tlvB 0x0B02 (tempBytes s.hlth), tlv 0x0B03 4 s.hlth.powerMw,
        tlv 0x0B04 4 s.mbx.discards] t) ∧
     t.hlth.voltsMin = s.hlth.volts ∧ t.hlth.tempsMax = s.hlth.temps ∧
     { t with hlth := { t.hlth with voltsMin := s.hlth.voltsMin, tempsMax := s.hlth.tempsMax } } = s) ∧
   (∀ (h : Hlth) i, i < 8 →
     ((voltBytes h).drop (4 * i)).take 4 = u16 (h.volts.getD i 0) ++ u16 (h.voltsMin.getD i 0) ∧
     ((tempBytes h).drop (4 * i)).take 4 = u16 (twos 2 (h.temps.getD i 0)) ++ u16 (twos 2 (h.tempsMax.getD i 0))) ∧
   (∀ r s, accepted sHlthThresh r s →
     let w (i : Nat) : Nat := tlvD r 0x0B30 0 / 256 ^ i % 256
     ((∀ i, i < 8 → 50 ≤ w i ∧ w i ≤ 105) → ∃ t, exec (.hlthThresh r) s = .next (okAnswer sHlthThresh r [] t) ∧
       t.hlth.warn = (List.range 8).map w ∧ { t with hlth := { t.hlth with warn := s.hlth.warn } } = s) ∧
     (∀ i, i < 8 → (w i < 50 ∨ 105 < w i) →
       exec (.hlthThresh r) s = .next (refusal sHlthThresh r 5 0x0B30 s))) ∧
   (∀ r s, accepted sHlthFaults r s →
     let es := s.flt.log.filter fun e => decide (tlvD r 0x0B10 0 ≤ e.index)
     (es.length ≤ 59 → exec (.hlthFaults r) s =
       .next (okAnswer sHlthFaults r (es.map fun e => tlvB 0x0B11 (entryBytes e)) s)) ∧
     (∀ e, es[59]? = some e → exec (.hlthFaults r) s = .next (answer 0x0B02 r 0 0
       (((es.take 59).map fun x => tlvB 0x0B11 (entryBytes x)) ++ [tlv 0x0B10 4 e.index] ++ ignoredTlv sHlthFaults r)
       true s))) ∧
   ∀ r s, accepted sHlthSelftest r s →
     let v := tlvD r 0x0B20 0
     (v / 256 % 8388608 ≠ 0 → exec (.hlthSelftest r) s = .next (refusal sHlthSelftest r 5 0x0B20 s)) ∧
     (v / 256 % 8388608 = 0 → bitAt v 3 = false → exec (.hlthSelftest r) s =
       .next (okAnswer sHlthSelftest r [] { s with flt := { s.flt with selftest := some v, testPorts := [] } })) ∧
     (v / 256 % 8388608 = 0 → bitAt v 3 = true → ∃ t, exec (.hlthSelftest r) s = .next (okAnswer sHlthSelftest r [] t) ∧
       t.flt.selftest = some v ∧ ∀ p, p < 8 → linkUp s p = true → (fport t p).state = 1 ∧ (fport t p).reason = 6 ∧
         (p, fport s p) ∈ t.flt.testPorts)) ∧
  (∀ (failed passed : List UnitRef) (s : State),
     (s.flt.selftest = none ∨ s.ctl.fwRunning = false → exec (.selftestDone failed passed) s = .next s) ∧
     ∀ scope, s.flt.selftest = some scope → s.ctl.fwRunning = true →
       (bitAt scope 31 = false → ∃ t, exec (.selftestDone [] passed) s = .next t ∧ t.flt.selftest = none ∧
         t.flt.retired = s.flt.retired ∧ t.flt.due = s.flt.due ∧
         (∃ e, t.flt.log = s.flt.log ++ [e] ∧ e.code = 0x21 ∧ e.index = s.flt.nextIndex ∧ e.time = nowNs s) ∧
         (s.evt.fifo = [] → ∃ e ∈ t.evt.fifo, e.code = evSelftest ∧ e.data = eventData (0 :: u32 s.flt.nextIndex)) ∧
         { t with flt := s.flt, evt := s.evt } = s) ∧
       (∀ u, bitAt scope 31 = false → inService s u = true → covers scope u = true →
         ∃ t, exec (.selftestDone [u] passed) s = .next t ∧ t.flt.selftest = none ∧ (∃ c, (u, c) ∈ t.flt.due) ∧
           (∃ e f, t.flt.log = s.flt.log ++ [e, f] ∧ e.code = 16 ∧ e.unitType = unitType u ∧ e.unit = unitNumber u ∧
             f.code = 0x21 ∧ f.index = s.flt.nextIndex + 1) ∧
           (s.evt.fifo = [] → ∃ e ∈ t.evt.fifo, e.code = evSelftest ∧
             e.data = eventData (1 :: u32 (s.flt.nextIndex + 1)))) ∧
       ∀ u, bitAt scope 31 = true → scope < 4294967296 → isRetired s u = true → absentUnit s u = false →
         covers scope u = true → ∃ t, exec (.selftestDone [] [u]) s = .next t ∧ t.flt.selftest = none ∧
           (s.flt.passedOnce.contains u = false → t.flt.passedOnce.contains u = true ∧ t.flt.retired = s.flt.retired) ∧
           (s.flt.passedOnce.contains u = true → isRetired t u = false ∧ t.flash.mapDue = true ∧
             (s.evt.fifo.length + s.inputs.length < 510 → ∃ e ∈ t.evt.fifo, e.code = evUnitRestored)))

/-- R92, R93, R140: FW.INFO reports the slots' headers, the fused counter and the boot record; FW.WRITE checks the image
in the named buffer and writes its bytes to a slot that is not the running one; FW.ACTIVATE resets the device, which
boots the slot in trial; FW.ROLLBACK raises the counter within R140; FW.BOOTFLAG writes the flag. The fault detail
of a refused FW.ACTIVATE is a free value. -/
def Obligations.FirmwareCommands : Prop :=
  (∀ r s, accepted sFwInfo r s → exec (.fwInfo r) s = .next (okAnswer sFwInfo r
    [tlvB 0x0C01 (byteNats (memReads s.flash.bytes 0 32) ++ byteNats (memReads s.flash.bytes 0x2000000 32)), tlv 0x0C02 1 s.fuses.rollback,
     tlvB 0x0C03 (recordBytes16 (bootRecord s.flash))] s)) ∧
  (∀ r s, accepted sFwWrite r s →
    let k := tlvD r 0x0C10 0
    let n := tlvD r 0x0C11 0
    (1 < k ∨ k = s.ctl.boot.source → exec (.fwWrite r) s = .next (refusal sFwWrite r 5 0x0C10 s)) ∧
    (k ≤ 1 → k ≠ s.ctl.boot.source → tabGet? s.mem.bufs n = none →
      exec (.fwWrite r) s = .next (refusal sFwWrite r 5 0x0C11 s)) ∧
    ∀ b, k ≤ 1 → k ≠ s.ctl.boot.source → tabGet? s.mem.bufs n = some b →
      (s.flash.writing ≠ none → exec (.fwWrite r) s = .next (refusal sFwWrite r 1 0 s)) ∧
      let fails := imageFail s s.mem.dram b.addr b.size
      (s.flash.writing = none → fails ≠ 0 → exec (.fwWrite r) s = .next (refusal sFwWrite r 8 fails s)) ∧
      (s.flash.writing = none → fails = 0 → ∃ t, exec (.fwWrite r) s = .next (okAnswer sFwWrite r [] t) ∧
        t.flash.writing = some k ∧ verifiedSlot t k = false ∧ verifiedSlot t (1 - k) = verifiedSlot s (1 - k) ∧
        (memWf s.flash.bytes = true → memWf s.mem.dram = true →
          (∀ i, i < 4096 + (headerOf s.mem.dram b.addr).bodyLen →
            memRead t.flash.bytes (slotAt k + i) = memRead s.mem.dram (b.addr + i)) ∧
          ∀ a, a < slotAt k ∨ slotAt k + 4096 + (headerOf s.mem.dram b.addr).bodyLen ≤ a →
            memRead t.flash.bytes a = memRead s.flash.bytes a) ∧
        { t with flash := s.flash } = s)) ∧
  (∀ (k : Fin 2) (v : Bool) (s : State),
    (s.flash.writing ≠ some k.val ∨ s.flash.broken = true → exec (.fwWriteDone k v) s = .next s) ∧
    (s.flash.writing = some k.val → s.flash.broken = false → ∃ t, exec (.fwWriteDone k v) s = .next t ∧
      verifiedSlot t k.val = (v || verifiedSlot s k.val) ∧ t.flash.writing = none ∧
      verifiedSlot t (1 - k.val) = verifiedSlot s (1 - k.val) ∧ t.flash.bytes = s.flash.bytes ∧
      (s.evt.fifo = [] → ∃ e ∈ t.evt.fifo, e.code = evFwWritten ∧
        e.data = eventData ([k.val, 0] ++ u16 (if v then 0 else 9))) ∧
      { t with flash := s.flash, evt := s.evt } = s)) ∧
  (∀ r s, accepted sFwActivate r s →
    let k := tlvD r 0x0C10 0
    (1 < k → exec (.fwActivate r) s = .next (refusal sFwActivate r 5 0x0C10 s)) ∧
    (k ≤ 1 → verifiedSlot s k = false → exec (.fwActivate r) s =
      .next { refusal sFwActivate r 9 (Config.freeNat s.free) s with free := s.free + 1 }) ∧
    (k ≤ 1 → verifiedSlot s k = true → memWf s.flash.bytes = true → (bootRecord s.flash).seq + 2 < 4294967296 → ∃ t, exec (.fwActivate r) s = .next t ∧ t.modes.mode = .boot ∧
      (bootRecord t.flash).preferred = k ∧ (bootRecord t.flash).trial = 2 ∧
      (bootRecord t.flash).bootToService = (bootRecord s.flash).bootToService ∧
      t.ctl.boot.trialReverted = false ∧ t.ctl.fwRunning = false ∧ t.chans = [] ∧ t.fuses = s.fuses)) ∧
  (∀ r s, accepted sFwRollback r s →
    let v := tlvD r 0x0C02 0
    (63 < v ∨ v < s.fuses.rollback ∨ (slotHeader s 0).rollback < v ∨ (slotHeader s 1).rollback < v →
      exec (.fwRollback r) s = .next (refusal sFwRollback r 5 0x0C02 s)) ∧
    (s.fuses.rollback ≤ v → v ≤ 63 → v ≤ (slotHeader s 0).rollback → v ≤ (slotHeader s 1).rollback →
      exec (.fwRollback r) s = .next (okAnswer sFwRollback r [] { s with fuses := { s.fuses with rollback := v } }))) ∧
  ∀ r s, accepted sFwBootflag r s →
    let v := tlvD r 0x0C20 0
    (1 < v → exec (.fwBootflag r) s = .next (refusal sFwBootflag r 5 0x0C20 s)) ∧
    (v ≤ 1 → ∃ t, exec (.fwBootflag r) s = .next (okAnswer sFwBootflag r [] t) ∧ { t with flash := s.flash } = s ∧
      (memWf s.flash.bytes = true → (bootRecord s.flash).seq + 1 < 4294967296 →
      (bootRecord t.flash).bootToService = decide (v = 1) ∧
      (bootRecord t.flash).preferred = (bootRecord s.flash).preferred ∧
      (bootRecord t.flash).trial = (bootRecord s.flash).trial ∧
      (bootRecord t.flash).seq = (bootRecord s.flash).seq + 1 ∧
      ∀ a, a < 0x4000000 → memRead t.flash.bytes a = memRead s.flash.bytes a))

/-! ### Boot and the hitless control restart (R74, R76, R86, R93 to R103) -/

/-- R74, R76, R86, R97, R98, R102: the triggers start a hitless control restart that leaves channels, launches, PRT,
memory contents and the mode alone, closes the bursts of the cores and the control DMA, breaks off a flash write and
counts itself once; in BOOT, or once the lockstep fault is permanent, they reset the device into BOOT with the
cause. A second mismatch in an hour waits for the end of its restart, or in BOOT is permanent at once. A KICK by the
control processor restarts the watchdog's count. R74, R76, R98, R101 to R103: an image copy of the locked digest
enters firmware with the watchdog armed, another is recopied from its slot in flash, and a host-loaded image that
does not match resets the device; DONE ends the restart, has the accepted commands completed again and reports the
restart with the work that it broke off; without DONE the device resets 2 s after the first trigger. -/
def Obligations.ControlRestartStartsAndEnds : Prop :=
  ((∀ (i : Instr) (cause : Nat) (s : State),
     (i, cause) ∈ [(Instr.lockstepMismatch, 1), (.watchdogExpiry, 2), (.ctlSramUncorrectable, 3), (.fwFatalException, 4)] →
     (cause = 2 → s.ctl.wdogArmed = true ∧ s.ctl.wdogLast + s.ctl.wdogPeriod * 1000000 ≤ nowNs s) →
     (cause = 4 → s.ctl.fwRunning = true ∨ (s.ctl.restart.active = true ∧ s.ctl.boot.stage = 6)) →
     let r := s.ctl.restart
     (s.modes.mode ≠ .boot → r.lockstepPerm = false → ∃ t, exec i s = .next t ∧
       t.ctl.restart.active = true ∧ t.ctl.restart.cause = cause ∧ t.ctl.restart.recopy = false ∧
       t.ctl.restart.startedAt = (if r.active then r.startedAt else nowNs s) ∧
       t.ctl.restart.restarts = (if r.active then r.restarts else min 255 (r.restarts + 1)) ∧
       elapsedNow t = min 255 ((nowNs s - t.ctl.restart.startedAt) / 10000000) ∧
       t.ctl.boot = { s.ctl.boot with stage := 7 } ∧ t.ctl.fwRunning = false ∧ t.ctl.remap = false ∧
       t.ctl.wdogArmed = false ∧ t.ctl.wdogPeriod = 100 ∧ t.ctl.dmaBusy = false ∧
       (∀ m ∈ [Master.cpuInstr, .cpuData, .dma], m ∉ t.ctl.reservations) ∧
       (∀ e ∈ t.mem.mcs, ∀ q ∈ e.2.queue, ∀ m ∈ [Master.cpuData, .dma], busMaster q.req.reader = some m →
         q.req.data = some []) ∧
       (∀ e ∈ t.mbx.slots, e.2.owner ≠ some .management) ∧ t.mbx.bells = s.mbx.bells ∧ t.mbx.inWork = s.mbx.inWork ∧
       (∃ e, t.flt.log = s.flt.log ++ [e] ∧ e.code = if cause = 1 then 14 else 15) ∧ t.flt.testPorts = [] ∧
       t.flash = { s.flash with broken := s.flash.broken || s.flash.writing.isSome } ∧
       t.chans = s.chans ∧ t.tmg = s.tmg ∧ t.pipes = s.pipes ∧ t.modes = s.modes ∧ t.prt = s.prt ∧
       t.mem.dram = s.mem.dram ∧ t.mem.bufs = s.mem.bufs ∧ t.tim = s.tim ∧
       (s.flt.testPorts = [] → t.fab = s.fab ∧ t.ledger = s.ledger)) ∧
     (s.modes.mode = .boot ∨ r.lockstepPerm = true → ∃ t, exec i s = .next t ∧ t.modes.mode = .boot ∧
       t.ctl.restart.cause = cause ∧ t.ctl.restart.restarts = r.restarts ∧
       (cause ≠ 1 → r.permPending = none → t.ctl.restart.lockstepPerm = r.lockstepPerm) ∧
       (r.permPending ≠ none → t.ctl.restart.lockstepPerm = true) ∧
       t.ctl.restart.active = false ∧ t.ctl.fwRunning = false ∧ t.chans = [] ∧ t.mem.dram = s.mem.dram)) ∧
   (∀ (s : State), s.ctl.restart.permPending = none →
     let ts := (s.ctl.restart.mismatchTimes.filter fun x => decide (nowNs s < x + 3600000000000)) ++ [nowNs s]
     ∃ t, exec .lockstepMismatch s = .next t ∧
       (s.modes.mode ≠ .boot → s.ctl.restart.lockstepPerm = false →
         t.ctl.restart.mismatchTimes = ts ∧ mismatch1h t = min 255 ts.length ∧ t.ctl.restart.lockstepPerm = false ∧
         t.ctl.restart.permPending = if 2 ≤ ts.length then some (min 255 ts.length) else none) ∧
       (s.modes.mode = .boot → t.ctl.restart.mismatchTimes = ts ∧ t.ctl.restart.permPending = none ∧
         t.ctl.restart.lockstepPerm = (s.ctl.restart.lockstepPerm || decide (2 ≤ ts.length)))) ∧
   (∀ (s : State), (s.ctl.wdogArmed = false ∨ nowNs s < s.ctl.wdogLast + s.ctl.wdogPeriod * 1000000 →
       exec .watchdogExpiry s = .next s) ∧
     (s.ctl.fwRunning = false → (s.ctl.restart.active = false ∨ s.ctl.boot.stage ≠ 6) →
       exec .fwFatalException s = .next s)) ∧
   ∀ (m : Master) (v : Word32) (s : State),
     let p := v.toNat % 1024
     (m ≠ .cpuData → exec (.kick m v) s = .next (busError m true 0x40000028 s)) ∧
     (m = .cpuData → exec (.kick m v) s = .next { s with ctl := { s.ctl with
       wdogPeriod := (if 10 ≤ p ∧ p ≤ 1000 then p else s.ctl.wdogPeriod),
       wdogLast := (if v.getLsbD 31 then nowNs s else s.ctl.wdogLast) } })) ∧
  ((∀ (digest : Nat) (s : State),
     let inImage := s.ctl.restart.active = true ∧ s.ctl.boot.stage = 7
     let matching := bodyDigest s.mem.dram 0 = s.ctl.imgDigest
     let entered (t : State) : Prop := t.ctl.boot = { s.ctl.boot with stage := 6 } ∧ t.ctl.remap = true ∧
       t.ctl.wdogArmed = true ∧ t.ctl.wdogLast = nowNs s ∧ t.ctl.restart = { s.ctl.restart with recopy := false } ∧
       t.ctl.sram = memWrites s.ctl.sram 0 (Config.vectorTable s.ctl.imgDigest) ∧ t.ctl.fwRunning = s.ctl.fwRunning
     (¬ inImage ∨ digest ≠ bodyDigest s.mem.dram 0 → exec (.restartImageCheckDone digest) s = .next s) ∧
     (digest = bodyDigest s.mem.dram 0 → inImage → matching → ∃ t, exec (.restartImageCheckDone digest) s = .next t ∧ entered t ∧ { t with ctl := s.ctl } = s) ∧
     (digest = bodyDigest s.mem.dram 0 → inImage → ¬ matching → s.ctl.boot.source ≠ 2 → exec (.restartImageCheckDone digest) s =
       .next { s with ctl := { s.ctl with restart := { s.ctl.restart with recopy := true } } }) ∧
     (digest = bodyDigest s.mem.dram 0 → inImage → ¬ matching → s.ctl.boot.source = 2 → ∃ t, exec (.restartImageCheckDone digest) s = .next t ∧
       t.modes.mode = .boot ∧ t.chans = [] ∧ t.ctl.restart.active = false ∧
       t.ctl.restart.cause = s.ctl.restart.cause) ∧
     (¬ (inImage ∧ s.ctl.restart.recopy = true) → exec .restartRecopyDone s = .next s) ∧
     (inImage → s.ctl.restart.recopy = true → ∃ t, exec .restartRecopyDone s = .next t ∧ entered t ∧
       { t with ctl := s.ctl, mem := s.mem } = s ∧ { t.mem with dram := s.mem.dram } = s.mem ∧
       (memWf s.mem.dram = true → memWf s.flash.bytes = true →
         let a := slotAt s.ctl.boot.source
         ∀ i, i < 4096 + (headerOf s.flash.bytes a).bodyLen →
           memRead t.mem.dram i = memRead s.flash.bytes (a + i)))) ∧
   (∀ (m : Master) (v : Word32) (s : State), regPath s m = false →
     exec (.done m v) s = .next (busError m true 0x40000020 s)) ∧
   (∀ (m : Master) (v : Word32) (s : State), regPath s m = true →
     (m ≠ .cpuData ∨ v.getLsbD 1 = false ∨ s.ctl.restart.active = false ∨ s.ctl.boot.stage ≠ 6) →
     exec (.done m v) s = .next s) ∧
   (∀ (v : Word32) (s : State), v.getLsbD 1 = true → s.ctl.restart.active = true → s.ctl.boot.stage = 6 →
     ∃ t, exec (.done .cpuData v) s = .next t ∧ t.ctl.restart.active = false ∧ t.ctl.fwRunning = true ∧
       t.ctl.wdogArmed = s.ctl.wdogArmed ∧ t.ctl.wdogLast = s.ctl.wdogLast ∧
       t.ctl.restart.elapsed = min 255 ((nowNs s - s.ctl.restart.startedAt) / 10000000) ∧
       t.ctl.restart.cause = s.ctl.restart.cause ∧ t.ctl.restart.restarts = s.ctl.restart.restarts ∧
       t.mbx.inWork = s.mbx.inWork.map (fun w => { w with redo := true }) ∧ t.mbx.bells = s.mbx.bells ∧
       t.ctl.restart.permPending = none ∧
       (s.ctl.restart.permPending ≠ none → t.ctl.restart.lockstepPerm = true) ∧
       (s.ctl.restart.permPending = none → t.ctl.restart.lockstepPerm = s.ctl.restart.lockstepPerm) ∧
       (testing s = true → t.flt.selftest = none) ∧
       (s.evt.fifo = [] →
         (∃ e ∈ t.evt.fifo, e.code = evCtlRestarted ∧ e.data = eventData ([s.ctl.restart.cause % 256, 0, 0, 0] ++
           u32 ((nowNs s - s.ctl.restart.startedAt) / 1000000) ++ u32 (s.evt.lostTotal - s.ctl.restart.lostBefore))) ∧
         (∀ k, s.flash.writing = some k → s.flash.broken = true → t.flash.writing = none ∧
           ∃ e ∈ t.evt.fifo, e.code = evFwWritten ∧ e.data = eventData ([k % 256, 0] ++ u16 9)) ∧
         (testing s = true → ∃ e ∈ t.evt.fifo, e.code = evSelftest ∧ e.data.head? = some 2) ∧
         (∀ n, s.ctl.restart.permPending = some n → s.ctl.restart.lockstepPerm = false →
           ∃ e ∈ t.evt.fifo, e.code = evCtlFault ∧ e.data = eventData [n % 256]))) ∧
   ∀ (s : State),
     (s.ctl.restart.active = true → s.ctl.restart.startedAt + 2000000000 ≤ nowNs s → ∃ t,
       exec .restartTimeout s = .next t ∧ t.modes.mode = .boot ∧ t.chans = [] ∧ t.ctl.restart.active = false ∧
       t.ctl.restart.elapsed = min 255 ((nowNs s - s.ctl.restart.startedAt) / 10000000) ∧
       t.ctl.restart.cause = s.ctl.restart.cause) ∧
     (s.ctl.restart.active = false ∨ nowNs s < s.ctl.restart.startedAt + 2000000000 → exec .restartTimeout s = .next s))

/-- R90, R93 to R96, R530: at the end of power sequencing the boot ROM acts on the trial state and goes on to the
preferred slot; in the next cycle without a command it checks that slot's header, and a slot that fails gives way to
the other, or to a host image. A copied body of the header's digest starts firmware from its copy in the firmware
region, another fails check 7; GO and its verification start a host image. The cycle in which the header is checked,
and where the copy stands, are the model's choices (logs 1 and 9). -/
def Obligations.BootTriesImages : Prop :=
  (∀ (s : State),
    ((s.pwr.phase = 1 ∧ s.pwr.railIdx = 6) ∨ s.pwr.phase = 2 → ∃ t, exec .powerSequenceEnd s = .next t ∧
      t.pwr.pgood = true ∧ t.pwr.faultN = true ∧ t.pwr.attempts = 0 ∧
      (s.pwr.resetN = false → t.pwr.phase = 2 ∧ { t with pwr := s.pwr } = s) ∧
      (s.pwr.resetN = true → t.pwr.phase = 3 ∧ t.modes = s.modes ∧ t.ctl.boot.stage = 2 ∧
        t.ctl.boot.serviceFlag = (bootRecord s.flash).bootToService ∧
        t.ctl.boot.trialReverted = decide ((bootRecord s.flash).trial = 2) ∧
        { t.flash with bytes := s.flash.bytes } = s.flash ∧
        ((bootRecord s.flash).trial = 0 → t.flash = s.flash) ∧
        (memWf s.flash.bytes = true → (bootRecord s.flash).seq + 1 < 4294967296 →
          (∀ a, a < 0x4000000 → memRead t.flash.bytes a = memRead s.flash.bytes a) ∧
          ((bootRecord s.flash).trial = 1 → (bootRecord t.flash).trial = 2 ∧
            (bootRecord t.flash).preferred = (bootRecord s.flash).preferred) ∧
          ((bootRecord s.flash).trial = 2 → (bootRecord t.flash).trial = 0 ∧
            (bootRecord t.flash).preferred = 1 - (bootRecord s.flash).preferred % 2)))) ∧
    (s.pwr.phase ≠ 2 → (s.pwr.phase ≠ 1 ∨ s.pwr.railIdx ≠ 6) → exec .powerSequenceEnd s = .next s)) ∧
  (∀ (s : State), s.pending = [] → s.ctl.boot.stage = 2 →
    let p := (bootRecord s.flash).preferred % 2
    let k := if failOf p s.ctl.boot = 0 then p else 1 - p
    let h := slotHeader s k
    ∃ t, step s = .next t ∧
      (headerFail s h slotBytes = 0 → revisionBad h = false →
        t.ctl.boot = { s.ctl.boot with stage := 3 } ∧ t.ctl.wins = s.ctl.wins) ∧
      (∀ f, f ≠ 0 → imageFail s s.flash.bytes (slotAt k) slotBytes = f →
        (headerFail s h slotBytes ≠ 0 ∨ revisionBad h = true) → failOf k t.ctl.boot = f ∧
        failOf (1 - k) t.ctl.boot = failOf (1 - k) s.ctl.boot ∧
        (failOf (1 - k) s.ctl.boot = 0 → t.ctl.boot.stage = 2) ∧
        (failOf (1 - k) s.ctl.boot ≠ 0 → t.ctl.boot.stage = 4 ∧
          tabGet Win.reset t.ctl.wins 0 = { base := 1, hostOwn := false, wrEn := true, rdEn := true, en := true }))) ∧
  (∀ (digest : Nat) (s : State),
    (s.ctl.boot.stage ≠ 3 ∨ s.ctl.fwRunning = true ∨ digest ≠ bodyDigest s.flash.bytes (slotAt (bootSlot s)) →
      exec (.bootImageCopyDone digest) s = .next s) ∧
    (s.ctl.boot.stage = 3 → s.ctl.fwRunning = false → digest = bodyDigest s.flash.bytes (slotAt (bootSlot s)) →
      let k := bootSlot s
      let h := slotHeader s k
      (bodyDigest s.flash.bytes (slotAt k) = h.digest → ∃ t, exec (.bootImageCopyDone digest) s = .next t ∧
        t.ctl.boot = { s.ctl.boot with stage := 6, source := k } ∧ t.ctl.imgDigest = h.digest ∧ t.ctl.remap = true ∧
        t.ctl.fwRunning = true ∧ t.ctl.wdogArmed = true ∧ t.ctl.wdogLast = nowNs s ∧
        t.ctl.sram = memWrites s.ctl.sram 0 (Config.vectorTable h.digest) ∧ t.hif.fwVersion = h.fwVersion ∧
        t.modes.incomplete = true ∧ (t.modes.mode = if s.ctl.boot.serviceFlag then .service else .ready) ∧
        (memWf s.mem.dram = true → memWf s.flash.bytes = true → ∀ i, i < 4096 + h.bodyLen →
          memRead t.mem.dram i = memRead s.flash.bytes (slotAt k + i))) ∧
      (bodyDigest s.flash.bytes (slotAt k) ≠ h.digest → ∃ t, exec (.bootImageCopyDone digest) s = .next t ∧
        failOf k t.ctl.boot = 7 ∧ failOf (1 - k) t.ctl.boot = failOf (1 - k) s.ctl.boot ∧ t.ctl.fwRunning = false ∧
        t.modes = s.modes ∧ t.flash = s.flash ∧
        t.ctl.boot.stage = if failOf (1 - k) s.ctl.boot = 0 then 2 else 4))) ∧
  (∀ (m : Master) (v : Word32) (s : State),
    (regPath s m = false → exec (.go m v) s = .next (busError m true 0x40000018 s)) ∧
    (regPath s m = true → v.getLsbD 31 = true → s.ctl.boot.stage = 4 → exec (.go m v) s =
      .next { s with ctl := { s.ctl with boot := { s.ctl.boot with stage := 5, length4k := v.toNat % 16384 } } }) ∧
    (regPath s m = true → v.getLsbD 31 = false ∨ s.ctl.boot.stage ≠ 4 → exec (.go m v) s = .next s)) ∧
  ∀ (digest : Nat) (s : State),
    let h := headerOf s.mem.dram 0x04000000
    let code := imageFail s s.mem.dram 0x04000000 (4096 * s.ctl.boot.length4k)
    let headerOk := headerFail s h (4096 * s.ctl.boot.length4k) = 0
    (s.ctl.boot.stage ≠ 5 ∨ (headerOk ∧ digest ≠ bodyDigest s.mem.dram 0x04000000) →
      exec (.hostImageVerifyDone digest) s = .next s) ∧
    (s.ctl.boot.stage = 5 → (headerOk → digest = bodyDigest s.mem.dram 0x04000000) → code = 0 → ∃ t, exec (.hostImageVerifyDone digest) s = .next t ∧
      t.ctl.boot = { s.ctl.boot with stage := 6, source := 2, failHost := 0 } ∧ t.ctl.imgDigest = h.digest ∧
      t.ctl.remap = true ∧ t.ctl.fwRunning = true ∧ t.flash = s.flash ∧
      (t.modes.mode = if s.ctl.boot.serviceFlag then .service else .ready) ∧
      (memWf s.mem.dram = true → ∀ i, i < 4096 + h.bodyLen →
        memRead t.mem.dram i = memRead s.mem.dram (0x04000000 + i))) ∧
    (s.ctl.boot.stage = 5 → (headerOk → digest = bodyDigest s.mem.dram 0x04000000) → code ≠ 0 → exec (.hostImageVerifyDone digest) s =
      .next { s with ctl := { s.ctl with boot := { s.ctl.boot with stage := 4, failHost := code } } })

/-! ### The bus matrix, registers, windows and debug (R77 to R87, R381, R543 to R546) -/

/-- R77 to R80, R546: a request that no target takes gets an error response, which is counted, captured until VALID is
cleared, and shown to its master (a bus-error exception, a debug error, a stopped control DMA, a mirror error); a
read that fails is aborted and a posted write discarded. A request that a target takes is no error. REMAP goes to 1
by the control processor only, and the address-0 view shows the boot ROM before it and control SRAM after it; an RC
field answers the reading master's count and clears that count alone. -/
def Obligations.BusErrorsAndRcFields : Prop :=
  let shown (m : Master) (s t : State) : Prop :=
    t.ctl.cpuFaults = (if m = .cpuInstr ∨ m = .cpuData then s.ctl.cpuFaults + 1 else s.ctl.cpuFaults) ∧
    t.ctl.debugError = (if m = .debug then true else s.ctl.debugError) ∧
    t.ctl.dmaBusy = (if m = .dma then false else s.ctl.dmaBusy) ∧
    t.ctl.mirrorErrors = (if m = .mirror then s.ctl.mirrorErrors + 1 else s.ctl.mirrorErrors) ∧
    t.ctl.errLog.count = rcAdd 65535 1 s.ctl.errLog.count ∧ t.ctl.errLog.valid = true ∧
    { t with ctl := { t.ctl with errLog := s.ctl.errLog, cpuFaults := s.ctl.cpuFaults, debugError := s.ctl.debugError,
                                 dmaBusy := s.ctl.dmaBusy, mirrorErrors := s.ctl.mirrorErrors }, last := s.last } = s
  (∀ (m : Master) (w posted : Bool) (a : BitVec 40) (s : State), busTarget s m w a.toNat = none →
    ∃ t, exec (.busDecodeMiss m w posted a) s = .next t ∧ shown m s t ∧
    (s.ctl.errLog.valid = true → t.ctl.errLog.write = s.ctl.errLog.write ∧
      t.ctl.errLog.master = s.ctl.errLog.master ∧ t.ctl.errLog.addr = s.ctl.errLog.addr) ∧
    (s.ctl.errLog.valid = false → t.ctl.errLog.write = w ∧ t.ctl.errLog.master = masterCode m ∧
      t.ctl.errLog.addr = a) ∧
    (w = false ∨ posted = false → t.last.abort = true) ∧ (w = true → posted = true → t.last = s.last)) ∧
  (∀ (m : Master) (w posted : Bool) (a : BitVec 40) (s : State), busTarget s m w a.toNat ≠ none →
    ∃ t, exec (.busDecodeMiss m w posted a) s = .next t ∧ { t with last := s.last } = s ∧ (w = true → t = s) ∧
      (w = false → t.last.abort = false)) ∧
  (∀ (m : Master) (w : Bool) (a : Nat) (s : State),
    ((0x400000 ≤ a ∧ a < 0x10000000) ∨ (0x68400000 ≤ a ∧ a < 0x80000000) ∨ (0xC0000000 ≤ a ∧ a < 0x2000000000) ∨
      0x4000000000 ≤ a → busTarget s m w a = none) ∧
    (a < 0x40000 → s.ctl.remap = false → busTarget s .cpuInstr false a = some (.rom a) ∧
      busTarget s m true a = none) ∧
    (a < 0x400000 → s.ctl.remap = true → busTarget s .cpuInstr w a = some (.sram a) ∧ busTarget s .dma w a = none) ∧
    (a < 0x400000 → busTarget s .dma w (0x20000000 + a) = some (.sram a) ∧ busTarget s .pcie w (0x20000000 + a) = none) ∧
    (a < memTop s → a < 0x2000000000 → busTarget s .dma w (0x2000000000 + a) = some (.dram a) ∧
      busTarget s .pcie w (0x2000000000 + a) = none)) ∧
  (∀ (m : Master) (w : Bool) (o : BitVec 21) (s : State), ∃ t, exec (.bar0BadAccess m w o) s = .next t ∧ shown m s t ∧
    (s.ctl.errLog.valid = false → o.toNat < 0x100000 → t.ctl.errLog.addr = BitVec.ofNat 40 (0x40000000 + o.toNat)) ∧
    (s.ctl.errLog.valid = false → 0x100000 ≤ o.toNat →
      t.ctl.errLog.addr = BitVec.ofNat 40 (0x50000000 + (o.toNat - 0x100000))) ∧
    (w = false → t.last.abort = true) ∧ (w = true → t.last = s.last)) ∧
  (∀ (m : Master) (v : Word64) (s : State),
    (regPath s m = false → exec (.valid m v) s = .next (busError m true 0x40000030 s)) ∧
    (regPath s m = true → v.getLsbD 44 = false → exec (.valid m v) s = .next s) ∧
    (regPath s m = true → v.getLsbD 44 = true → exec (.valid m v) s =
      .next { s with ctl := { s.ctl with errLog := { s.ctl.errLog with valid := false } } })) ∧
  (∀ (m : Master) (v : Word32) (s : State),
    (regPath s m = false → exec (.remap m v) s = .next (busError m true 0x40000000 s)) ∧
    (m = .cpuData → v.getLsbD 0 = true → exec (.remap m v) s = .next { s with ctl := { s.ctl with remap := true } }) ∧
    (regPath s m = true → m ≠ .cpuData ∨ v.getLsbD 0 = false → exec (.remap m v) s = .next s)) ∧
  (∀ (f : RcField) (m : Master) (s : State),
    (regPath s m = false → ∃ t, exec (.rcFieldRead f m) s = .next t ∧ t.last.abort = true ∧
      t.ctl.errLog.count = rcAdd 65535 1 s.ctl.errLog.count) ∧
    (regPath s m = true → ∃ t, exec (.rcFieldRead f m) s = .next t ∧ t.last.abort = false ∧
      t.last.value = BitVec.ofNat 64 (if m = .pcie then (rcGet s f).pcie else (rcGet s f).cpu) ∧
      t.pending = s.pending ∧ t.modes = s.modes ∧ t.chans = s.chans)) ∧
  ∀ (f : RcField) (m : Master) (s : State), (∀ p, (fport s p).lanes.length = 4) → regPath s m = true → ∃ t, exec (.rcFieldRead f m) s = .next t ∧
      (m = .pcie → rcGet t f = { rcGet s f with pcie := 0 }) ∧
      (m = .cpuData → rcGet t f = { rcGet s f with cpu := 0 }) ∧
      (m = .dma ∨ m = .debug → rcGet t f = rcGet s f)

/-- R79, R544, R545: a write of a register acts as that register's own row; a block's place without a register ignores
it; read-only registers keep their value; an access that R544 does not allow, one outside the blocks, and one by a
master with no path go to the default target; slot memory takes bytes. -/
def Obligations.RegisterWritesFollowTheMap : Prop :=
  (∀ (m : Master) (v : Word64) (s : State), regPath s m = true →
    exec (.registerWrite m 0x18 v false) s = exec (.go m (BitVec.ofNat 32 v.toNat)) s ∧
    exec (.registerWrite m 0x20 v false) s = exec (.done m (BitVec.ofNat 32 v.toNat)) s ∧
    exec (.registerWrite m 0x28 v false) s = exec (.kick m (BitVec.ofNat 32 v.toNat)) s ∧
    exec (.registerWrite m 0x30 v true) s = exec (.valid m v) s ∧
    exec (.registerWrite m 0x10 v false) s = .next s ∧
    exec (.registerWrite m 0x10030 v true) s = .next { s with hif := { s.hif with scratch := v } } ∧
    exec (.registerWrite m 0x10030 v false) s = .next { s with hif := { s.hif with
      scratch := s.hif.scratch.extractLsb' 32 32 ++ v.extractLsb' 0 32 } } ∧
    exec (.registerWrite m 0x42000 v false) s = .next (setFence 0 (BitVec.ofNat 32 v.toNat) s) ∧
    (∀ n : Fin 16, exec (.registerWrite m (BitVec.ofNat 21 (0x100 + 8 * n.val)) v true) s =
      exec (.ctlWinWrite n m v) s) ∧
    (∀ n : Fin 32, exec (.registerWrite m (BitVec.ofNat 21 (0x1000 + 8 * n.val)) v false) s =
      .next (slotRegWrite n.val m 0 (BitVec.ofNat 32 v.toNat) s))) ∧
  (∀ (m : Master) (o : BitVec 21) (v : Word64) (wide : Bool) (s : State),
    (0xC0000 ≤ o.toNat → o.toNat < 0x100000 ∨ 0x120000 ≤ o.toNat →
      exec (.registerWrite m o v wide) s = exec (.bar0BadAccess m true o) s) ∧
    (o.toNat < 0xC0000 → o.toNat % 4 ≠ 0 → exec (.registerWrite m o v wide) s = exec (.bar0BadAccess m true o) s) ∧
    (o.toNat < 0xC0000 → o.toNat % 8 = 0 → regPath s m = false → regSpan o.toNat = none →
      exec (.registerWrite m o v wide) s = .next (busError m true (BitVec.ofNat 40 (0x40000000 + o.toNat)) s)) ∧
    (o.toNat < 0xC0000 → o.toNat % 8 = 0 → regPath s m = true → regSpan o.toNat = none →
      exec (.registerWrite m o v wide) s = .next s) ∧
    (∀ k : Fin 131072, o.toNat = 0x100000 + k.val → exec (.registerWrite m o v wide) s =
      exec (.mbxSlotMemoryWrite m 0 k (natBytes (le (if wide then 8 else 4) v.toNat))) s))

/-- R81: a challenge is drawn unless a failed unlock is less than a second old; a key of the fused hash with its
signature over challenge and UID unlocks a device whose debug is not disabled, and a failure starts the second. R85
to R87: a reset of one master closes its bursts (its writes go on without a byte strobe, its reads are discarded),
clears its reservations and releases the claims of its path, and leaves the rest of the device alone. R82 to R84:
PCIe writes a window only where HOST_OWN is set and BASE stays out of the firmware region; only the control
processor's data port changes HOST_OWN. A BAR2 access passes an enabled window below T as activity 257, and else
goes to the default target. -/
def Obligations.DebugMastersAndWindows : Prop :=
  ((∀ (c : BitVec 256) (s : State),
     let waits := ∃ t0, s.ctl.lockout = some t0 ∧ nowNs s < t0 + 1000000000
     (waits → exec (.dbgAuth c) s = .next s ∧ exec .dbgLockoutExpiry s = .next s) ∧
     (¬ waits → exec (.dbgAuth c) s = .next { s with ctl := { s.ctl with challenge := some c } } ∧
       exec .dbgLockoutExpiry s = .next { s with ctl := { s.ctl with lockout := none } })) ∧
   (∀ (k g : List Byte) (s : State),
     let right (c : BitVec 256) : Prop := sha384 (k.map BitVec.toNat) = le 48 s.fuses.debugKeyHash.toNat ∧
       ecdsaOk (k.map BitVec.toNat) (g.map BitVec.toNat) (le 32 c.toNat ++ le 8 s.fuses.uid) = true
     (s.ctl.challenge = none → exec (.dbgAuthVerify k g) s = .next s) ∧
     (∀ c, s.ctl.challenge = some c → right c → exec (.dbgAuthVerify k g) s = .next { s with
       ctl := { s.ctl with challenge := none, debugUnlocked := s.ctl.debugUnlocked || !s.fuses.debugDisable } }) ∧
     (∀ c, s.ctl.challenge = some c → ¬ right c → exec (.dbgAuthVerify k g) s = .next { s with
       ctl := { s.ctl with challenge := none, lockout := some (nowNs s) } })) ∧
   (∀ (i : Instr) (m : Master) (s : State), (i, m) ∈ [(Instr.debugDisconnect, Master.debug), (.pcieReset, .pcie),
       (.ctlDmaAbort, .dma)] → ∃ t, exec i s = .next t ∧
     t.ctl.reservations = s.ctl.reservations.filter (· ≠ m) ∧
     (∀ n, (mcAt t n).queue = (mcAt s n).queue.map fun q => { q with req := closeReq m q.req }) ∧
     t.mem.dram = s.mem.dram ∧ { t.mem with mcs := s.mem.mcs } = s.mem ∧
     t.ctl.debugUnlocked = s.ctl.debugUnlocked ∧ t.ctl.dmaBusy = (if m = .dma then false else s.ctl.dmaBusy) ∧
     (m = .pcie → (∀ e ∈ t.mbx.slots, e.2.owner ≠ some .host) ∧ t.evt.busMaster = false ∧ t.evt.msixEn = false ∧
       t.evt.pba = [] ∧ t.evt.masked = List.range 32) ∧
     (m ≠ .pcie → t.mbx = s.mbx ∧ t.evt = s.evt) ∧ t.mbx.bells = s.mbx.bells ∧ t.mbx.inWork = s.mbx.inWork ∧
     t.evt.fifo = s.evt.fifo ∧ { t with ctl := s.ctl, mbx := s.mbx, evt := s.evt, mem := s.mem } = s) ∧
   (∀ (m : Master) (r : MemReq),
     (busMaster r.reader ≠ some m → closeReq m r = r) ∧
     (busMaster r.reader = some m → r.data.isSome = true → closeReq m r = { r with data := some [] }) ∧
     (busMaster r.reader = some m → r.data = none → closeReq m r = { r with reader := .closed })) ∧
   ∀ (n : Fin 64) (s : State), ∃ t, exec (.mirrorStreamRecovery n) s = .next t ∧
     Master.mirror ∉ t.ctl.reservations ∧ (∀ e ∈ t.mbx.slots, e.2.owner ≠ some .fabric) ∧
     (∀ g, group? s n.val = some g → group? t n.val = some { g with mirrorBad := g.mirrorBad || decide (g.role = 1) }) ∧
     (∀ k, k ≠ n.val → group? t k = group? s k) ∧ { t with ctl := s.ctl, mbx := s.mbx, prt := s.prt } = s) ∧
  ((∀ (n : Fin 16) (m : Master) (v : Word64) (s : State),
     let w := tabGet Win.reset s.ctl.wins n.val
     let base := v.toNat / 67108864 % 2048
     let err : State := busError m true (BitVec.ofNat 40 (0x40000100 + 8 * n.val)) s
     let own := if m = .cpuData then v.getLsbD 3 else w.hostOwn
     let new : Win := { base := BitVec.ofNat 11 base, hostOwn := own, wrEn := v.getLsbD 2, rdEn := v.getLsbD 1, en := v.getLsbD 0 }
     (regPath s m = false → exec (.ctlWinWrite n m v) s = .next err) ∧
     (m = .pcie → w.hostOwn = false ∨ base < 16 → exec (.ctlWinWrite n m v) s = .next err) ∧
     (regPath s m = true → (m ≠ .pcie ∨ (w.hostOwn = true ∧ 16 ≤ base)) → ∃ t, exec (.ctlWinWrite n m v) s = .next t ∧
       tabGet Win.reset t.ctl.wins n.val = new ∧
       (∀ k, k ≠ n.val → tabGet Win.reset t.ctl.wins k = tabGet Win.reset s.ctl.wins k) ∧
       { t with ctl := { t.ctl with wins := s.ctl.wins } } = s)) ∧
   ∀ (o : BitVec 30) (len : Nat) (data : Option (List Byte)) (s : State),
     let w := tabGet Win.reset s.ctl.wins (o.toNat / 67108864)
     let a := w.base.toNat * 67108864 + o.toNat % 67108864
     let size := match data with | some d => d.length | none => len
     let may := if data.isSome then w.wrEn else w.rdEn
     (w.en = false ∨ may = false ∨ memTop s < a + size → ∃ t, exec (.bar2WindowAccess o len data) s = .next t ∧
       t.ctl.errLog.count = rcAdd 65535 1 s.ctl.errLog.count ∧
       (s.ctl.errLog.valid = false → t.ctl.errLog.master = masterCode .pcie ∧ t.ctl.errLog.write = data.isSome ∧
         t.ctl.errLog.addr = BitVec.ofNat 40 (0x80000000 + o.toNat)) ∧
       (data = none → t.last.abort = true) ∧
       { t with ctl := { t.ctl with errLog := s.ctl.errLog }, last := s.last } = s) ∧
     (w.en = true → may = true → a + size ≤ memTop s → ∃ t, exec (.bar2WindowAccess o len data) s = .next t ∧
       t.ctl.errLog = s.ctl.errLog ∧ t.mem.dram = s.mem.dram ∧
       t = enqueueReqs (splitSectors (size + 1) a size data) s))

/-! ### Power, reset and the SMBus target (R518, R519, R526 to R532, R538, R547 to R555) -/

/-- R528 to R532: power sequencing brings the rails up in order; a rail that fails is tried at most three times; VIN
faults, EN low and RESET_N low stop launches and take the device out of service, keeping what flash and fuses hold;
a RESET_N pulse below 1 us does nothing, and one of 1 us to 10 us resets the device or does nothing. -/
def Obligations.PowerSequencingAndResets : Prop :=
  (∀ (s : State),
    (s.pwr.phase = 0 → s.pwr.failed = false → s.hlth.thermal = false → exec .powerQualified s = .next { s with
      pwr := { s.pwr with en := true, phase := 1, railIdx := 1, rails := [.aux],
                          smbAddr := 0x58 + s.pwr.addrBalls } }) ∧
    (s.pwr.phase ≠ 0 ∨ s.pwr.failed = true ∨ s.hlth.thermal = true → exec .powerQualified s = .next s) ∧
    (s.pwr.phase = 1 → s.pwr.railIdx < 6 → exec .railStep s = .next { s with pwr := { s.pwr with
      railIdx := s.pwr.railIdx + 1,
      rails := [Rail.aux, .core, .sram, .vpp, .vddq, .serdesIo].take (s.pwr.railIdx + 1) } }) ∧
    (s.pwr.phase ≠ 1 ∨ 6 ≤ s.pwr.railIdx → exec .railStep s = .next s) ∧
    (s.pwr.phase = 4 → exec .railRetryTimer s = .next { s with pwr := { s.pwr with phase := 0 } }) ∧
    (s.pwr.phase ≠ 4 → exec .railRetryTimer s = .next s) ∧
    (s.hlth.thermal = true → s.pwr.phase = 0 → 10000 ≤ s.hlth.coolMs → ∃ t, exec .thermalRecovery s = .next t ∧
      t.hlth.thermal = false ∧ (s.pwr.en = true → t.pwr.phase = 1 ∧ t.pwr.rails = [.aux] ∧
        t.pwr.smbAddr = 0x58 + s.pwr.addrBalls) ∧
      (s.pwr.en = false → t.pwr = s.pwr)) ∧
    (s.hlth.thermal = false ∨ s.pwr.phase ≠ 0 ∨ s.hlth.coolMs < 10000 → exec .thermalRecovery s = .next s)) ∧
  (∀ (r : Rail) (s : State),
    (s.pwr.phase = 1 → r ∈ s.pwr.rails → ∃ t, exec (.railFail r) s = .next t ∧ r ∉ t.pwr.rails ∧
      (∀ x ∈ t.pwr.rails, x = .aux) ∧ t.pwr.attempts = s.pwr.attempts + 1 ∧ t.pwr.pgood = false ∧
      t.pwr.faultN = false ∧ t.pwr.causeCode = 3 ∧ t.pwr.causeRail = railCode r ∧
      t.pwr.causeAttempts = s.pwr.attempts + 1 ∧ t.pwr.phase = (if 2 ≤ s.pwr.attempts then 0 else 4) ∧
      t.pwr.failed = decide (2 ≤ s.pwr.attempts)) ∧
    (s.pwr.phase ≠ 1 ∨ r ∉ s.pwr.rails → exec (.railFail r) s = .next s)) ∧
  (∀ (i : Instr) (cause : Nat) (s : State), (i, cause) ∈ [(Instr.vinOvervoltage, 2), (.enLow, 5)] ∨
      (∃ n, 20 < n ∧ i = .vinUndervoltage n ∧ cause = 1) →
    ∃ t, exec i s = .next t ∧ t.pwr.phase = 0 ∧ t.pwr.attempts = 0 ∧ t.pwr.failed = false ∧
      (i = .enLow → t.pwr.en = false) ∧ t.fuses = s.fuses ∧
      (s.pwr.phase = 0 ∨ s.pwr.phase = 4 → { t with pwr := s.pwr } = s) ∧
      (s.pwr.phase ≠ 0 → s.pwr.phase ≠ 4 → t.pwr.pgood = false ∧ t.pwr.faultN = false ∧ t.pwr.causeCode = cause ∧
        t.pwr.rails = s.pwr.rails.filter (fun x => decide (x = .aux)) ∧ t.chans = [] ∧ t.mem.dram = [] ∧
        t.ctl.fwRunning = false ∧ t.modes.mode = .boot ∧
        t.flash = { s.flash with writing := none, broken := false } ∧ t.flt.retired = ((mapCopy s.flash).map MapCopy.units).getD [] ∧
        t.flt.log = s.flt.log.take s.flt.flashed)) ∧
  (∀ (n : Nat) (s : State), n ≤ 20 → exec (.vinUndervoltage n) s = .next s) ∧
  ∀ (n : Nat) (s : State),
    (n < 1000 → exec (.resetNAssert n) s = .next s) ∧
    (1000 ≤ n → n < 10000 → ∃ t, exec (.resetNAssert n) s = .next t ∧ (t = { s with free := s.free + 1 } ∨
      (s.pwr.phase = 3 ∧ t.modes.mode = .boot ∧ t.chans = [] ∧ t.ctl.fwRunning = false ∧
        { t.pwr with alertN := s.pwr.alertN } = s.pwr ∧ t.mem.dram = s.mem.dram))) ∧
    (10000 ≤ n → s.pwr.phase = 3 → ∃ t, exec (.resetNAssert n) s = .next t ∧ t.pwr.phase = 2 ∧
      t.pwr.resetN = false ∧ t.modes.mode = .boot ∧ t.chans = [] ∧ t.ctl.fwRunning = false ∧ t.ctl.boot.stage = 0 ∧
      t.mem.dram = s.mem.dram ∧ t.flt.retired = s.flt.retired ∧ t.fuses = s.fuses) ∧
    (10000 ≤ n → s.pwr.phase ≠ 3 → exec (.resetNAssert n) s =
      .next { s with pwr := { s.pwr with resetN := false } }) ∧
    (s.pwr.phase = 2 → s.pwr.resetN = false → ∃ t, exec .resetNRelease s = .next t ∧ t.pwr.phase = 3 ∧
      t.pwr.resetN = true ∧ t.ctl.boot.stage = 2 ∧ t.chans = s.chans) ∧
    (s.pwr.phase ≠ 2 ∨ s.pwr.resetN = true → exec .resetNRelease s =
      .next { s with pwr := { s.pwr with resetN := true } })

/-- R518, R519, R548, R553: a reading of every 1 ms sets the monitors, their lowest and highest values and HIF_HEALTH,
and raises an event at each crossing of a warning level; a die sensor at 110 degrees stops every launch, logs code
17 to flash and raises EV_THERMAL_SHUTDOWN, and the device powers down (the model: at the next reading, a choice of
the assumption log). Below 2.5 V the recorded cause is lost. -/
def Obligations.SensorsAndThermalShutdown : Prop :=
  ∀ (vin : Nat) (rails : List Nat) (temps : List Int) (mw : Nat) (s : State),
    let tv (k : Nat) : Int := temps.getD k 0
    (s.pwr.phase = 3 → s.hlth.thermal = false → (∀ k, k < 4 → tv k < 1100) →
      ∃ t, exec (.healthSensorUpdate vin rails temps mw) s = .next t ∧
        t.hlth.volts = vin :: (List.range 7).map (fun i => rails.getD i 0) ∧ t.hlth.temps = (List.range 8).map tv ∧
        (∀ i, i < 8 → t.hlth.voltsMin.getD i 0 = min (s.hlth.voltsMin.getD i 0) (t.hlth.volts.getD i 0) ∧
          t.hlth.tempsMax.getD i 0 = max (s.hlth.tempsMax.getD i 0) (tv i)) ∧
        t.hlth.powerMw = mw ∧ t.hif.vinMv = vin ∧ (∀ k, k < 4 → tv k ≤ t.hif.tempMax) ∧
        (t.hif.tempMax = -32768 ∨ ∃ k, k < 4 ∧ t.hif.tempMax = tv k) ∧
        (t.hif.therm = true ↔ ∃ k, k < 8 ∧ (s.hlth.warn.getD k 95 * 10 : Nat) < tv k) ∧
        (s.evt.fifo = [] → ∀ k, k < 8 →
          (s.hlth.above.getD k false = false → (s.hlth.warn.getD k 95 * 10 : Nat) < tv k →
            ∃ e ∈ t.evt.fifo, e.code = evHlthTemp ∧ e.data = eventData ([k, 1] ++ u16 (twos 2 (tv k)))) ∧
          (s.hlth.above.getD k false = true → tv k ≤ (s.hlth.warn.getD k 95 * 10 : Nat) - 20 →
            ∃ e ∈ t.evt.fifo, e.code = evHlthTemp ∧ e.data = eventData ([k, 0] ++ u16 (twos 2 (tv k))))) ∧
        t.chans = s.chans ∧ t.modes = s.modes ∧ t.prt = s.prt ∧ t.mem = s.mem ∧ t.ctl = s.ctl) ∧
    (s.pwr.phase = 3 → s.hlth.thermal = false → (∃ k, k < 4 ∧ 1100 ≤ tv k) → s.flt.flashed ≤ s.flt.log.length →
      s.flt.log.length < 61440 → ∃ t, exec (.healthSensorUpdate vin rails temps mw) s = .next t ∧
        t.hlth.thermal = true ∧ t.prt.stopped = true ∧ t.flt.flashed = t.flt.log.length ∧
        (∃ e, t.flt.log = s.flt.log ++ [e] ∧ e.code = 17) ∧
        (s.evt.fifo = [] → ∃ e ∈ t.evt.fifo, e.code = evThermalShutdown)) ∧
    (s.pwr.phase = 3 → s.hlth.thermal = true → ∃ t, exec (.healthSensorUpdate vin rails temps mw) s = .next t ∧
      t.pwr.phase = 0 ∧ t.pwr.pgood = false ∧ t.pwr.faultN = false ∧ t.chans = [] ∧ t.hlth.thermal = true ∧
      (2500 ≤ vin → t.pwr.causeCode = 4) ∧ t.flt.log = s.flt.log.take s.flt.flashed) ∧
    (s.pwr.phase ≠ 3 → ∃ t, exec (.healthSensorUpdate vin rails temps mw) s = .next t ∧
      (s.pwr.phase ≠ 2 → ∀ k, k < 4 → t.hlth.temps.getD k 0 = -32768) ∧ t.pwr.vinMv = vin ∧
      (vin < 2500 → t.pwr.rails = [] ∧ t.pwr.causeCode = 0) ∧ (2500 ≤ vin → t.pwr.rails = s.pwr.rails) ∧
      t.hlth.coolMs = (if (List.range 8).all (fun k => decide (t.hlth.temps.getD k 0 < 950)) then s.hlth.coolMs + 1 else 0) ∧
      t.pwr.phase = s.pwr.phase ∧ t.chans = s.chans ∧ t.evt = s.evt)

/-- R547, R548, R551 to R555: the SMBus target answers each command with its word while the auxiliary rail is up and
with NACK else; a write of 0x01 clears the recorded cause, 0xA5 resets the device; an alert response names the
lowest address and ends the alert. -/
def Obligations.SmbusTargetAnswers : Prop :=
  (∀ (i : Instr) (bs : List Nat) (s : State),
    (i, bs) ∈ [(Instr.smbId, u16 (s.fuses.orderCode * 256 + 1)), (.smbUid, u64 s.fuses.uid),
      (.smbStatus, u16 (s.pwr.pgood.toNat + 2 * (!s.pwr.faultN || s.ctl.restart.lockstepPerm).toNat +
        4 * (thermLow s).toNat + 8 * s.pwr.en.toNat + 16 * (s.hif.mode % 16) + 256 * s.ctl.fwRunning.toNat)),
      (.smbPwrCause, u16 (s.pwr.causeCode % 16 + 16 * (s.pwr.causeRail % 16) + 256 * (s.pwr.causeAttempts % 16))),
      (.smbVin, u16 s.pwr.vinMv), (.smbPower, u16 (s.hlth.powerMw / 100)), (.smbTempMax, u16 (twos 2 s.hif.tempMax)),
      (.smbHealth, u64 (healthValue s (decide (0 < s.hlth.supply.pcie))))] ∨
      (∃ k, i = .smbTempk k ∧ bs = u16 (twos 2 (s.hlth.temps.getD k.val 0))) →
    exec i s = .next { s with pwr := { s.pwr with
      lastSmb := if s.pwr.rails.contains .aux then some (natBytes bs) else none } }) ∧
  (∀ (s : State) (b : Bool), healthValue s b % 16 = s.hif.mode % 16 ∧ healthValue s b / 256 % 256 = s.hif.channels % 256 ∧
    healthValue s b / 131072 % 2 = s.ctl.fwRunning.toNat ∧ healthValue s b / 262144 % 2 = s.hif.restarting.toNat ∧
    healthValue s b / 524288 % 2 = s.hif.lockPerm.toNat ∧ healthValue s b / 1048576 % 2 = b.toNat ∧
    healthValue s b / 2097152 % 2 = s.hif.therm.toNat ∧ healthValue s b / 4194304 % 1024 = s.hif.retired % 1024 ∧
    healthValue s b / 4294967296 % 65536 = s.hif.vinMv % 65536 ∧
    healthValue s b / 281474976710656 = twos 2 s.hif.tempMax) ∧
  ∀ (v c : Byte) (lowest : Bool) (s : State), s.pwr.rails.contains .aux = true →
    exec (.smbPwrCauseClear v) s = .next (if v = 1 then
      { s with pwr := { s.pwr with causeCode := 0, causeRail := 0, causeAttempts := 0 } } else s) ∧
    (v ≠ 0xA5 ∨ s.pwr.phase ≠ 3 → exec (.smbReset v) s = .next s) ∧
    (s.pwr.phase = 3 → ∃ t, exec (.smbReset 0xA5) s = .next t ∧ t.modes.mode = .boot ∧ t.chans = [] ∧
      t.ctl.fwRunning = false ∧ t.mem.dram = s.mem.dram ∧ t.flt.retired = s.flt.retired) ∧
    ((c.toNat ≤ 6 ∨ (8 ≤ c.toNat ∧ c.toNat ≤ 0x11)) → exec (.smbUnknownCommand c) s = .next s) ∧
    (c.toNat = 7 ∨ 0x11 < c.toNat → exec (.smbUnknownCommand c) s =
      .next { s with pwr := { s.pwr with lastSmb := none } }) ∧
    (lowest = false ∨ s.pwr.alertN = true → exec (.smbAlertResponse lowest) s = .next s) ∧
    (lowest = true → s.pwr.alertN = false → exec (.smbAlertResponse lowest) s = .next { s with
      pwr := { s.pwr with alertN := true, lastSmb := some (natBytes [2 * s.pwr.smbAddr]) } })

/-! ### The event ring and the boundaries of device time (R30 to R39, R99, R126 to R131, R331, R429, R542, R550) -/

/-- R113, R126 to R130, R542, R550: the oldest event's 32 bytes go to the ring in host memory while EN, bus mastering
and room allow, and with their tag to the event destination; an urgent entry sends its vector at once, another when
the holdoff allows, else at its end; a masked vector waits in the PBA until the host unmasks it; EN going to 1
starts the indices at 0; a CONS outside the entries in use is ignored; lost events are reported once there is room. -/
def Obligations.EventRingDelivers : Prop :=
  (∀ (s : State),
    (s.ctl.fwRunning = false ∨ s.evt.en = false ∨ s.evt.busMaster = false ∨ s.evt.fifo = [] ∨
      (s.evt.prod + 512 - s.evt.cons) % 512 = 256 → exec .eventRingWrite s = .next s) ∧
    (∀ x xs, s.ctl.fwRunning = true → s.evt.en = true → s.evt.busMaster = true → s.evt.fifo = x :: xs →
      (s.evt.prod + 512 - s.evt.cons) % 512 ≠ 256 → ∃ t, exec .eventRingWrite s = .next t ∧
        (let bs := u16 x.code ++ u16 x.channel ++ u32 x.seq ++ u64 x.time ++ x.data
         t.evt.host = memWrites s.evt.host (s.evt.base.toNat * 8192 + 32 * (s.evt.prod % 256)) (natBytes bs) ∧
         ∀ ip port, s.mbx.evtDest = some (ip, port) →
           t.mbx.datagrams = s.mbx.datagrams ++ [.event ip port bs (tagOf s bs)]) ∧
        t.evt.prod = (s.evt.prod + 1) % 512 ∧
        (s.evt.lostPending = 0 → t.evt.fifo = xs) ∧
        (0 < s.evt.lostPending → xs.length < 512 → t.evt.lostPending = 0 ∧ ∃ e, t.evt.fifo = xs ++ [e] ∧
          e.code = evEventsLost ∧ e.data = eventData (u32 s.evt.lostPending ++ u32 s.evt.firstLost)) ∧
        (s.mbx.evtDest = none → t.mbx = s.mbx) ∧
        (bitAt x.code 7 = true → s.evt.msixEn = true → s.evt.urgVector ∉ s.evt.masked →
          t.evt.sent = s.evt.sent ++ [s.evt.urgVector]) ∧
        (bitAt x.code 7 = true → s.evt.msixEn = true → s.evt.urgVector ∈ s.evt.masked →
          t.evt.sent = s.evt.sent ∧ s.evt.urgVector ∈ t.evt.pba) ∧
        (bitAt x.code 7 = false → holdoffOver s = false → t.evt.sent = s.evt.sent ∧ t.evt.vectorDue = true) ∧
        (bitAt x.code 7 = false → holdoffOver s = true → s.evt.msixEn = true → s.evt.vector ∉ s.evt.masked →
          t.evt.sent = s.evt.sent ++ [s.evt.vector] ∧ t.evt.lastVector = some (nowNs s)) ∧
        { t with evt := s.evt, mbx := s.mbx } = s) ∧
    (s.evt.vectorDue = false ∨ holdoffOver s = false → exec .holdoffExpiry s = .next s) ∧
    (s.evt.vectorDue = true → holdoffOver s = true → ∃ t, exec .holdoffExpiry s = .next t ∧
      t.evt.vectorDue = false ∧ t.evt.lastVector = some (nowNs s) ∧
      (s.evt.busMaster = true → s.evt.msixEn = true → s.evt.vector ∉ s.evt.masked →
        t.evt.sent = s.evt.sent ++ [s.evt.vector]) ∧ { t with evt := s.evt } = s)) ∧
  (∀ (v : Word32) (s : State),
    let n := v.toNat / 65536 % 512
    ((n + 512 - s.evt.cons) % 512 ≤ (s.evt.prod + 512 - s.evt.cons) % 512 →
      exec (.cons v) s = .next { s with evt := { s.evt with cons := n } }) ∧
    ((s.evt.prod + 512 - s.evt.cons) % 512 < (n + 512 - s.evt.cons) % 512 → exec (.cons v) s = .next s)) ∧
  (∀ (i : Instr) (v : Word32) (s : State), i = .enSet v ∨ i = .enClear v → ∃ t, exec i s = .next t ∧
    t.evt.en = v.getLsbD 31 ∧ t.evt.urgVector = v.toNat / 65536 % 32 ∧ t.evt.vector = v.toNat / 256 % 32 ∧
    t.evt.holdoffUs = v.toNat % 256 ∧
    (s.evt.en = false → v.getLsbD 31 = true → t.evt.prod = 0 ∧ t.evt.cons = 0) ∧
    (s.evt.en = true ∨ v.getLsbD 31 = false → t.evt.prod = s.evt.prod ∧ t.evt.cons = s.evt.cons) ∧
    t.evt.fifo = s.evt.fifo ∧ t.evt.sent = s.evt.sent ∧ t.evt.host = s.evt.host ∧ { t with evt := s.evt } = s) ∧
  ∀ (v : Fin 32) (bm me : Bool) (s : State), ∃ t, exec (.msixUnmask v bm me) s = .next t ∧
    t.evt.busMaster = bm ∧ t.evt.msixEn = me ∧ t.evt.masked = s.evt.masked.filter (fun x => decide (x ≠ v.val)) ∧
    (bm = true → me = true → v.val ∈ s.evt.pba → v.val ∈ t.evt.sent ∧ v.val ∉ t.evt.pba) ∧
    (bm = false ∨ me = false → t.evt.sent = s.evt.sent ∧ t.evt.pba = s.evt.pba) ∧ { t with evt := s.evt } = s

/-- R29, R30, R33, R39, R331, R429: at a period's end the counts become those of the last period, credits grow by 100
cycles per LU up to twice the frame cycle cost (on a pipeline that the channel did not use before, from no credit:
the model's choice, log 78), an input's ring is charged to its lowest user, and the observation fields of TSK and
TMG describe the period just completed. R60, R171, R193, R200, R353, R371, R387, R428, R446: at a second's end each
count of the second that is not 0 raises its event and starts again from 0, where the event FIFO loses none. -/
def Obligations.LedgerPeriodAndSecond : Prop :=
  (∀ (s : State),
     (nowNs s / 100000 * 100000 = s.ledger.periodStart → exec .ledgerPeriodBoundary s = .next s) ∧
     (nowNs s / 100000 * 100000 ≠ s.ledger.periodStart → (∀ h q, q ∈ (chan s h).pics → q.sdiDue = false) →
       ∃ t, exec .ledgerPeriodBoundary s = .next t ∧ t.ledger.periodStart = nowNs s / 100000 * 100000 ∧
         t.ledger.lastPeriodStart = s.ledger.periodStart ∧
         (∀ a, let x := tabGet LedgerRec.zero s.ledger.recs a
           let y := tabGet LedgerRec.zero t.ledger.recs a
           y.lastMem = x.memBytes ∧ y.lastCycles = x.cycles ∧ y.lastFab = x.fabBytes ∧ y.lastHold = x.holdMax ∧
             y.throttled = x.throttled + x.throttledNow.toNat) ∧
         (∀ p, p < 8 → let x := tabGet Pipe.reset s.pipes p
           ((tabGet? s.pipes p).isSome = true ∨
             ∃ h r, h < 64 ∧ active (chan s h).state = true ∧ r ∈ (chan s h).runs ∧ r.pipe = p) →
           ∃ y, tabGet? t.pipes p = some y ∧ { y with credits := x.credits } = x ∧ ∀ k, k < 128 →
           let c := chan s (k / 2)
           let rs := c.runs.filter fun r => decide (r.pipe = p ∧ r.work = k % 2)
           tabGet? y.credits k = if active c.state = true ∧ rs ≠ [] then
             some (min (tabGet 0 x.credits k + catchUp s (k / 2) ((rs.map BandRun.share).sum * 100))
               ((rs.map BandRun.frameCost).sum * 512)) else none) ∧
         (∀ r d, tabGet? s.tsk.regions r = some d → (regionOf t r).depths = d.curDepths ∧
           (regionOf t r).hist = d.curHist ∧ (regionOf t r).period = s.ledger.periodStart ∧
           (regionOf t r).curHist = List.replicate 16 0) ∧
         t.tsk.lent = s.tsk.curLent ∧ t.tsk.curLent = 0 ∧
         (∀ c x, tabGet? s.tsk.cells c = some x → x.task = none → ∃ y, tabGet? t.tsk.cells c = some y ∧
           y.busy = x.curBusy ∧ y.curBusy = 0 ∧ y.corrected = x.curCorrected) ∧
         (∀ n q, tabGet? s.tmg.queues n = some q → ∃ y, tabGet? t.tmg.queues n = some y ∧ y.entries = q.entries ∧
           y.resMax = min q.curRes 4294967295 ∧ y.lateMax = min q.curLate 4294967295 ∧
           y.depthEnd = min (queuedBytes q.entries) 4294967295 ∧ y.depthMax = min q.curDepth 4294967295 ∧
           y.curRes = 0 ∧ y.curLate = 0) ∧
         (∀ i x, tabGet? s.inputs i = some x →
           tabGet? t.inputs i = some { x with charged := (inputUsers s i).head? }) ∧
         t.tmg.period = s.ledger.periodStart ∧ t.mon.drawUsed = 0 ∧ t.chans = s.chans ∧ t.modes = s.modes ∧
         t.prt = s.prt ∧ t.mem.dram = s.mem.dram ∧ t.evt = s.evt)) ∧
  (∀ (s : State),
     (nowNs s / 1000000000 = s.tim.second → exec .secondBoundary s = .next s) ∧
     (nowNs s / 1000000000 ≠ s.tim.second → ∃ t, exec .secondBoundary s = .next t ∧
       t.tim = { s.tim with second := nowNs s / 1000000000 } ∧
       (∀ i x, tabGet? s.inputs i = some x → tabGet? t.inputs i = some { x with sec0 := 0, sec1 := 0, secM := 0 }) ∧
       (∀ c x, tabGet? s.chans c = some x →
         tabGet? t.chans c = some { x with concealSec := 0, deriveSec := 0, firstFlag := 0 }) ∧
       (t.evt.lostTotal = s.evt.lostTotal →
         (∀ i x, (i, x) ∈ s.inputs → x.present = false → inputUsers s i ≠ [] →
           ∃ e ∈ t.evt.fifo, e.code = evInputAbsent ∧ e.data = eventData (u16 i)) ∧
         (∀ i x, (i, x) ∈ s.inputs → 0 < x.secM →
           ∃ e ∈ t.evt.fifo, e.code = evInputLoss ∧ e.data = eventData (u16 i ++ [255, 0] ++ u32 x.secM)) ∧
         (∀ i x, (i, x) ∈ s.inputs → 0 < x.sec0 →
           ∃ e ∈ t.evt.fifo, e.code = evInputLoss ∧ e.data = eventData (u16 i ++ [0, 0] ++ u32 x.sec0)) ∧
         (∀ f x, (f, x) ∈ s.policers → 0 < x.yellowDropped + x.redDropped → ∃ e ∈ t.evt.fifo, e.code = evInputPoliced ∧
           e.data = eventData (u16 (f / 32) ++ u16 f ++ u32 x.yellowDropped ++ u32 x.redDropped)) ∧
         (∀ o x l, (o, x) ∈ s.outputs → l ∈ x.legs → 0 < l.secLate → ∃ e ∈ t.evt.fifo, e.code = evLaunchLate ∧
           e.data = eventData (u16 o ++ u8 l.leg ++ [0] ++ u32 l.secLate ++ u32 l.secMax)) ∧
         (∀ h c, (h, c) ∈ s.chans → 0 < c.concealSec + c.deriveSec →
           ∃ e ∈ t.evt.fifo, e.code = evDecodeConceal ∧ e.channel = h ∧
             e.data = eventData (u32 c.concealSec ++ u32 c.deriveSec ++ u64 c.firstFlag)) ∧
         (0 < (s.mem.mcs.map fun e => e.2.secCorrected).sum → ∃ e ∈ t.evt.fifo, e.code = evMemCorrected) ∧
         (∀ p x, (p, x) ∈ s.fab.ports → 0 < x.secResends →
           ∃ e ∈ t.evt.fifo, e.code = evFabReplay ∧ e.data = eventData (u8 p ++ [0, 0, 0] ++ u32 x.secResends)) ∧
         (0 < s.fab.secUnroutable → ∃ e ∈ t.evt.fifo, e.code = evFabUnreachable ∧
           e.data = eventData (u32 s.fab.secUnroutable ++ u16 s.fab.firstUnroutable)) ∧
         (∀ h g, (h, g) ∈ s.prt.groups → 0 < g.digestSec →
           ∃ e ∈ t.evt.fifo, e.code = evProtDigest ∧ e.channel = h) ∧
         (∀ n x, (n, x) ∈ s.aud.ports → 0 < x.secUnder → ∃ e ∈ t.evt.fifo, e.code = evAudUnderrun ∧
           e.data = eventData (u32 (endpoint 1 n 0 0).toNat ++ u32 x.secUnder))) ∧
       { t with tim := s.tim, evt := s.evt, inputs := s.inputs, policers := s.policers, outputs := s.outputs,
                chans := s.chans, mem := s.mem, fab := s.fab, prt := s.prt, aud := s.aud } = s))

/-! ### Memory (R82, R333 to R354) -/

/-- R32, R34, R36, R39 to R41, R79, R333, R345, R346, R350 to R352: a request carries the class, port and activity of
its requester; within its activity's budget it is served: a write stores its bytes, a full write clears poison, a
read returns the bytes with the poison flag, and an error that stays uncorrectable poisons the sector; one over
budget is held; the next request of a bank is chosen in the order of R346, each sector in arrival order among those
admitted. A request at or above T is answered with an error by the requesters' rules, and else stores nothing (what
such a read returns is the model's choice, log 53). R9, R256, R308: a read fills its pipeline's cache, a block's DMA
writes its place, and a request that a cache answers leaves the controller idle. R40, R41: requests made in one
cycle enter the queues in the order in which the arbiters grant them. -/
def Obligations.MemoryRequestsAreServed : Prop :=
  (∀ (mc : Fin 8) (rs : List MemReq) (ecc : EccOutcome) (s : State), ∃ t, exec (.memRequest mc rs ecc) s = .next t) ∧
  (∀ (r : MemReq) (s : State), let q := issued s r
    q.addr = r.addr ∧ q.len = r.len ∧ q.reader = r.reader ∧
    (r.reader = .other → q = r) ∧
    (r.reader = .firmware ∨ r.reader = .bar2 ∨ r.reader = .dma → q.cls = .bulk ∧ q.port = 68) ∧
    (r.reader = .firmware ∨ r.reader = .audio → q.activity = 258) ∧
    (r.reader = .bar2 ∨ r.reader = .dma → q.activity = 257) ∧
    (∀ i, r.reader = .monitor i → q.cls = .iso ∧ q.activity = 256) ∧
    (∀ h, r.reader = .ingest h → q.cls = .iso ∧ q.activity = 4 * h.val) ∧
    (∀ h k p, r.reader = .pipeline h k p → q.cls = .pipe ∧ q.activity = 4 * h.val + 1) ∧
    (∀ h, r.reader = .egress h → q.cls = .iso ∧ q.activity = 4 * h.val + 2) ∧
    (∀ h, r.reader = .mirror h → q.cls = .bulk ∧ q.activity = 4 * h.val + 3)) ∧
  (∀ (mc : Fin 8) (r : MemReq) (ecc : EccOutcome) (s : State), (mcAt s mc.val).queue = [] → r.addr < memTop s →
    (homeOf s r.addr).1 = mc.val → readsPoison s r = false → cacheHit s (issued s r) = false →
    let q := issued s r
    let a := q.activity
    let sec := r.addr / 64
    let bad := s.mem.poison.contains sec
    (mcLimit s a < mcUsed s mc.val a + r.len → ∃ t, exec (.memRequest mc [r] ecc) s = .next t ∧
      (mcAt t mc.val).queue = [{ req := q, arrived := s.tim.now, admitted := none }] ∧
      (tabGet LedgerRec.zero t.ledger.recs a).throttledNow = true ∧ mcUsed t mc.val a = mcUsed s mc.val a ∧
      t.mem.dram = s.mem.dram ∧ { t with mem := s.mem, ledger := s.ledger } = s) ∧
    (mcUsed s mc.val a + r.len ≤ mcLimit s a →
      (∀ d, q.data = some d → ∃ t, exec (.memRequest mc [r] ecc) s = .next t ∧
        t.mem.dram = memWrites s.mem.dram r.addr d ∧ (mcAt t mc.val).queue = [] ∧
        t.mem.poison = (if r.addr % 64 = 0 ∧ d.length = 64 then s.mem.poison.filter (· ≠ sec) else s.mem.poison) ∧
        mcUsed t mc.val a = mcUsed s mc.val a + r.len ∧
        (tabGet LedgerRec.zero t.ledger.recs a).memBytes = (tabGet LedgerRec.zero s.ledger.recs a).memBytes + r.len ∧
        { t with mem := s.mem, ledger := s.ledger } = s) ∧
      (r.data = none → r.reader = .other ∨ r.reader = .bar2 → ∃ t, exec (.memRequest mc [r] ecc) s = .next t ∧
        (t.mem.lastRead.map fun x => (x.addr, x.data, x.poisoned)) =
          some (r.addr, memReads s.mem.dram r.addr r.len, bad || decide (ecc = .uncorrectable)) ∧
        t.mem.dram = s.mem.dram ∧ (mcAt t mc.val).queue = [] ∧ mcUsed t mc.val a = mcUsed s mc.val a + r.len ∧
        (mcAt t mc.val).corrected = (if bad = false ∧ (ecc = .corrected ∨ ecc = .secondReadGood) then
          rcAdd 4294967295 1 (mcAt s mc.val).corrected else (mcAt s mc.val).corrected) ∧
        (bad = true ∨ ecc ≠ .uncorrectable → t.mem.poison = s.mem.poison ∧ t.evt = s.evt ∧ t.flt = s.flt) ∧
        (bad = false → ecc = .uncorrectable → t.mem.poison = s.mem.poison ++ [sec] ∧
          (mcAt t mc.val).uncorr = rcAdd 65535 1 (mcAt s mc.val).uncorr ∧
          ((mcAt s mc.val).logValid = false → (mcAt t mc.val).logValid = true ∧ (mcAt t mc.val).logSector = sec ∧
            (mcAt t mc.val).logPort = q.port ∧ (mcAt t mc.val).logClass = classCode q.cls) ∧
          ((mcAt s mc.val).logValid = true → (mcAt t mc.val).logSector = (mcAt s mc.val).logSector) ∧
          t.flt.counts = s.flt.counts ++ [(.controller mc, nowNs s)] ∧
          (s.evt.fifo = [] → ∃ e ∈ t.evt.fifo, e.code = evMemPoison)) ∧
        t.chans = s.chans ∧ t.modes = s.modes) ∧
      (r.data = none → bad = false → ecc ≠ .uncorrectable →
        (∀ h k x p, r.reader = .pipeline h k x → pipeOfSlice s h.val k = some p →
          ∃ t, exec (.memRequest mc [r] ecc) s = .next t ∧ sec ∈ cacheOf t p ∧ t.mem.dram = s.mem.dram) ∧
        (∀ b rg k x, r.reader = .blockDma b rg k (.block x) → ∃ t, exec (.memRequest mc [r] ecc) s = .next t ∧
          (blockAt t b.val).memory = memWrites (blockAt s b.val).memory x.val (memReads s.mem.dram r.addr r.len) ∧
          t.mem.dram = s.mem.dram)) ∧
      (r.data = none → bad = true →
        (r.reader = .firmware → ∃ t, exec (.memRequest mc [r] ecc) s = .next t ∧ t.last.abort = true) ∧
        (r.reader = .dma → ∃ t, exec (.memRequest mc [r] ecc) s = .next t ∧ t.ctl.dmaBusy = false) ∧
        (∀ i, r.reader = .monitor i → ∃ t, exec (.memRequest mc [r] ecc) s = .next t ∧ i ∈ t.mon.layers.faulty ∧
          (s.evt.fifo = [] → ∃ e ∈ t.evt.fifo, e.code = evLayerFault))))) ∧
  (∀ (mc : Fin 8) (r : MemReq) (ecc : EccOutcome) (s : State), (mcAt s mc.val).queue = [] → r.addr < memTop s →
    cacheHit s (issued s r) = true → ∃ t, exec (.memRequest mc [r] ecc) s = .next t ∧
      (t.mem.lastRead.map fun x => (x.addr, x.data, x.poisoned)) =
        some (r.addr, memReads s.mem.dram r.addr r.len, false) ∧
      (mcAt t mc.val).queue = [] ∧ t.mem.dram = s.mem.dram ∧ { t with mem := s.mem } = s) ∧
  (∀ (mc : Fin 8) (ecc : EccOutcome) (s : State), let q := (mcAt s mc.val).queue
    q ≠ [] → (∀ e ∈ q, e.admitted.isSome = true) → ∃ t e, exec (.memRequest mc [] ecc) s = .next t ∧
      e ∈ firstOfSectors [] q ∧ (∀ d, e.req.data = some d → (mcAt t mc.val).queue = q.erase e ∧
        t.mem.dram = memWrites s.mem.dram e.req.addr d) ∧
      ∀ f ∈ firstOfSectors [] q, bankKey (homeOf s f.req.addr).2 = bankKey (homeOf s e.req.addr).2 →
        (promoted s f = true → promoted s e = true) ∧
        (promoted s f = promoted s e → classCode e.req.cls ≤ classCode f.req.cls) ∧
        (promoted s f = promoted s e → e.req.cls = f.req.cls → rowOpen s mc.val f = true →
          rowOpen s mc.val e = true) ∧
        (promoted s f = promoted s e → e.req.cls = f.req.cls → rowOpen s mc.val f = rowOpen s mc.val e →
          e.admitted.getD 0 ≤ f.admitted.getD 0)) ∧
  (∀ (es : List McEntry) (e : McEntry), e ∈ firstOfSectors [] es → ∃ xs ys, es = xs ++ e :: ys ∧
    ∀ x ∈ xs, x.req.addr / 64 ≠ e.req.addr / 64) ∧
  (∀ (mc : Fin 8) (r : MemReq) (ecc : EccOutcome) (s : State), memTop s ≤ r.addr → (mcAt s mc.val).queue = [] →
    readsPoison s r = false → ∃ t, exec (.memRequest mc [r] ecc) s = .next t ∧ t.mem.dram = s.mem.dram ∧
      (r.reader = .bar2 ∨ r.reader = .firmware ∨ r.reader = .dma →
        t.ctl.errLog.count = rcAdd 65535 1 s.ctl.errLog.count ∧
        (r.reader = .firmware → t.last.abort = true ∧ t.ctl.cpuFaults = s.ctl.cpuFaults + 1) ∧
        (r.reader = .dma → t.ctl.dmaBusy = false)) ∧
      (∀ i, r.reader = .monitor i → i ∈ t.mon.layers.faulty) ∧
      (r.reader = .other → r.data.isSome = true → { t with mem := s.mem } = s ∧ t.mem.lastRead = s.mem.lastRead) ∧
      (r.reader = .other → r.data = none → (t.mem.lastRead.map fun x => (x.addr, x.poisoned)) = some (r.addr, false))) ∧
  (∀ (ptr n : Nat) (req : Nat → Bool),
    ((∀ k, k < n → req k = false) → rrGrant ptr n req = none) ∧
    (∀ k, rrGrant ptr n req = some k → k < n ∧ req k = true) ∧
    (∀ k j, ptr < n → rrGrant ptr n req = some k → j < n → req j = true →
      (k + n - ptr) % n ≤ (j + n - ptr) % n)) ∧
  (∀ (a b : MemReq) (s : State),
    (blockOfReq s a = none → blockOfReq s b = none →
      classCode a.cls < classCode b.cls ∨ (a.cls = b.cls ∧ a.port < b.port) →
      (arbitrate [a, b] s).1 = [a, b] ∧ (arbitrate [b, a] s).1 = [a, b]) ∧
    (∀ k i j, let ptr := tabGet 0 s.mem.blockPtr k
      blockOfReq s a = some (k, i) → blockOfReq s b = some (k, j) → ptr < 17 →
      (i + 17 - ptr) % 17 < (j + 17 - ptr) % 17 → ∀ rs, rs ∈ [[a, b], [b, a]] → (arbitrate rs s).1 = [a, b] ∧
        tabGet 0 (arbitrate rs s).2 k = (j + 1) % 17)) ∧
  ∀ (mc : Fin 8) (rs : List MemReq) (ecc : EccOutcome) (s : State), (mcAt s mc.val).queue = [] →
    (∀ r ∈ rs, r.addr < memTop s ∧ (homeOf s r.addr).1 = mc.val ∧ readsPoison s r = false ∧
      cacheHit s (issued s r) = false ∧
      mcLimit s (issued s r).activity < mcUsed s mc.val (issued s r).activity + r.len) →
    ∃ t, exec (.memRequest mc rs ecc) s = .next t ∧ (mcAt t mc.val).queue =
      (arbitrate (rs.map (issued s)) s).1.map fun r => { req := r, arrived := s.tim.now, admitted := none }

/-- R335 to R343, R348, R349, R351, R353: the patrol checks a sector and goes on; a stack above its threshold refreshes
at the halved interval; a refresh is postponed at most to the eighth interval; masks are staged in SERVICE only; a
lost controller resets the device; an evacuation copies granule by granule within the budget of activity 259 and
ends with the controller out of service. -/
def Obligations.MemoryUpkeepAndEvacuation : Prop :=
  (∀ (mc : Fin 8) (ecc : EccOutcome) (s : State),
    (mcOn s mc.val = false → exec (.patrolScrub mc ecc) s = .next s) ∧
    (mcOn s mc.val = true → ∃ t, exec (.patrolScrub mc ecc) s = .next t ∧
      (mcAt t mc.val).patrol = patrolSector s mc.val + 1 ∧ t.mem.dram = s.mem.dram ∧ t.ledger = s.ledger ∧
      (ecc = .clean → t.mem.poison = s.mem.poison ∧ (mcAt t mc.val).corrected = (mcAt s mc.val).corrected) ∧
      (ecc = .corrected → s.mem.poison.contains (patrolSector s mc.val) = false →
        (mcAt t mc.val).corrected = rcAdd 4294967295 1 (mcAt s mc.val).corrected) ∧
      (ecc = .uncorrectable → patrolSector s mc.val ∈ t.mem.poison))) ∧
  (∀ (k : Fin 4) (temp : Nat) (s : State),
    (stackOn s k.val = false → exec (.stackTempRead k temp) s = .next s) ∧
    (stackOn s k.val = true → s.mem.temps.length = 4 → s.mem.doubled.length = 4 → s.mem.threshC ≤ 95 →
      let old := s.mem.doubled.getD k.val false
      let new := if s.mem.threshC < temp then true else if temp + 5 ≤ s.mem.threshC then false else old
      ∃ t, exec (.stackTempRead k temp) s = .next t ∧ t.mem.temps.getD k.val 0 = temp ∧
        t.mem.doubled.getD k.val false = new ∧ (old = new → t.evt = s.evt) ∧
        (old ≠ new → s.evt.fifo = [] → ∃ e ∈ t.evt.fifo, e.code = evMemRefresh ∧
          e.data = eventData ([k.val, new.toNat] ++ u8 temp)) ∧ { t with mem := s.mem, evt := s.evt } = s)) ∧
  (∀ (mc : Fin 8) (bank : Nat) (idle : Bool) (s : State), let n := tabGet 0 (mcAt s mc.val).postponed bank
    (idle = true ∨ 7 ≤ n → ∃ t, exec (.refreshDue mc bank idle) s = .next t ∧
      tabGet 0 (mcAt t mc.val).postponed bank = 0 ∧ tabGet? (mcAt t mc.val).openRow bank = none ∧
      (mcAt t mc.val).queue = (mcAt s mc.val).queue ∧ { t with mem := s.mem } = s) ∧
    (idle = false → n < 7 → ∃ t, exec (.refreshDue mc bank idle) s = .next t ∧
      tabGet 0 (mcAt t mc.val).postponed bank = n + 1 ∧ (mcAt t mc.val).openRow = (mcAt s mc.val).openRow ∧
      { t with mem := s.mem } = s)) ∧
  (∀ (j : Fin 6) (m : Master) (v : Word64) (s : State),
    ((m = .pcie ∨ m = .cpuData) → s.modes.mode = .service → exec (.memBankMask j m v) s = .next { s with mem := { s.mem with
      stagedMask := tabSet s.mem.stagedMask j.val (v.extractLsb' 0 40) } }) ∧
    (s.modes.mode ≠ .service → exec (.memBankMask j m v) s =
      .next (busError m true (BitVec.ofNat 40 (0x40070100 + 8 * j.val)) s))) ∧
  (∀ (n : Fin 8) (m : Master) (v : Word32) (w : Word64) (s : State),
    (m = .cpuData → exec (.lost m v) s = .next { s with mem := { s.mem with
      lost := s.mem.lost &&& ~~~(v.extractLsb' 0 8) } }) ∧
    (m ≠ .cpuData → exec (.lost m v) s = .next (busError m true 0x40070008 s) ∧
      exec (.eccLogValid n m w) s = .next (busError m true (BitVec.ofNat 40 (0x40070208 + 16 * n.val)) s)) ∧
    (m = .cpuData → w.getLsbD 63 = false → exec (.eccLogValid n m w) s = .next s) ∧
    (m = .cpuData → w.getLsbD 63 = true → ∃ t, exec (.eccLogValid n m w) s = .next t ∧ (mcAt t n.val).logValid = false ∧
      (mcAt t n.val).uncorr = (mcAt s n.val).uncorr ∧ (∀ k, k ≠ n.val → mcAt t k = mcAt s k) ∧
      { t with mem := s.mem } = s)) ∧
  (∀ (mc : Fin 8) (s : State),
    (mc.val ∉ s.mem.trained → exec (.mcLost mc) s = .next s) ∧
    (mc.val ∈ s.mem.trained → ∃ t, exec (.mcLost mc) s = .next t ∧ t.mem.lost.getLsbD mc.val = true ∧
      t.modes.mode = .boot ∧ t.chans = [] ∧ t.ctl.fwRunning = false ∧ mc.val ∉ t.mem.trained)) ∧
  (∀ (s : State) (on : List Nat) (p : Nat), on ≠ [] → (homeIn s on p).1 ∈ on) ∧
  ∀ (ecc : EccOutcome) (s : State),
    let n := s.mem.evacMc
    let last := 2 * (s.mem.trained.length - 1) * 1073741824 / 256
    let p := physOf s n (s.mem.evacNext * 256)
    let dst := (homeIn s (s.mem.trained.filter (· ≠ n)) p).1
    (s.mem.evac = false ∨ last ≤ s.mem.evacNext → exec (.evacGranuleCopy ecc) s = .next s) ∧
    (s.mem.evac = true → s.mem.evacNext < last → mcLimit s 259 < mcUsed s dst 259 + 256 → ∃ t,
      exec (.evacGranuleCopy ecc) s = .next t ∧ (tabGet LedgerRec.zero t.ledger.recs 259).throttledNow = true ∧
      t.mem = s.mem ∧ { t with ledger := s.ledger } = s) ∧
    (s.mem.evac = true → s.mem.evacNext < last → mcUsed s dst 259 + 256 ≤ mcLimit s 259 → ∃ t,
      exec (.evacGranuleCopy ecc) s = .next t ∧ t.mem.evacNext = s.mem.evacNext + 1 ∧ t.mem.dram = s.mem.dram ∧
      mcUsed t dst 259 = mcUsed s dst 259 + 256 ∧
      (tabGet LedgerRec.zero t.ledger.recs 259).memBytes =
        (tabGet LedgerRec.zero s.ledger.recs 259).memBytes + 256 ∧
      (ecc = .clean → s.mem.poison = [] → t.mem.evacPoison = s.mem.evacPoison ∧ t.mem.poison = [])) ∧
    (s.mem.evac = false ∨ s.mem.evacNext < last → exec .evacComplete s = .next s) ∧
    (s.mem.evac = true → last ≤ s.mem.evacNext → ∃ t, exec .evacComplete s = .next t ∧ t.mem.evac = false ∧
      t.mem.trained = s.mem.trained.filter (· ≠ n) ∧ t.mem.topGib = 16 * (s.mem.trained.filter (· ≠ n)).length ∧
      t.mem.dram = s.mem.dram ∧ t.mem.poison = s.mem.poison ∧ t.chans = s.chans ∧
      (s.evt.fifo = [] → ∃ e ∈ t.evt.fifo, e.code = evMemEvacuate ∧
        e.data = eventData (u8 n ++ [1, 0, 0] ++ u32 s.mem.evacPoison)))

/-! ### Tasks and cells (R17, R308 to R331) -/

/-- R310 to R318, R329, R331: ALLOC and JOIN_ALLOC take a free slot with the next generation, or fail when all are in
use; SUBMIT writes the descriptor (in a decision task, one with the dependences of its CTU) and readies a task whose
counter is 0; a stale handle is dropped and reported; DONE waits for its task's writes, decrements, gives its
affinity and frees the slot, but not after a CANCEL of the same cycle; a join at 0 is released once; CANCEL frees
the channel's tasks and joins. -/
def Obligations.DispatcherOperations : Prop :=
  (∀ (i : TskIssuer) (count : Nat) (tg : JoinTarget) (s : State),
    let r := issuerRegion i
    let used := ((regionOf s r).tasks.filter fun e => e.2.inUse).length
    let usedJ := ((regionOf s r).joins.filter fun e => e.2.inUse).length
    (used < 65536 → ∃ t k, exec (.alloc i count) s = .next t ∧ k < 65536 ∧ (taskAt s r k).inUse = false ∧
      (let g := ((taskAt s r k).gen + 1) % 8192
       t.last.value = BitVec.ofNat 64 (g * 524288 + r * 65536 + k) ∧ (taskAt t r k).gen = g) ∧
      (taskAt t r k).inUse = true ∧ (taskAt t r k).submitted = false ∧ (taskAt t r k).counter = count % 65536 ∧
      (∀ j, j ≠ k → taskAt t r j = taskAt s r j) ∧ { t with tsk := s.tsk, last := s.last, free := s.free } = s) ∧
    (65536 ≤ used → ∃ t, exec (.alloc i count) s = .next t ∧ t.last.value = 0xFFFFFFFF ∧
      (regionOf t r).allocFail = rcAdd 65535 1 (regionOf s r).allocFail ∧ (regionOf t r).tasks = (regionOf s r).tasks) ∧
    (usedJ < 4096 → ∃ t k, exec (.joinAlloc i count tg) s = .next t ∧ k < 4096 ∧ (joinAt s r k).inUse = false ∧
      (let g := ((joinAt s r k).gen + 1) % 8192
       t.last.value = BitVec.ofNat 64 (g * 524288 + r * 65536 + k) ∧ (joinAt t r k).gen = g) ∧
      (joinAt t r k).inUse = true ∧ (joinAt t r k).counter = count ∧ (joinAt t r k).target = tg ∧
      (∀ j, j ≠ k → joinAt t r j = joinAt s r j) ∧ { t with tsk := s.tsk, last := s.last, free := s.free } = s) ∧
    (4096 ≤ usedJ → ∃ t, exec (.joinAlloc i count tg) s = .next t ∧ t.last.value = 0xFFFFFFFF ∧
      (regionOf t r).allocFail = rcAdd 65535 1 (regionOf s r).allocFail)) ∧
  (∀ (i : TskIssuer) (h : Nat) (d : TaskDesc) (p : CtuPlace) (s : State),
    let left := if 0 < p.x then 1 else 0
    let above := if 0 < p.y then 1 else 0
    let right := if p.x + 1 < p.cols then 1 else 0
    let lowerLeft := if p.y + 1 < p.rows ∧ 0 < p.x then 1 else 0
    let lower := if p.y + 1 < p.rows ∧ p.x + 1 = p.cols then 1 else 0
    (p.fits d = true ↔ p.x < p.cols ∧ p.y < p.rows ∧ d.depCount = left + above ∧
      (d.succ.filter (· ≠ 0xFFFFFFFF)).length = right + lowerLeft + lower) ∧
    (p.fits d = false → exec (.submit i h ⟨d, some p⟩) s = .next s)) ∧
  (∀ (i : TskIssuer) (h : Nat) (d : TaskDesc) (p : Option CtuPlace) (s : State), (∀ x, p = some x → x.fits d = true) →
    let r := h / 65536 % 8
    let k := h % 65536
    let x := taskAt s r k
    let d1 : TaskDesc := { d with excluded := 0xFFFF, attempt := 0 }
    (x.gen = h / 524288 % 8192 → x.inUse = true → h ≠ 0xFFFFFFFF → ∃ t, exec (.submit i h ⟨d, p⟩) s = .next t ∧
      (taskAt t r k).submitted = true ∧ (taskAt t r k).desc = d1 ∧ (taskAt t r k).counter = x.counter ∧
      (x.counter = 0 → x.inList = false → x.running = none → x.held = false → (taskAt t r k).inList = true ∧
        (taskAt t r k).entered = s.tim.now ∧ (taskAt t r k).ready = some (x.ready.getD s.tim.now)) ∧
      (x.counter ≠ 0 → (taskAt t r k).inList = x.inList) ∧ (∀ j, j ≠ k → taskAt t r j = taskAt s r j) ∧
      (let a := 0x10000000 + r * 0x400000 + k * 64
       let n := (homeOf s a).1
       t.mem.dram = s.mem.dram ∧ ∃ q, (mcAt t n).queue = (mcAt s n).queue ++ [q] ∧ q.req.addr = a ∧
         q.req.data = some (natBytes (descBytes d1)) ∧ q.req.cls = .cell ∧ q.admitted = none ∧
         q.req.activity = workActivity (issuerChannel s i) (issuerAttempt s i)) ∧
      { t with tsk := s.tsk, mem := s.mem } = s) ∧
    (x.gen ≠ h / 524288 % 8192 ∨ x.inUse = false → issuerChannel s i = 0xFF → ∃ t, exec (.submit i h ⟨d, p⟩) s = .next t ∧
      (regionOf t r).stale = rcAdd 65535 1 (regionOf s r).stale ∧ taskAt t r k = x ∧ t.mem = s.mem ∧
      (s.evt.fifo = [] → ∃ e ∈ t.evt.fifo, e.code = evTaskFault ∧ e.data.head? = some 2))) ∧
  (∀ (c : Fin 1024) (n : Nat) (s : State), let x := cellAt s c.val
    (x.task.isSome = true ∨ x.state = 1 ∨ x.state = 2 ∨ cellsHeld s = true ∨ cellOn s c.val = false →
      exec (.take c) s = .next s) ∧
    (x.task = none → x.state ≠ 1 → x.state ≠ 2 → cellsHeld s = false → cellOn s c.val = true → ∃ t, exec (.take c) s = .next t ∧
      cellAt t c.val = { x with state := 1, takeAt := s.tim.now } ∧ (∀ k, k ≠ c.val → cellAt t k = cellAt s k) ∧
      { t with tsk := s.tsk } = s) ∧
    (x.task = none → exec (.taskDone ⟨c, n⟩) s = .next s ∧ exec (.doneTake ⟨c, n⟩) s = exec (.take c) s) ∧
    (∃ t u, exec (.taskDone ⟨c, n⟩) s = .next t ∧ exec (.take c) t = .next u ∧ exec (.doneTake ⟨c, n⟩) s = .next u)) ∧
  (∀ (c : Fin 1024) (n r k : Nat) (s : State), let x := taskAt s r k
    (cellAt s c.val).task = some (r, k, x.gen) → x.inUse = true →
    (writesPending s r k = true → exec (.taskDone ⟨c, n⟩) s = .next s) ∧
    (∀ h : Fin 64, writesPending s r k = false → x.desc.channel = h.val → .cancel h ∈ s.pending →
      ∃ t, exec (.taskDone ⟨c, n⟩) s = .next t ∧ (cellAt t c.val).task = none ∧ (taskAt t r k).cancelled = true ∧
        (∀ r1 k1, (taskAt s r1 k1).desc.channel ≠ h.val → taskAt t r1 k1 = taskAt s r1 k1) ∧
        { t with tsk := s.tsk } = s)) ∧
  (∀ (c : Fin 1024) (n r k : Nat) (s : State), let x := taskAt s r k
    (cellAt s c.val).task = some (r, k, x.gen) → x.inUse = true → x.desc.join = 0xFFFFFFFF →
    writesPending s r k = false → (∀ h, .cancel h ∉ s.pending) →
    ((∀ h ∈ x.desc.succ, h = 0xFFFFFFFF) → cellsHeld s = false → cellOn s c.val = true →
      ∃ t, exec (.doneTake ⟨c, n⟩) s = .next t ∧ (taskAt t r k).inUse = false ∧ (cellAt t c.val).task = none ∧
        (cellAt t c.val).state = 1 ∧ (cellAt t c.val).takeAt = s.tim.now ∧ { t with tsk := s.tsk } = s) ∧
    ((∀ h ∈ x.desc.succ, h = 0xFFFFFFFF) → ∃ t, exec (.taskDone ⟨c, n⟩) s = .next t ∧ (taskAt t r k).inUse = false ∧
      (cellAt t c.val).task = none ∧ (cellAt t c.val).state = 0 ∧
      (cellAt t c.val).curCorrected = min 15 ((cellAt s c.val).curCorrected + n) ∧ (∀ j, j ≠ k → taskAt t r j = taskAt s r j) ∧
      { t with tsk := s.tsk } = s) ∧
    (∀ h, let y := taskAt s (h / 65536 % 8) (h % 65536)
      x.desc.succ = [h] → h ≠ 0xFFFFFFFF → (h / 65536 % 8 ≠ r ∨ h % 65536 ≠ k) → y.gen = h / 524288 % 8192 → y.inUse = true →
      (2 ≤ y.counter → ∃ t, exec (.taskDone ⟨c, n⟩) s = .next t ∧
        (taskAt t (h / 65536 % 8) (h % 65536)).counter = y.counter - 1 ∧ (taskAt t r k).inUse = false) ∧
      (y.counter = 1 → y.submitted = true → y.inList = false → y.running = none → y.held = false →
        ∃ t, exec (.taskDone ⟨c, n⟩) s = .next t ∧ (taskAt t (h / 65536 % 8) (h % 65536)).inList = true ∧
        (taskAt t (h / 65536 % 8) (h % 65536)).desc.affinity =
          (if y.desc.affinity = 0xFFFF then c.val else y.desc.affinity) ∧ (taskAt t r k).inUse = false) ∧
      (y.counter = 0 → x.desc.channel = 0xFF → ∃ t, exec (.taskDone ⟨c, n⟩) s = .next t ∧
        (regionOf t (h / 65536 % 8)).stale = rcAdd 65535 1 (regionOf s (h / 65536 % 8)).stale ∧
        (s.evt.fifo = [] → ∃ e ∈ t.evt.fifo, e.code = evTaskFault ∧ e.data.head? = some 3)))) ∧
  (∀ (c : Fin 1024) (n r k : Nat) (s : State), let x := taskAt s r k
    (cellAt s c.val).task = some (r, k, x.gen) → x.inUse = true → writesPending s r k = false →
    (∀ h, .cancel h ∉ s.pending) → x.desc.succ = [] → x.desc.join ≠ 0xFFFFFFFF →
    let jr := x.desc.join / 65536 % 8
    let jk := x.desc.join % 4096
    let j := joinAt s jr jk
    j.gen = x.desc.join / 524288 % 8192 → j.inUse = true →
    (2 ≤ j.counter → ∃ t, exec (.taskDone ⟨c, n⟩) s = .next t ∧ joinAt t jr jk = { j with counter := j.counter - 1 } ∧
      (taskAt t r k).inUse = false) ∧
    (j.counter = 1 → j.target = .firmware → ∃ t, exec (.taskDone ⟨c, n⟩) s = .next t ∧ (joinAt t jr jk).inUse = false ∧
      t.tsk.joinIrqs = s.tsk.joinIrqs ++ [j.gen * 524288 + jr * 65536 + jk]) ∧
    (∀ ch b row, j.counter = 1 → j.target = .band ch b row → ∃ t, exec (.taskDone ⟨c, n⟩) s = .next t ∧
      (joinAt t jr jk).inUse = false ∧ t.tsk.tokens = s.tsk.tokens ++ [(ch, b, row)])) ∧
  ∀ (ch : Fin 64) (s : State), ∃ t, exec (.cancel ch) s = .next t ∧
    (∀ r k, (taskAt s r k).inUse = true → (taskAt s r k).desc.channel = ch.val →
      (taskAt t r k).inUse = false ∧ (taskAt t r k).inList = false ∧ (taskAt t r k).cancelled = true) ∧
    (∀ r k, (taskAt s r k).inUse = true → (taskAt s r k).desc.channel ≠ ch.val → taskAt t r k = taskAt s r k) ∧
    (∀ r k, (joinAt s r k).inUse = true → (joinAt s r k).channel = ch.val → (joinAt t r k).inUse = false) ∧
    t.tsk.tokens = s.tsk.tokens.filter (fun x => decide (x.1 ≠ ch.val)) ∧ t.tsk.cells = s.tsk.cells ∧ { t with tsk := s.tsk } = s

/-- R309, R312, R319 to R325: a region grants its waiting cell of the earliest TAKE that has an eligible task the task
of the smallest key of R322 and fetches its descriptor for the cell; a borrower takes the donor's task of the
smallest key and no region lends and borrows at once. R327, R328, R500: a faulted attempt returns to its list with
its first ready time, barred from the cell; the third fault exhausts the task. R17: a block takes a new clock when
it relocks, with no task running, and one that has not done so in 4 us is counted. -/
def Obligations.GrantsRetriesAndBlockClocks : Prop :=
  (∀ (r : Fin 8) (s : State),
    ((regionOf s r.val).en = false ∨ regionOn s r.val = false ∨ (∀ c ∈ waitingCells s r.val, bestTask s c = none) →
      exec (.taskGrant r) s = .next s) ∧
    ((regionOf s r.val).en = true → regionOn s r.val = true → (∃ c ∈ waitingCells s r.val, bestTask s c ≠ none) →
      ∃ t c e, exec (.taskGrant r) s = .next t ∧ c ∈ waitingCells s r.val ∧
        (∀ c' ∈ waitingCells s r.val, bestTask s c' ≠ none → (cellAt s c).takeAt ≤ (cellAt s c').takeAt) ∧
        e ∈ readyIn s (c / 128) ∧ e.2.2.desc.excluded ≠ c ∧
        (∀ f ∈ readyIn s (c / 128), f.2.2.desc.excluded ≠ c → e.2.2.desc.cls.val ≤ f.2.2.desc.cls.val ∧
          (e.2.2.desc.cls = f.2.2.desc.cls → rankOf e.1 e.2.2 c ≤ rankOf f.1 f.2.2 c ∧
            (rankOf e.1 e.2.2 c = rankOf f.1 f.2.2 c → e.2.2.ready.getD 0 ≤ f.2.2.ready.getD 0))) ∧
        (cellAt t c).task = some (e.1, e.2.1, e.2.2.gen) ∧ (cellAt t c).startedAt = s.tim.now ∧
        taskAt t e.1 e.2.1 = { e.2.2 with inList := false, running := some c } ∧
        (∀ k, k ≠ c → cellAt t k = cellAt s k) ∧
        (let a := 0x10000000 + e.1 * 0x400000 + e.2.1 * 64
         let n := (homeOf s a).1
         ∃ q, (mcAt t n).queue = (mcAt s n).queue ++ [q] ∧ q.req.addr = a ∧ q.req.len = 64 ∧ q.req.data = none ∧
           q.req.reader = .dispatcher (Fin.ofNat 1024 c)) ∧
        t.mem.dram = s.mem.dram ∧ { t with tsk := s.tsk, mem := s.mem } = s)) ∧
  (∀ (s : State), let bs := (List.range 8).filter (borrower s)
    (bs = [] → exec .lendExamine s = .next s) ∧
    (∀ b r, bs = [b] → r < 8 → r ≠ b → lends s r = true → 1 ≤ s.tsk.minReady → s.tsk.minReady ≤ (lendable s r).length →
      (∀ q, q < 8 → q ≠ r → q ≠ b → lends s q = true → (lendable s q).length < (lendable s r).length) →
      (lendable s r).length ≤ 65536 →
      ∃ t e, exec .lendExamine s = .next t ∧ e ∈ lendable s r ∧
        (∀ f ∈ lendable s r, e.2.2.desc.cls.val ≤ f.2.2.desc.cls.val ∧
          (e.2.2.desc.cls = f.2.2.desc.cls → e.2.2.ready.getD 0 ≤ f.2.2.ready.getD 0)) ∧
        taskAt t r e.2.1 = { e.2.2 with lent := some b, entered := s.tim.now } ∧
        t.tsk.curLent = min 65535 (s.tsk.curLent + 1) ∧ { t with tsk := s.tsk } = s)) ∧
  (∀ (i : Instr) (why : Nat) (u : UnitRef) (c : Fin 1024) (s : State), let block := Fin.ofNat 64 (c.val / 16)
    (i = .taskAttemptFault ⟨c, .localMemory⟩ ∧ why = 1 ∧ u = .cell c) ∨
      (i = .taskAttemptFault ⟨c, .dma⟩ ∧ why = 1 ∧ u = .block block) ∨
      (∃ a, i = .taskAttemptFault ⟨c, .blockWord a⟩ ∧ why = 1 ∧ u = .block block ∧
        a.val / 8 ∉ (blockAt s (c.val / 16)).poison) ∨
      (i = .taskTimeLimit c ∧ why = 4 ∧ u = .cell c ∧
      (cellAt s c.val).startedAt + ns ((regionOf s (c.val / 128)).limitUs * 1000) < s.tim.now) →
    ((cellAt s c.val).task = none → exec i s = .next s) ∧
    (∀ r k, let x := taskAt s r k
      (cellAt s c.val).task = some (r, k, x.gen) → x.inUse = true →
      (x.desc.attempt < 2 → ∃ t, exec i s = .next t ∧ (cellAt t c.val).task = none ∧ (cellAt t c.val).state = 0 ∧
        (taskAt t r k).desc = { x.desc with excluded := c.val, affinity := 0xFFFF, attempt := x.desc.attempt + 1 } ∧
        (taskAt t r k).inList = true ∧ (taskAt t r k).running = none ∧ (taskAt t r k).ready = x.ready ∧
        t.flt.counts = s.flt.counts ++ [(u, nowNs s)] ∧
        (s.evt.fifo = [] → ∃ e ∈ t.evt.fifo, e.code = evUnitFault) ∧ t.chans = s.chans) ∧
      (2 ≤ x.desc.attempt → x.desc.channel = 0xFF → ∃ t, exec i s = .next t ∧ (cellAt t c.val).task = none ∧
        (taskAt t r k).held = true ∧ (taskAt t r k).running = none ∧
        (s.evt.fifo = [] → ∃ e ∈ t.evt.fifo, e.code = evTaskFault ∧ e.data.head? = some why)))) ∧
  (∀ (c : Fin 1024) (s : State), s.tim.now ≤ (cellAt s c.val).startedAt + ns ((regionOf s (c.val / 128)).limitUs * 1000) →
    exec (.taskTimeLimit c) s = .next s) ∧
  (∀ (r : Fin 8) (s : State), ∃ t, exec (.dispatcherParityError r) s = .next t ∧
    (∀ k, (taskAt t r.val k).inUse = false ∧ (joinAt t r.val k).inUse = false) ∧
    (∀ k, (taskAt s r.val k).inUse = true → (taskAt t r.val k).cancelled = true) ∧
    t.flt.counts = s.flt.counts ++ [(.region r, nowNs s)] ∧ t.chans = s.chans ∧ t.mem = s.mem) ∧
  ∀ (b : Fin 64) (mhz : Nat) (s : State), let x := blockAt s b.val
    (mhz < 800 ∨ 1600 < mhz ∨ mhz % 50 ≠ 0 ∨ blockOn s b.val = false → exec (.blockClockChange b mhz) s = .next s) ∧
    (800 ≤ mhz → mhz ≤ 1600 → mhz % 50 = 0 → blockOn s b.val = true → ∃ t, exec (.blockClockChange b mhz) s = .next t ∧
      blockAt t b.val = { x with newMhz := mhz, changing := true,
                                 relockFrom := if blockBusy s b.val then none else some s.tim.now } ∧
      (∀ k, k ≠ b.val → blockAt t k = blockAt s k) ∧ { t with tsk := s.tsk } = s) ∧
    (x.changing = false → exec (.blockRelock b) s = .next s ∧ exec (.blockRelockTimeout b) s = .next s) ∧
    (blockBusy s b.val = true → exec (.blockRelock b) s = .next s) ∧
    (x.changing = true → blockBusy s b.val = false → ∃ t, exec (.blockRelock b) s = .next t ∧
      blockAt t b.val = { x with mhz := x.newMhz, changing := false, relockFrom := none } ∧ { t with tsk := s.tsk } = s) ∧
    (x.relockFrom = none → exec (.blockRelockTimeout b) s = .next s) ∧
    (∀ t0, x.relockFrom = some t0 → s.tim.now ≤ t0 + ns 4000 → exec (.blockRelockTimeout b) s = .next s) ∧
    (∀ t0, x.changing = true → x.relockFrom = some t0 → t0 + ns 4000 < s.tim.now →
      ∃ t, exec (.blockRelockTimeout b) s = .next t ∧ t.flt.counts = s.flt.counts ++ [(.block b, nowNs s)] ∧
        blockAt t b.val = { x with relockFrom := none } ∧
        (s.evt.fifo = [] → ∃ e ∈ t.evt.fifo, e.code = evUnitFault))

/-! ### The coding pipelines (R33, R244, R259, R267 to R270, R290 to R306, R500, R501) -/

/-- R33, R39, R244, R245: a free pipeline turns to the context of, and issues, among the frames that are ready and whose
credit covers them, the one of the earliest launch time, then of the lower handle, and takes its cost from the
credit; a frame that waits for credit is throttled. R247, R275, R318: a slice that its rows' tokens release, with
motion in reach, is coded; slices are counted in order, the first with its SEI messages (R264); a finished picture
is a reference (R255) and updates its bucket as R292 says. R303 to R305: no CTU leaves the smaller allowance below
0. R269, R270: a decoded picture carries its flag. R501: slices hit by a parity error are issued again at the charge
of activity 259 and the third error on one exhausts it. -/
def Obligations.PipelinesIssueCodeAndDecode : Prop :=
  (∀ (cp : Fin 8) (s : State), let x := pipeOf s cp.val
    (x.frame.isSome = true ∨ regionOn s cp.val = false → exec (.pipelineFrameIssue cp) s = .next s) ∧
    (x.frame = none → regionOn s cp.val = true →
      let s1 := orderAll cp.val s
      { s1 with chans := s.chans } = s ∧
      (candidates s1 cp.val = [] → ∃ t, exec (.pipelineFrameIssue cp) s = .next t ∧
        (pipeOf t cp.val).frame = none ∧ (pipeOf t cp.val).credits = x.credits ∧
        (∀ y ∈ readyFrames s1 cp.val, (tabGet LedgerRec.zero t.ledger.recs (4 * y.2.1 + 1)).throttledNow = true) ∧
        { t with ledger := s1.ledger, pipes := s1.pipes } = s1) ∧
      (candidates s1 cp.val ≠ [] → ∃ t l h r q, exec (.pipelineFrameIssue cp) s = .next t ∧
        (l, h, r, q) ∈ candidates s1 cp.val ∧ r.pipe = cp.val ∧
        (∀ y ∈ candidates s1 cp.val, l ≤ y.1 ∧ (y.1 = l → h ≤ y.2.1)) ∧
        r.frameCost * 256 ≤ tabGet 0 x.credits (h * 2 + r.work) ∧
        tabGet 0 (pipeOf t cp.val).credits (h * 2 + r.work) = tabGet 0 x.credits (h * 2 + r.work) - r.frameCost * 256 ∧
        (pipeOf t cp.val).frame = some (h, r.work, r.band, q.capture) ∧
        (pipeOf t cp.val).context = some (h * 2 + r.work) ∧
        (x.context ≠ some (h * 2 + r.work) → (pipeOf t cp.val).idle = x.context) ∧
        (pipeOf t cp.val).slicesLeft = (List.range r.nSlices).map (r.firstSlice + ·) ∧
        (tabGet LedgerRec.zero t.ledger.recs (4 * h + 1)).cycles =
          (tabGet LedgerRec.zero s.ledger.recs (4 * h + 1)).cycles + r.frameCost ∧
        (∀ p, p ≠ cp.val → pipeOf t p = pipeOf s p) ∧
        (r.work = 0 → q.issued = [] → (q.key || q.refreshStart) = true → s.evt.fifo = [] →
          ∃ e ∈ t.evt.fifo, e.code = evKeyPicture ∧ e.channel = h)))) ∧
  (∀ (cp : Fin 8) (ch : Fin 64) (res : SliceRes) (work band : Nat) (f : ChanCfg) (q : Picture) (s : State),
    let x := pipeOf s cp.val
    let c := chan s ch.val
    let left := x.slicesLeft.filter (· ≠ res.slice)
    c.handoverPeer = none → c.cfg = some f →
    ((x.frame = none ∨ res.slice ∉ x.slicesLeft) → exec (.sliceCoded cp ch res) s = .next s) ∧
    (x.frame = some (ch.val, 0, band, res.capture) →
      (∃ k ∈ sliceTokens f ch.val band res.slice, k ∉ s.tsk.tokens) ∨ (∃ m ∈ res.motion, ∀ p ∈ c.pics, p.capture = res.capture → motionOk s ch.val f p m = false) →
      exec (.sliceCoded cp ch res) s = .next s) ∧
    (mayCode s f ch.val work band res = true → x.frame = some (ch.val, work, band, res.capture) → res.slice ∈ x.slicesLeft → c.pics = [q] →
      q.capture = res.capture →
      (work = 0 → res.sceneChange = false → q.slicesDone < res.slice → q.results = [] → ∃ t,
        exec (.sliceCoded cp ch res) s = .next t ∧ (chan t ch.val).pics = [{ q with results := [res] }] ∧
        (pipeOf t cp.val).slicesLeft = left ∧ (pipeOf t cp.val).frame = (if left = [] then none else x.frame)) ∧
      (work = 0 → res.sceneChange = false → res.slice = q.slicesDone → q.slicesDone < f.slices → q.results = [] →
        q.ordered = true → ∃ t q', exec (.sliceCoded cp ch res) s = .next t ∧ (chan t ch.val).pics = [q'] ∧
        q'.slicesDone = q.slicesDone + 1 ∧ q'.sliceBytes.length = q.sliceBytes.length + 1 ∧ q'.capture = q.capture ∧
        (pipeOf t cp.val).slicesLeft = left ∧ t.tmg = s.tmg ∧
        (q.slicesDone + 1 = f.slices → q.begun = true → (chan t ch.val).bufT.fill =
          min (f.cpbBits * picNum f) (q.startT.fill + q.startT.rate * f.rateDen - q'.picBits * picNum f)) ∧
        (q.slicesDone + 1 < f.slices → (chan t ch.val).bufT = c.bufT) ∧
        (q.slicesDone = 0 → q'.sei = seiOf c f ch.val q (pictureAnc s f q)) ∧
        (q.slicesDone + 1 = f.slices → f.codec ≠ .jpegxs →
          ∃ p ∈ (chan t ch.val).refs, p.work = 0 ∧ p.capture = q.capture)) ∧
      (work = 1 → q.decoded + 1 ≠ decodeSlices s f → ∃ t, exec (.sliceCoded cp ch res) s = .next t ∧
        (chan t ch.val).pics = [decodeOne res q] ∧ (chan t ch.val).flag = c.flag) ∧
      (work = 1 → q.decoded + 1 = decodeSlices s f → let g := flagOf c (decodeOne res q)
        ∃ t, exec (.sliceCoded cp ch res) s = .next t ∧ (chan t ch.val).flag = g ∧
          (chan t ch.val).concealSec = c.concealSec + (if g = 1 then 1 else 0) ∧
          (chan t ch.val).deriveSec = c.deriveSec + (if g = 2 then 1 else 0) ∧
          (s.evt.fifo = [] → (decodeOne res q).decFmt ≠ 0 → (decodeOne res q).decFmt ≤ 5 → c.decFmt = 0 → ∃ e ∈ t.evt.fifo, e.code = evDecodeFormat) ∧
          (s.evt.fifo = [] → c.flag ≠ 0 → g = 0 → ∃ e ∈ t.evt.fifo, e.code = evDecodeClean)))) ∧
  (∀ (c : Chan) (q : Picture), (q.decFmt ≠ 0 → flagOf c q = 1) ∧ (q.flag = 1 → flagOf c q = 1) ∧
    (c.decFmt ≠ 0 → q.decClean = false → flagOf c q = 1) ∧
    (q.decFmt = 0 → c.decFmt = 0 → q.flag = 2 → flagOf c q = 2) ∧
    (q.decFmt = 0 → c.decFmt = 0 → q.flag = 0 → c.flag ≠ 0 → flagOf c q = if q.decClean then 0 else 2) ∧
    (q.decFmt = 0 → c.decFmt = 0 → q.flag = 0 → c.flag = 0 → flagOf c q = 0)) ∧
  (∀ (f : ChanCfg) (lu lp rip ov : Nat) (x : Nat × Nat × Nat) (q : Picture), 1 ≤ lu → 1 ≤ lp → x.2.2 ≤ skipBits f.codec →
    0 ≤ (allowances f q lu lp rip ov).1 → 0 ≤ (allowances f q lu lp rip ov).2 →
    let q' := codeCtu f lu lp rip ov x q
    0 ≤ (allowances f q' (lu - 1) (lp - 1) rip ov).1 ∧ 0 ≤ (allowances f q' (lu - 1) (lp - 1) rip ov).2) ∧
  (∀ (cp : Fin 8) (s : State), let x := pipeOf s cp.val
    (x.frame = none → ∃ t, exec (.pipelineParityError cp) s = .next t ∧
      t.flt.counts = s.flt.counts ++ [(.region cp, nowNs s)] ∧ t.pipes = s.pipes ∧ t.chans = s.chans) ∧
    (∀ h work b cap, x.frame = some (h, work, b, cap) → x.slicesLeft ≠ [] → x.slicesLeft.Nodup →
      (∀ i ∈ x.slicesLeft, tabGet 0 x.parity i < 2) → ∃ t n, exec (.pipelineParityError cp) s = .next t ∧ 1 ≤ n ∧
        n ≤ x.slicesLeft.length ∧ (pipeOf t cp.val).reissues = x.reissues + n ∧ (pipeOf t cp.val).frame = x.frame ∧
        (pipeOf t cp.val).slicesLeft = x.slicesLeft ∧
        (∀ i ∈ x.slicesLeft.take n, tabGet 0 (pipeOf t cp.val).parity i = tabGet 0 x.parity i + 1) ∧
        (tabGet LedgerRec.zero t.ledger.recs 259).cycles = (tabGet LedgerRec.zero s.ledger.recs 259).cycles +
          ((x.slicesLeft.take n).map (sliceCycles s h work)).sum ∧
        t.flt.counts = s.flt.counts ++ [(.region cp, nowNs s)] ∧ t.chans = s.chans) ∧
    (∀ h work b cap i is, x.frame = some (h, work, b, cap) → x.slicesLeft = i :: is → 2 ≤ tabGet 0 x.parity i →
      active (chan s h).state = true → isProtected s h = false → s.modes.mode ≠ .drain → ∃ t, exec (.pipelineParityError cp) s = .next t ∧
        (pipeOf t cp.val).frame = none ∧ (chan t h).state = .faulted)) ∧
  (∀ (ch : Fin 64) (cap : Nat) (f : ChanCfg) (q : Picture) (s : State), let c := chan s ch.val
    c.cfg = some f → c.pics.find? (fun p => decide (p.capture = cap)) = some q →
    ((f.role ≠ .gateway ∧ f.role ≠ .transcode) ∨ s.tim.now < auDeadline s f cap ∨ decodeSlices s f ≤ q.decoded ∨
      auReady s f cap = true → exec (.decodeAuDeadline ch cap) s = .next s) ∧
    (f.role = .gateway ∨ f.role = .transcode → auDeadline s f cap ≤ s.tim.now → q.decoded < decodeSlices s f →
      (∀ i ∈ q.issued, i < 256) → auReady s f cap = false → c.pics = [q] → ∃ t,
        exec (.decodeAuDeadline ch cap) s = .next t ∧ (chan t ch.val).flag = 1 ∧
        (chan t ch.val).concealSec = c.concealSec + 1 ∧
        (∃ q', (chan t ch.val).pics = [q'] ∧ q'.decoded = decodeSlices s f ∧ q'.flag = 1) ∧
        ∀ x, tabGet? s.inputs f.input = some x → ∃ y, tabGet? t.inputs f.input = some y ∧
          y.late = x.late + ((x.asm.filter fun a => decide (a.picture = cap)).map fun a => a.data.length).sum ∧
          y.asm = x.asm.filter fun a => decide (a.picture ≠ cap))) ∧
  ∀ (n : Fin 32) (stamp : Nat) (s : State),
    (s.gpio.dir.getLsbD n.val = true → ∀ b, exec (.gpioEdge n ⟨b, stamp⟩) s = .next s) ∧
    (s.gpio.dir.getLsbD n.val = false → ∃ t, exec (.gpioEdge n ⟨false, stamp⟩) s = .next t ∧
      (∀ k, k < 32 → t.gpio.inp.getLsbD k = (s.gpio.inp.getLsbD k && decide (k ≠ n.val))) ∧
      { t with gpio := { t.gpio with inp := s.gpio.inp } } = s) ∧
    (s.gpio.dir.getLsbD n.val = false → ∃ t, exec (.gpioEdge n ⟨true, stamp⟩) s = .next t ∧
      t.gpio.inp.getLsbD n.val = true ∧ tabGet? t.gpio.edges n.val = some stamp ∧
      (∀ h f, h < 64 → (chan s h).cfg = some f → active (chan s h).state = true → f.keyGpi = n.val →
        f.role = .encode ∨ f.role = .transcode → (chan t h).keyReqs = (chan s h).keyReqs ++ [(stamp, 3)]) ∧
      (∀ h f, h < 64 → (chan s h).cfg = some f → f.keyGpi ≠ n.val → chan t h = chan s h) ∧
      (∀ e ∈ s.aud.ports, e.2.startGpi = some n.val →
        (e.1, { e.2 with startGpi := none, startAt := some (stamp + 100000) }) ∈ t.aud.ports) ∧
      { t with gpio := s.gpio, chans := s.chans, aud := s.aud } = s)

/-! ### Faults of ports, retirement and the fault log (R42 to R45, R340, R343, R500 to R515) -/

/-- R340, R343, R505 to R507, R511: firmware retires the unit whose turn it is: it is out of service with what leaves
with it, the retirement is logged and reported with the recount; a controller is evacuated, or lost with a reset;
the map is then written over its older copy. R45: the channel shed first is of the lowest rank, then of the highest
handle. R500, R502, R510, R513: a fault of an SDI, media or serial audio port in service is counted against it with
its code, and the port starts again; the third counted event in 60 s makes it permanent; the next log entry goes to
flash, a full log losing its oldest sector. -/
def Obligations.RetirementsAndFaults : Prop :=
  ((∀ (u : UnitRef) (k : Fin 4) (s : State),
     (s.ctl.fwRunning = false ∨ s.flt.due = [] → exec (.unitRetire u k) s = .next s) ∧
     (∀ v x rest, s.flt.due = (v, x) :: rest → v ≠ u → exec (.unitRetire u k) s = .next s) ∧
     (∀ c a rest, s.flt.due = (u, c, a) :: rest → s.ctl.fwRunning = true → (∀ n, u ≠ .controller n) →
       s.ctl.restart.active = false → ∃ t,
       exec (.unitRetire u k) s = .next t ∧ isRetired t u = true ∧ t.flash.mapDue = true ∧
       (∀ v, isRetired s v = true → isRetired t v = true) ∧ (∀ e ∈ t.flt.due, e.1 ≠ u) ∧
       (∀ b, u = .block b → ∀ i, i < 16 → isRetired t (.cell (Fin.ofNat 1024 (b.val * 16 + i))) = true) ∧
       (∀ x, u = .cell x → (cellAt t x.val).state = 3 ∧ (cellAt t x.val).task = none) ∧
       (∀ p, u = .fabPort p → portState t p.val = 0) ∧
       (∃ e ∈ t.flt.log, e.code = 0x20 ∧ e.unitType = unitType u ∧ e.unit = unitNumber u ∧ e.index = s.flt.nextIndex) ∧
       (t.evt.lostTotal = s.evt.lostTotal → (∃ e ∈ t.evt.fifo, e.code = evUnitRetired ∧
           e.data = eventData (u8 (unitType u) ++ u8 c ++ u16 (unitNumber u) ++ u32 s.flt.nextIndex ++ u32 (luTotal t))) ∧
         ∃ e ∈ t.evt.fifo, e.code = evCapacity ∧
           e.data = eventData (u32 (luTotal t) ++ u32 (luLimit t) ++ u32 (luBooked t)))) ∧
     (∀ n x rest, u = .controller n → s.flt.due = (u, x) :: rest → s.ctl.fwRunning = true → n.val ∈ s.mem.trained →
       s.modes.mode ≠ .boot → isRetired s u = false →
       let others := (List.range 8).all fun i => decide (i = n.val) || absentUnit s (.controller (Fin.ofNat 8 i)) || mcOn s i
       (others = true → s.fuses.orderCode = 0 → ∃ t, exec (.unitRetire u k) s = .next t ∧ t.mem.evac = true ∧
         t.mem.evacMc = n.val ∧ t.mem.evacNext = 0 ∧ isRetired t u = true ∧ t.mem.trained = s.mem.trained ∧
         (s.evt.fifo = [] → ∃ e ∈ t.evt.fifo, e.code = evMemEvacuate ∧ e.data = eventData (u8 n.val ++ [0]))) ∧
       (others = false ∨ s.fuses.orderCode ≠ 0 → ∃ t, exec (.unitRetire u k) s = .next t ∧ t.modes.mode = .boot ∧
         t.chans = [] ∧ t.mem.lost.getLsbD n.val = true ∧ isRetired t u = true))) ∧
   (∀ (s : State) (hs : List Nat) (h : Nat), hs.Pairwise (· < ·) → shedNext s hs = some h → h ∈ hs ∧
     ∀ g ∈ hs, (chan s h).shedRank < (chan s g).shedRank ∨ ((chan s h).shedRank = (chan s g).shedRank ∧ g ≤ h)) ∧
   ∀ (s : State),
     (s.flash.mapDue = false ∨ s.ctl.fwRunning = false → exec .retirementMapWrite s = .next s) ∧
     (s.flash.mapDue = true → s.ctl.fwRunning = true → ∃ t m, exec .retirementMapWrite s = .next t ∧
       mapCopy t.flash = some m ∧ m.units = s.flt.retired.filter (fun u => !absentUnit s u) ∧
       m.node = (if s.fab.valid then some s.fab.node else none) ∧
       m.seq = (match mapCopy s.flash with | some c => c.seq | none => 0) + 1 ∧ t.flash.mapDue = false ∧
       (∀ c, mapCopy s.flash = some c → t.flash.map0 = c ∨ t.flash.map1 = c) ∧
       { t.flash with map0 := s.flash.map0, map1 := s.flash.map1, mapDue := true } = s.flash ∧
       { t with flash := s.flash } = s)) ∧
  ((∀ (i : Instr) (u : UnitRef) (code : Nat) (s : State),
     (∃ n, (i = .sdiPortFault n ∧ u = .sdiPort n ∧ code = 11) ∨ (i = .audioPortFault n ∧ u = .audioPort n ∧ code = 13)) ∨
       (∃ n, i = .mediaPortFault n ∧ u = .mediaPort n ∧ code = 12) →
     (inService s u = false → exec i s = .next s) ∧
     (inService s u = true → ∃ t, exec i s = .next t ∧ t.flt.counts = s.flt.counts ++ [(u, nowNs s)] ∧
       (∃ e, t.flt.log = s.flt.log ++ [e] ∧ e.code = code ∧ e.unitType = unitType u ∧ e.unit = unitNumber u ∧
         e.count = windowCount s u + 1) ∧
       (windowCount s u < 2 → t.flt.due = s.flt.due) ∧ (2 ≤ windowCount s u → ∃ x, (u, x) ∈ t.flt.due) ∧
       (s.evt.fifo = [] → ∃ e ∈ t.evt.fifo, e.code = evUnitFault) ∧ t.flt.retired = s.flt.retired ∧
       t.modes = s.modes ∧ t.mem = s.mem)) ∧
   (∀ (n : Fin 8) (s : State), inService s (.audioPort n) = true → ∃ t, exec (.audioPortFault n) s = .next t ∧
     (sapOf t n.val).lock = 0 ∧ (sapOf t n.val).started = false) ∧
   (∀ (n : Fin 2) (k : Nat) (x : MniIf) (s : State), inService s (.mediaPort n) = true → tabGet? s.mni k = some x →
     ∃ t, exec (.mediaPortFault n) s = .next t ∧
       tabGet? t.mni k = some (if k / 4 = n.val then { x with linkUp := false } else x)) ∧
   (∀ (n : Fin 8) (s : State), inService s (.sdiPort n) = true → ∃ t, exec (.sdiPortFault n) s = .next t ∧
     tabGet? t.sdi n.val = some .unlocked) ∧
   ∀ (s : State),
     (s.flt.log.length ≤ s.flt.flashed ∨ s.ctl.fwRunning = false → exec .faultLogWrite s = .next s) ∧
     (s.flt.flashed < s.flt.log.length → s.ctl.fwRunning = true → s.flt.flashed < 61440 →
       exec .faultLogWrite s = .next { s with flt := { s.flt with flashed := s.flt.flashed + 1 } }) ∧
     (61440 ≤ s.flt.flashed → s.flt.flashed < s.flt.log.length → s.ctl.fwRunning = true →
       exec .faultLogWrite s = .next { s with flt := { s.flt with
         log := s.flt.log.drop 1024, flashed := s.flt.flashed - 1024 + 1 } }))
end

