-- ==== Sys2Proof/Laws/State.lean ====
section
/-! SUPPORT. Laws/State.lean: what each update of State leaves alone, field by field. -/

namespace Sys2Proof.Machine

@[simp] theorem setChan_pending (h : Nat) (c : Chan) (s : State) : (setChan h c s).pending = s.pending := rfl
@[simp] theorem setChan_free (h : Nat) (c : Chan) (s : State) : (setChan h c s).free = s.free := rfl
@[simp] theorem setChan_last (h : Nat) (c : Chan) (s : State) : (setChan h c s).last = s.last := rfl
@[simp] theorem setChan_fuses (h : Nat) (c : Chan) (s : State) : (setChan h c s).fuses = s.fuses := rfl
@[simp] theorem setChan_modes (h : Nat) (c : Chan) (s : State) : (setChan h c s).modes = s.modes := rfl
@[simp] theorem setChan_ctl (h : Nat) (c : Chan) (s : State) : (setChan h c s).ctl = s.ctl := rfl
@[simp] theorem setChan_flash (h : Nat) (c : Chan) (s : State) : (setChan h c s).flash = s.flash := rfl
@[simp] theorem setChan_mbx (h : Nat) (c : Chan) (s : State) : (setChan h c s).mbx = s.mbx := rfl
@[simp] theorem setChan_evt (h : Nat) (c : Chan) (s : State) : (setChan h c s).evt = s.evt := rfl
@[simp] theorem setChan_ledger (h : Nat) (c : Chan) (s : State) : (setChan h c s).ledger = s.ledger := rfl
@[simp] theorem setChan_tim (h : Nat) (c : Chan) (s : State) : (setChan h c s).tim = s.tim := rfl
@[simp] theorem setChan_inputs (h : Nat) (c : Chan) (s : State) : (setChan h c s).inputs = s.inputs := rfl
@[simp] theorem setChan_policers (h : Nat) (c : Chan) (s : State) : (setChan h c s).policers = s.policers := rfl
@[simp] theorem setChan_mni (h : Nat) (c : Chan) (s : State) : (setChan h c s).mni = s.mni := rfl
@[simp] theorem setChan_mediaMode (h : Nat) (c : Chan) (s : State) : (setChan h c s).mediaMode = s.mediaMode := rfl
@[simp] theorem setChan_sdi (h : Nat) (c : Chan) (s : State) : (setChan h c s).sdi = s.sdi := rfl
@[simp] theorem setChan_outputs (h : Nat) (c : Chan) (s : State) : (setChan h c s).outputs = s.outputs := rfl
@[simp] theorem setChan_tmg (h : Nat) (c : Chan) (s : State) : (setChan h c s).tmg = s.tmg := rfl
@[simp] theorem setChan_pix (h : Nat) (c : Chan) (s : State) : (setChan h c s).pix = s.pix := rfl
@[simp] theorem setChan_mon (h : Nat) (c : Chan) (s : State) : (setChan h c s).mon = s.mon := rfl
@[simp] theorem setChan_tsk (h : Nat) (c : Chan) (s : State) : (setChan h c s).tsk = s.tsk := rfl
@[simp] theorem setChan_pipes (h : Nat) (c : Chan) (s : State) : (setChan h c s).pipes = s.pipes := rfl
@[simp] theorem setChan_mem (h : Nat) (c : Chan) (s : State) : (setChan h c s).mem = s.mem := rfl
@[simp] theorem setChan_fab (h : Nat) (c : Chan) (s : State) : (setChan h c s).fab = s.fab := rfl
@[simp] theorem setChan_prt (h : Nat) (c : Chan) (s : State) : (setChan h c s).prt = s.prt := rfl
@[simp] theorem setChan_aud (h : Nat) (c : Chan) (s : State) : (setChan h c s).aud = s.aud := rfl
@[simp] theorem setChan_flt (h : Nat) (c : Chan) (s : State) : (setChan h c s).flt = s.flt := rfl
@[simp] theorem setChan_hlth (h : Nat) (c : Chan) (s : State) : (setChan h c s).hlth = s.hlth := rfl
@[simp] theorem setChan_pwr (h : Nat) (c : Chan) (s : State) : (setChan h c s).pwr = s.pwr := rfl
@[simp] theorem setChan_gpio (h : Nat) (c : Chan) (s : State) : (setChan h c s).gpio = s.gpio := rfl
@[simp] theorem setChan_hif (h : Nat) (c : Chan) (s : State) : (setChan h c s).hif = s.hif := rfl

@[simp] theorem modChan_pending (h : Nat) (f : Chan → Chan) (s : State) : (modChan h f s).pending = s.pending := rfl
@[simp] theorem modChan_free (h : Nat) (f : Chan → Chan) (s : State) : (modChan h f s).free = s.free := rfl
@[simp] theorem modChan_last (h : Nat) (f : Chan → Chan) (s : State) : (modChan h f s).last = s.last := rfl
@[simp] theorem modChan_fuses (h : Nat) (f : Chan → Chan) (s : State) : (modChan h f s).fuses = s.fuses := rfl
@[simp] theorem modChan_modes (h : Nat) (f : Chan → Chan) (s : State) : (modChan h f s).modes = s.modes := rfl
@[simp] theorem modChan_ctl (h : Nat) (f : Chan → Chan) (s : State) : (modChan h f s).ctl = s.ctl := rfl
@[simp] theorem modChan_flash (h : Nat) (f : Chan → Chan) (s : State) : (modChan h f s).flash = s.flash := rfl
@[simp] theorem modChan_mbx (h : Nat) (f : Chan → Chan) (s : State) : (modChan h f s).mbx = s.mbx := rfl
@[simp] theorem modChan_evt (h : Nat) (f : Chan → Chan) (s : State) : (modChan h f s).evt = s.evt := rfl
@[simp] theorem modChan_ledger (h : Nat) (f : Chan → Chan) (s : State) : (modChan h f s).ledger = s.ledger := rfl
@[simp] theorem modChan_tim (h : Nat) (f : Chan → Chan) (s : State) : (modChan h f s).tim = s.tim := rfl
@[simp] theorem modChan_inputs (h : Nat) (f : Chan → Chan) (s : State) : (modChan h f s).inputs = s.inputs := rfl
@[simp] theorem modChan_policers (h : Nat) (f : Chan → Chan) (s : State) : (modChan h f s).policers = s.policers := rfl
@[simp] theorem modChan_mni (h : Nat) (f : Chan → Chan) (s : State) : (modChan h f s).mni = s.mni := rfl
@[simp] theorem modChan_mediaMode (h : Nat) (f : Chan → Chan) (s : State) : (modChan h f s).mediaMode = s.mediaMode := rfl
@[simp] theorem modChan_sdi (h : Nat) (f : Chan → Chan) (s : State) : (modChan h f s).sdi = s.sdi := rfl
@[simp] theorem modChan_outputs (h : Nat) (f : Chan → Chan) (s : State) : (modChan h f s).outputs = s.outputs := rfl
@[simp] theorem modChan_tmg (h : Nat) (f : Chan → Chan) (s : State) : (modChan h f s).tmg = s.tmg := rfl
@[simp] theorem modChan_pix (h : Nat) (f : Chan → Chan) (s : State) : (modChan h f s).pix = s.pix := rfl
@[simp] theorem modChan_mon (h : Nat) (f : Chan → Chan) (s : State) : (modChan h f s).mon = s.mon := rfl
@[simp] theorem modChan_tsk (h : Nat) (f : Chan → Chan) (s : State) : (modChan h f s).tsk = s.tsk := rfl
@[simp] theorem modChan_pipes (h : Nat) (f : Chan → Chan) (s : State) : (modChan h f s).pipes = s.pipes := rfl
@[simp] theorem modChan_mem (h : Nat) (f : Chan → Chan) (s : State) : (modChan h f s).mem = s.mem := rfl
@[simp] theorem modChan_fab (h : Nat) (f : Chan → Chan) (s : State) : (modChan h f s).fab = s.fab := rfl
@[simp] theorem modChan_prt (h : Nat) (f : Chan → Chan) (s : State) : (modChan h f s).prt = s.prt := rfl
@[simp] theorem modChan_aud (h : Nat) (f : Chan → Chan) (s : State) : (modChan h f s).aud = s.aud := rfl
@[simp] theorem modChan_flt (h : Nat) (f : Chan → Chan) (s : State) : (modChan h f s).flt = s.flt := rfl
@[simp] theorem modChan_hlth (h : Nat) (f : Chan → Chan) (s : State) : (modChan h f s).hlth = s.hlth := rfl
@[simp] theorem modChan_pwr (h : Nat) (f : Chan → Chan) (s : State) : (modChan h f s).pwr = s.pwr := rfl
@[simp] theorem modChan_gpio (h : Nat) (f : Chan → Chan) (s : State) : (modChan h f s).gpio = s.gpio := rfl
@[simp] theorem modChan_hif (h : Nat) (f : Chan → Chan) (s : State) : (modChan h f s).hif = s.hif := rfl

@[simp] theorem setSlot_pending (n : Nat) (x : Slot) (s : State) : (setSlot n x s).pending = s.pending := rfl
@[simp] theorem setSlot_free (n : Nat) (x : Slot) (s : State) : (setSlot n x s).free = s.free := rfl
@[simp] theorem setSlot_last (n : Nat) (x : Slot) (s : State) : (setSlot n x s).last = s.last := rfl
@[simp] theorem setSlot_fuses (n : Nat) (x : Slot) (s : State) : (setSlot n x s).fuses = s.fuses := rfl
@[simp] theorem setSlot_modes (n : Nat) (x : Slot) (s : State) : (setSlot n x s).modes = s.modes := rfl
@[simp] theorem setSlot_ctl (n : Nat) (x : Slot) (s : State) : (setSlot n x s).ctl = s.ctl := rfl
@[simp] theorem setSlot_flash (n : Nat) (x : Slot) (s : State) : (setSlot n x s).flash = s.flash := rfl
@[simp] theorem setSlot_evt (n : Nat) (x : Slot) (s : State) : (setSlot n x s).evt = s.evt := rfl
@[simp] theorem setSlot_ledger (n : Nat) (x : Slot) (s : State) : (setSlot n x s).ledger = s.ledger := rfl
@[simp] theorem setSlot_tim (n : Nat) (x : Slot) (s : State) : (setSlot n x s).tim = s.tim := rfl
@[simp] theorem setSlot_inputs (n : Nat) (x : Slot) (s : State) : (setSlot n x s).inputs = s.inputs := rfl
@[simp] theorem setSlot_policers (n : Nat) (x : Slot) (s : State) : (setSlot n x s).policers = s.policers := rfl
@[simp] theorem setSlot_mni (n : Nat) (x : Slot) (s : State) : (setSlot n x s).mni = s.mni := rfl
@[simp] theorem setSlot_mediaMode (n : Nat) (x : Slot) (s : State) : (setSlot n x s).mediaMode = s.mediaMode := rfl
@[simp] theorem setSlot_sdi (n : Nat) (x : Slot) (s : State) : (setSlot n x s).sdi = s.sdi := rfl
@[simp] theorem setSlot_outputs (n : Nat) (x : Slot) (s : State) : (setSlot n x s).outputs = s.outputs := rfl
@[simp] theorem setSlot_tmg (n : Nat) (x : Slot) (s : State) : (setSlot n x s).tmg = s.tmg := rfl
@[simp] theorem setSlot_chans (n : Nat) (x : Slot) (s : State) : (setSlot n x s).chans = s.chans := rfl
@[simp] theorem setSlot_pix (n : Nat) (x : Slot) (s : State) : (setSlot n x s).pix = s.pix := rfl
@[simp] theorem setSlot_mon (n : Nat) (x : Slot) (s : State) : (setSlot n x s).mon = s.mon := rfl
@[simp] theorem setSlot_tsk (n : Nat) (x : Slot) (s : State) : (setSlot n x s).tsk = s.tsk := rfl
@[simp] theorem setSlot_pipes (n : Nat) (x : Slot) (s : State) : (setSlot n x s).pipes = s.pipes := rfl
@[simp] theorem setSlot_mem (n : Nat) (x : Slot) (s : State) : (setSlot n x s).mem = s.mem := rfl
@[simp] theorem setSlot_fab (n : Nat) (x : Slot) (s : State) : (setSlot n x s).fab = s.fab := rfl
@[simp] theorem setSlot_prt (n : Nat) (x : Slot) (s : State) : (setSlot n x s).prt = s.prt := rfl
@[simp] theorem setSlot_aud (n : Nat) (x : Slot) (s : State) : (setSlot n x s).aud = s.aud := rfl
@[simp] theorem setSlot_flt (n : Nat) (x : Slot) (s : State) : (setSlot n x s).flt = s.flt := rfl
@[simp] theorem setSlot_hlth (n : Nat) (x : Slot) (s : State) : (setSlot n x s).hlth = s.hlth := rfl
@[simp] theorem setSlot_pwr (n : Nat) (x : Slot) (s : State) : (setSlot n x s).pwr = s.pwr := rfl
@[simp] theorem setSlot_gpio (n : Nat) (x : Slot) (s : State) : (setSlot n x s).gpio = s.gpio := rfl
@[simp] theorem setSlot_hif (n : Nat) (x : Slot) (s : State) : (setSlot n x s).hif = s.hif := rfl

@[simp] theorem setInput_pending (i : Nat) (x : Input) (s : State) : (setInput i x s).pending = s.pending := rfl
@[simp] theorem setInput_free (i : Nat) (x : Input) (s : State) : (setInput i x s).free = s.free := rfl
@[simp] theorem setInput_last (i : Nat) (x : Input) (s : State) : (setInput i x s).last = s.last := rfl
@[simp] theorem setInput_fuses (i : Nat) (x : Input) (s : State) : (setInput i x s).fuses = s.fuses := rfl
@[simp] theorem setInput_modes (i : Nat) (x : Input) (s : State) : (setInput i x s).modes = s.modes := rfl
@[simp] theorem setInput_ctl (i : Nat) (x : Input) (s : State) : (setInput i x s).ctl = s.ctl := rfl
@[simp] theorem setInput_flash (i : Nat) (x : Input) (s : State) : (setInput i x s).flash = s.flash := rfl
@[simp] theorem setInput_mbx (i : Nat) (x : Input) (s : State) : (setInput i x s).mbx = s.mbx := rfl
@[simp] theorem setInput_evt (i : Nat) (x : Input) (s : State) : (setInput i x s).evt = s.evt := rfl
@[simp] theorem setInput_ledger (i : Nat) (x : Input) (s : State) : (setInput i x s).ledger = s.ledger := rfl
@[simp] theorem setInput_tim (i : Nat) (x : Input) (s : State) : (setInput i x s).tim = s.tim := rfl
@[simp] theorem setInput_policers (i : Nat) (x : Input) (s : State) : (setInput i x s).policers = s.policers := rfl
@[simp] theorem setInput_mni (i : Nat) (x : Input) (s : State) : (setInput i x s).mni = s.mni := rfl
@[simp] theorem setInput_mediaMode (i : Nat) (x : Input) (s : State) : (setInput i x s).mediaMode = s.mediaMode := rfl
@[simp] theorem setInput_sdi (i : Nat) (x : Input) (s : State) : (setInput i x s).sdi = s.sdi := rfl
@[simp] theorem setInput_outputs (i : Nat) (x : Input) (s : State) : (setInput i x s).outputs = s.outputs := rfl
@[simp] theorem setInput_tmg (i : Nat) (x : Input) (s : State) : (setInput i x s).tmg = s.tmg := rfl
@[simp] theorem setInput_chans (i : Nat) (x : Input) (s : State) : (setInput i x s).chans = s.chans := rfl
@[simp] theorem setInput_pix (i : Nat) (x : Input) (s : State) : (setInput i x s).pix = s.pix := rfl
@[simp] theorem setInput_mon (i : Nat) (x : Input) (s : State) : (setInput i x s).mon = s.mon := rfl
@[simp] theorem setInput_tsk (i : Nat) (x : Input) (s : State) : (setInput i x s).tsk = s.tsk := rfl
@[simp] theorem setInput_pipes (i : Nat) (x : Input) (s : State) : (setInput i x s).pipes = s.pipes := rfl
@[simp] theorem setInput_mem (i : Nat) (x : Input) (s : State) : (setInput i x s).mem = s.mem := rfl
@[simp] theorem setInput_fab (i : Nat) (x : Input) (s : State) : (setInput i x s).fab = s.fab := rfl
@[simp] theorem setInput_prt (i : Nat) (x : Input) (s : State) : (setInput i x s).prt = s.prt := rfl
@[simp] theorem setInput_aud (i : Nat) (x : Input) (s : State) : (setInput i x s).aud = s.aud := rfl
@[simp] theorem setInput_flt (i : Nat) (x : Input) (s : State) : (setInput i x s).flt = s.flt := rfl
@[simp] theorem setInput_hlth (i : Nat) (x : Input) (s : State) : (setInput i x s).hlth = s.hlth := rfl
@[simp] theorem setInput_pwr (i : Nat) (x : Input) (s : State) : (setInput i x s).pwr = s.pwr := rfl
@[simp] theorem setInput_gpio (i : Nat) (x : Input) (s : State) : (setInput i x s).gpio = s.gpio := rfl
@[simp] theorem setInput_hif (i : Nat) (x : Input) (s : State) : (setInput i x s).hif = s.hif := rfl

@[simp] theorem setFport_pending (p : Nat) (x : FPort) (s : State) : (setFport p x s).pending = s.pending := rfl
@[simp] theorem setFport_free (p : Nat) (x : FPort) (s : State) : (setFport p x s).free = s.free := rfl
@[simp] theorem setFport_last (p : Nat) (x : FPort) (s : State) : (setFport p x s).last = s.last := rfl
@[simp] theorem setFport_fuses (p : Nat) (x : FPort) (s : State) : (setFport p x s).fuses = s.fuses := rfl
@[simp] theorem setFport_modes (p : Nat) (x : FPort) (s : State) : (setFport p x s).modes = s.modes := rfl
@[simp] theorem setFport_ctl (p : Nat) (x : FPort) (s : State) : (setFport p x s).ctl = s.ctl := rfl
@[simp] theorem setFport_flash (p : Nat) (x : FPort) (s : State) : (setFport p x s).flash = s.flash := rfl
@[simp] theorem setFport_mbx (p : Nat) (x : FPort) (s : State) : (setFport p x s).mbx = s.mbx := rfl
@[simp] theorem setFport_evt (p : Nat) (x : FPort) (s : State) : (setFport p x s).evt = s.evt := rfl
@[simp] theorem setFport_ledger (p : Nat) (x : FPort) (s : State) : (setFport p x s).ledger = s.ledger := rfl
@[simp] theorem setFport_tim (p : Nat) (x : FPort) (s : State) : (setFport p x s).tim = s.tim := rfl
@[simp] theorem setFport_inputs (p : Nat) (x : FPort) (s : State) : (setFport p x s).inputs = s.inputs := rfl
@[simp] theorem setFport_policers (p : Nat) (x : FPort) (s : State) : (setFport p x s).policers = s.policers := rfl
@[simp] theorem setFport_mni (p : Nat) (x : FPort) (s : State) : (setFport p x s).mni = s.mni := rfl
@[simp] theorem setFport_mediaMode (p : Nat) (x : FPort) (s : State) : (setFport p x s).mediaMode = s.mediaMode := rfl
@[simp] theorem setFport_sdi (p : Nat) (x : FPort) (s : State) : (setFport p x s).sdi = s.sdi := rfl
@[simp] theorem setFport_outputs (p : Nat) (x : FPort) (s : State) : (setFport p x s).outputs = s.outputs := rfl
@[simp] theorem setFport_tmg (p : Nat) (x : FPort) (s : State) : (setFport p x s).tmg = s.tmg := rfl
@[simp] theorem setFport_chans (p : Nat) (x : FPort) (s : State) : (setFport p x s).chans = s.chans := rfl
@[simp] theorem setFport_pix (p : Nat) (x : FPort) (s : State) : (setFport p x s).pix = s.pix := rfl
@[simp] theorem setFport_mon (p : Nat) (x : FPort) (s : State) : (setFport p x s).mon = s.mon := rfl
@[simp] theorem setFport_tsk (p : Nat) (x : FPort) (s : State) : (setFport p x s).tsk = s.tsk := rfl
@[simp] theorem setFport_pipes (p : Nat) (x : FPort) (s : State) : (setFport p x s).pipes = s.pipes := rfl
@[simp] theorem setFport_mem (p : Nat) (x : FPort) (s : State) : (setFport p x s).mem = s.mem := rfl
@[simp] theorem setFport_prt (p : Nat) (x : FPort) (s : State) : (setFport p x s).prt = s.prt := rfl
@[simp] theorem setFport_aud (p : Nat) (x : FPort) (s : State) : (setFport p x s).aud = s.aud := rfl
@[simp] theorem setFport_flt (p : Nat) (x : FPort) (s : State) : (setFport p x s).flt = s.flt := rfl
@[simp] theorem setFport_hlth (p : Nat) (x : FPort) (s : State) : (setFport p x s).hlth = s.hlth := rfl
@[simp] theorem setFport_pwr (p : Nat) (x : FPort) (s : State) : (setFport p x s).pwr = s.pwr := rfl
@[simp] theorem setFport_gpio (p : Nat) (x : FPort) (s : State) : (setFport p x s).gpio = s.gpio := rfl
@[simp] theorem setFport_hif (p : Nat) (x : FPort) (s : State) : (setFport p x s).hif = s.hif := rfl

@[simp] theorem setBoot_pending (b : BootStatus) (s : State) : (setBoot b s).pending = s.pending := rfl
@[simp] theorem setBoot_free (b : BootStatus) (s : State) : (setBoot b s).free = s.free := rfl
@[simp] theorem setBoot_last (b : BootStatus) (s : State) : (setBoot b s).last = s.last := rfl
@[simp] theorem setBoot_fuses (b : BootStatus) (s : State) : (setBoot b s).fuses = s.fuses := rfl
@[simp] theorem setBoot_modes (b : BootStatus) (s : State) : (setBoot b s).modes = s.modes := rfl
@[simp] theorem setBoot_flash (b : BootStatus) (s : State) : (setBoot b s).flash = s.flash := rfl
@[simp] theorem setBoot_mbx (b : BootStatus) (s : State) : (setBoot b s).mbx = s.mbx := rfl
@[simp] theorem setBoot_evt (b : BootStatus) (s : State) : (setBoot b s).evt = s.evt := rfl
@[simp] theorem setBoot_ledger (b : BootStatus) (s : State) : (setBoot b s).ledger = s.ledger := rfl
@[simp] theorem setBoot_tim (b : BootStatus) (s : State) : (setBoot b s).tim = s.tim := rfl
@[simp] theorem setBoot_inputs (b : BootStatus) (s : State) : (setBoot b s).inputs = s.inputs := rfl
@[simp] theorem setBoot_policers (b : BootStatus) (s : State) : (setBoot b s).policers = s.policers := rfl
@[simp] theorem setBoot_mni (b : BootStatus) (s : State) : (setBoot b s).mni = s.mni := rfl
@[simp] theorem setBoot_mediaMode (b : BootStatus) (s : State) : (setBoot b s).mediaMode = s.mediaMode := rfl
@[simp] theorem setBoot_sdi (b : BootStatus) (s : State) : (setBoot b s).sdi = s.sdi := rfl
@[simp] theorem setBoot_outputs (b : BootStatus) (s : State) : (setBoot b s).outputs = s.outputs := rfl
@[simp] theorem setBoot_tmg (b : BootStatus) (s : State) : (setBoot b s).tmg = s.tmg := rfl
@[simp] theorem setBoot_chans (b : BootStatus) (s : State) : (setBoot b s).chans = s.chans := rfl
@[simp] theorem setBoot_pix (b : BootStatus) (s : State) : (setBoot b s).pix = s.pix := rfl
@[simp] theorem setBoot_mon (b : BootStatus) (s : State) : (setBoot b s).mon = s.mon := rfl
@[simp] theorem setBoot_tsk (b : BootStatus) (s : State) : (setBoot b s).tsk = s.tsk := rfl
@[simp] theorem setBoot_pipes (b : BootStatus) (s : State) : (setBoot b s).pipes = s.pipes := rfl
@[simp] theorem setBoot_mem (b : BootStatus) (s : State) : (setBoot b s).mem = s.mem := rfl
@[simp] theorem setBoot_fab (b : BootStatus) (s : State) : (setBoot b s).fab = s.fab := rfl
@[simp] theorem setBoot_prt (b : BootStatus) (s : State) : (setBoot b s).prt = s.prt := rfl
@[simp] theorem setBoot_aud (b : BootStatus) (s : State) : (setBoot b s).aud = s.aud := rfl
@[simp] theorem setBoot_flt (b : BootStatus) (s : State) : (setBoot b s).flt = s.flt := rfl
@[simp] theorem setBoot_hlth (b : BootStatus) (s : State) : (setBoot b s).hlth = s.hlth := rfl
@[simp] theorem setBoot_pwr (b : BootStatus) (s : State) : (setBoot b s).pwr = s.pwr := rfl
@[simp] theorem setBoot_gpio (b : BootStatus) (s : State) : (setBoot b s).gpio = s.gpio := rfl
@[simp] theorem setBoot_hif (b : BootStatus) (s : State) : (setBoot b s).hif = s.hif := rfl

@[simp] theorem busError_pending (m : Master) (w : Bool) (a : BitVec 40) (s : State) : (busError m w a s).pending = s.pending := rfl
@[simp] theorem busError_free (m : Master) (w : Bool) (a : BitVec 40) (s : State) : (busError m w a s).free = s.free := rfl
@[simp] theorem busError_last (m : Master) (w : Bool) (a : BitVec 40) (s : State) : (busError m w a s).last = s.last := rfl
@[simp] theorem busError_fuses (m : Master) (w : Bool) (a : BitVec 40) (s : State) : (busError m w a s).fuses = s.fuses := rfl
@[simp] theorem busError_modes (m : Master) (w : Bool) (a : BitVec 40) (s : State) : (busError m w a s).modes = s.modes := rfl
@[simp] theorem busError_flash (m : Master) (w : Bool) (a : BitVec 40) (s : State) : (busError m w a s).flash = s.flash := rfl
@[simp] theorem busError_mbx (m : Master) (w : Bool) (a : BitVec 40) (s : State) : (busError m w a s).mbx = s.mbx := rfl
@[simp] theorem busError_evt (m : Master) (w : Bool) (a : BitVec 40) (s : State) : (busError m w a s).evt = s.evt := rfl
@[simp] theorem busError_ledger (m : Master) (w : Bool) (a : BitVec 40) (s : State) : (busError m w a s).ledger = s.ledger := rfl
@[simp] theorem busError_tim (m : Master) (w : Bool) (a : BitVec 40) (s : State) : (busError m w a s).tim = s.tim := rfl
@[simp] theorem busError_inputs (m : Master) (w : Bool) (a : BitVec 40) (s : State) : (busError m w a s).inputs = s.inputs := rfl
@[simp] theorem busError_policers (m : Master) (w : Bool) (a : BitVec 40) (s : State) : (busError m w a s).policers = s.policers := rfl
@[simp] theorem busError_mni (m : Master) (w : Bool) (a : BitVec 40) (s : State) : (busError m w a s).mni = s.mni := rfl
@[simp] theorem busError_mediaMode (m : Master) (w : Bool) (a : BitVec 40) (s : State) : (busError m w a s).mediaMode = s.mediaMode := rfl
@[simp] theorem busError_sdi (m : Master) (w : Bool) (a : BitVec 40) (s : State) : (busError m w a s).sdi = s.sdi := rfl
@[simp] theorem busError_outputs (m : Master) (w : Bool) (a : BitVec 40) (s : State) : (busError m w a s).outputs = s.outputs := rfl
@[simp] theorem busError_tmg (m : Master) (w : Bool) (a : BitVec 40) (s : State) : (busError m w a s).tmg = s.tmg := rfl
@[simp] theorem busError_chans (m : Master) (w : Bool) (a : BitVec 40) (s : State) : (busError m w a s).chans = s.chans := rfl
@[simp] theorem busError_pix (m : Master) (w : Bool) (a : BitVec 40) (s : State) : (busError m w a s).pix = s.pix := rfl
@[simp] theorem busError_mon (m : Master) (w : Bool) (a : BitVec 40) (s : State) : (busError m w a s).mon = s.mon := rfl
@[simp] theorem busError_tsk (m : Master) (w : Bool) (a : BitVec 40) (s : State) : (busError m w a s).tsk = s.tsk := rfl
@[simp] theorem busError_pipes (m : Master) (w : Bool) (a : BitVec 40) (s : State) : (busError m w a s).pipes = s.pipes := rfl
@[simp] theorem busError_mem (m : Master) (w : Bool) (a : BitVec 40) (s : State) : (busError m w a s).mem = s.mem := rfl
@[simp] theorem busError_fab (m : Master) (w : Bool) (a : BitVec 40) (s : State) : (busError m w a s).fab = s.fab := rfl
@[simp] theorem busError_prt (m : Master) (w : Bool) (a : BitVec 40) (s : State) : (busError m w a s).prt = s.prt := rfl
@[simp] theorem busError_aud (m : Master) (w : Bool) (a : BitVec 40) (s : State) : (busError m w a s).aud = s.aud := rfl
@[simp] theorem busError_flt (m : Master) (w : Bool) (a : BitVec 40) (s : State) : (busError m w a s).flt = s.flt := rfl
@[simp] theorem busError_hlth (m : Master) (w : Bool) (a : BitVec 40) (s : State) : (busError m w a s).hlth = s.hlth := rfl
@[simp] theorem busError_pwr (m : Master) (w : Bool) (a : BitVec 40) (s : State) : (busError m w a s).pwr = s.pwr := rfl
@[simp] theorem busError_gpio (m : Master) (w : Bool) (a : BitVec 40) (s : State) : (busError m w a s).gpio = s.gpio := rfl
@[simp] theorem busError_hif (m : Master) (w : Bool) (a : BitVec 40) (s : State) : (busError m w a s).hif = s.hif := rfl

@[simp] theorem returned_pending (v : Nat) (s : State) : (returned v s).pending = s.pending := rfl
@[simp] theorem returned_free (v : Nat) (s : State) : (returned v s).free = s.free := rfl
@[simp] theorem returned_fuses (v : Nat) (s : State) : (returned v s).fuses = s.fuses := rfl
@[simp] theorem returned_modes (v : Nat) (s : State) : (returned v s).modes = s.modes := rfl
@[simp] theorem returned_ctl (v : Nat) (s : State) : (returned v s).ctl = s.ctl := rfl
@[simp] theorem returned_flash (v : Nat) (s : State) : (returned v s).flash = s.flash := rfl
@[simp] theorem returned_mbx (v : Nat) (s : State) : (returned v s).mbx = s.mbx := rfl
@[simp] theorem returned_evt (v : Nat) (s : State) : (returned v s).evt = s.evt := rfl
@[simp] theorem returned_ledger (v : Nat) (s : State) : (returned v s).ledger = s.ledger := rfl
@[simp] theorem returned_tim (v : Nat) (s : State) : (returned v s).tim = s.tim := rfl
@[simp] theorem returned_inputs (v : Nat) (s : State) : (returned v s).inputs = s.inputs := rfl
@[simp] theorem returned_policers (v : Nat) (s : State) : (returned v s).policers = s.policers := rfl
@[simp] theorem returned_mni (v : Nat) (s : State) : (returned v s).mni = s.mni := rfl
@[simp] theorem returned_mediaMode (v : Nat) (s : State) : (returned v s).mediaMode = s.mediaMode := rfl
@[simp] theorem returned_sdi (v : Nat) (s : State) : (returned v s).sdi = s.sdi := rfl
@[simp] theorem returned_outputs (v : Nat) (s : State) : (returned v s).outputs = s.outputs := rfl
@[simp] theorem returned_tmg (v : Nat) (s : State) : (returned v s).tmg = s.tmg := rfl
@[simp] theorem returned_chans (v : Nat) (s : State) : (returned v s).chans = s.chans := rfl
@[simp] theorem returned_pix (v : Nat) (s : State) : (returned v s).pix = s.pix := rfl
@[simp] theorem returned_mon (v : Nat) (s : State) : (returned v s).mon = s.mon := rfl
@[simp] theorem returned_tsk (v : Nat) (s : State) : (returned v s).tsk = s.tsk := rfl
@[simp] theorem returned_pipes (v : Nat) (s : State) : (returned v s).pipes = s.pipes := rfl
@[simp] theorem returned_mem (v : Nat) (s : State) : (returned v s).mem = s.mem := rfl
@[simp] theorem returned_fab (v : Nat) (s : State) : (returned v s).fab = s.fab := rfl
@[simp] theorem returned_prt (v : Nat) (s : State) : (returned v s).prt = s.prt := rfl
@[simp] theorem returned_aud (v : Nat) (s : State) : (returned v s).aud = s.aud := rfl
@[simp] theorem returned_flt (v : Nat) (s : State) : (returned v s).flt = s.flt := rfl
@[simp] theorem returned_hlth (v : Nat) (s : State) : (returned v s).hlth = s.hlth := rfl
@[simp] theorem returned_pwr (v : Nat) (s : State) : (returned v s).pwr = s.pwr := rfl
@[simp] theorem returned_gpio (v : Nat) (s : State) : (returned v s).gpio = s.gpio := rfl
@[simp] theorem returned_hif (v : Nat) (s : State) : (returned v s).hif = s.hif := rfl

@[simp] theorem aborted_pending (s : State) : (aborted s).pending = s.pending := rfl
@[simp] theorem aborted_free (s : State) : (aborted s).free = s.free := rfl
@[simp] theorem aborted_fuses (s : State) : (aborted s).fuses = s.fuses := rfl
@[simp] theorem aborted_modes (s : State) : (aborted s).modes = s.modes := rfl
@[simp] theorem aborted_ctl (s : State) : (aborted s).ctl = s.ctl := rfl
@[simp] theorem aborted_flash (s : State) : (aborted s).flash = s.flash := rfl
@[simp] theorem aborted_mbx (s : State) : (aborted s).mbx = s.mbx := rfl
@[simp] theorem aborted_evt (s : State) : (aborted s).evt = s.evt := rfl
@[simp] theorem aborted_ledger (s : State) : (aborted s).ledger = s.ledger := rfl
@[simp] theorem aborted_tim (s : State) : (aborted s).tim = s.tim := rfl
@[simp] theorem aborted_inputs (s : State) : (aborted s).inputs = s.inputs := rfl
@[simp] theorem aborted_policers (s : State) : (aborted s).policers = s.policers := rfl
@[simp] theorem aborted_mni (s : State) : (aborted s).mni = s.mni := rfl
@[simp] theorem aborted_mediaMode (s : State) : (aborted s).mediaMode = s.mediaMode := rfl
@[simp] theorem aborted_sdi (s : State) : (aborted s).sdi = s.sdi := rfl
@[simp] theorem aborted_outputs (s : State) : (aborted s).outputs = s.outputs := rfl
@[simp] theorem aborted_tmg (s : State) : (aborted s).tmg = s.tmg := rfl
@[simp] theorem aborted_chans (s : State) : (aborted s).chans = s.chans := rfl
@[simp] theorem aborted_pix (s : State) : (aborted s).pix = s.pix := rfl
@[simp] theorem aborted_mon (s : State) : (aborted s).mon = s.mon := rfl
@[simp] theorem aborted_tsk (s : State) : (aborted s).tsk = s.tsk := rfl
@[simp] theorem aborted_pipes (s : State) : (aborted s).pipes = s.pipes := rfl
@[simp] theorem aborted_mem (s : State) : (aborted s).mem = s.mem := rfl
@[simp] theorem aborted_fab (s : State) : (aborted s).fab = s.fab := rfl
@[simp] theorem aborted_prt (s : State) : (aborted s).prt = s.prt := rfl
@[simp] theorem aborted_aud (s : State) : (aborted s).aud = s.aud := rfl
@[simp] theorem aborted_flt (s : State) : (aborted s).flt = s.flt := rfl
@[simp] theorem aborted_hlth (s : State) : (aborted s).hlth = s.hlth := rfl
@[simp] theorem aborted_pwr (s : State) : (aborted s).pwr = s.pwr := rfl
@[simp] theorem aborted_gpio (s : State) : (aborted s).gpio = s.gpio := rfl
@[simp] theorem aborted_hif (s : State) : (aborted s).hif = s.hif := rfl

@[simp] theorem answer_pending (op : Nat) (r : Req) (st d : Nat) (ts : List Tlv) (more : Bool) (s : State) : (answer op r st d ts more s).pending = s.pending := rfl
@[simp] theorem answer_free (op : Nat) (r : Req) (st d : Nat) (ts : List Tlv) (more : Bool) (s : State) : (answer op r st d ts more s).free = s.free := rfl
@[simp] theorem answer_last (op : Nat) (r : Req) (st d : Nat) (ts : List Tlv) (more : Bool) (s : State) : (answer op r st d ts more s).last = s.last := rfl
@[simp] theorem answer_fuses (op : Nat) (r : Req) (st d : Nat) (ts : List Tlv) (more : Bool) (s : State) : (answer op r st d ts more s).fuses = s.fuses := rfl
@[simp] theorem answer_modes (op : Nat) (r : Req) (st d : Nat) (ts : List Tlv) (more : Bool) (s : State) : (answer op r st d ts more s).modes = s.modes := rfl
@[simp] theorem answer_ctl (op : Nat) (r : Req) (st d : Nat) (ts : List Tlv) (more : Bool) (s : State) : (answer op r st d ts more s).ctl = s.ctl := rfl
@[simp] theorem answer_flash (op : Nat) (r : Req) (st d : Nat) (ts : List Tlv) (more : Bool) (s : State) : (answer op r st d ts more s).flash = s.flash := rfl
@[simp] theorem answer_evt (op : Nat) (r : Req) (st d : Nat) (ts : List Tlv) (more : Bool) (s : State) : (answer op r st d ts more s).evt = s.evt := rfl
@[simp] theorem answer_ledger (op : Nat) (r : Req) (st d : Nat) (ts : List Tlv) (more : Bool) (s : State) : (answer op r st d ts more s).ledger = s.ledger := rfl
@[simp] theorem answer_tim (op : Nat) (r : Req) (st d : Nat) (ts : List Tlv) (more : Bool) (s : State) : (answer op r st d ts more s).tim = s.tim := rfl
@[simp] theorem answer_inputs (op : Nat) (r : Req) (st d : Nat) (ts : List Tlv) (more : Bool) (s : State) : (answer op r st d ts more s).inputs = s.inputs := rfl
@[simp] theorem answer_policers (op : Nat) (r : Req) (st d : Nat) (ts : List Tlv) (more : Bool) (s : State) : (answer op r st d ts more s).policers = s.policers := rfl
@[simp] theorem answer_mni (op : Nat) (r : Req) (st d : Nat) (ts : List Tlv) (more : Bool) (s : State) : (answer op r st d ts more s).mni = s.mni := rfl
@[simp] theorem answer_mediaMode (op : Nat) (r : Req) (st d : Nat) (ts : List Tlv) (more : Bool) (s : State) : (answer op r st d ts more s).mediaMode = s.mediaMode := rfl
@[simp] theorem answer_sdi (op : Nat) (r : Req) (st d : Nat) (ts : List Tlv) (more : Bool) (s : State) : (answer op r st d ts more s).sdi = s.sdi := rfl
@[simp] theorem answer_outputs (op : Nat) (r : Req) (st d : Nat) (ts : List Tlv) (more : Bool) (s : State) : (answer op r st d ts more s).outputs = s.outputs := rfl
@[simp] theorem answer_tmg (op : Nat) (r : Req) (st d : Nat) (ts : List Tlv) (more : Bool) (s : State) : (answer op r st d ts more s).tmg = s.tmg := rfl
@[simp] theorem answer_chans (op : Nat) (r : Req) (st d : Nat) (ts : List Tlv) (more : Bool) (s : State) : (answer op r st d ts more s).chans = s.chans := rfl
@[simp] theorem answer_pix (op : Nat) (r : Req) (st d : Nat) (ts : List Tlv) (more : Bool) (s : State) : (answer op r st d ts more s).pix = s.pix := rfl
@[simp] theorem answer_mon (op : Nat) (r : Req) (st d : Nat) (ts : List Tlv) (more : Bool) (s : State) : (answer op r st d ts more s).mon = s.mon := rfl
@[simp] theorem answer_tsk (op : Nat) (r : Req) (st d : Nat) (ts : List Tlv) (more : Bool) (s : State) : (answer op r st d ts more s).tsk = s.tsk := rfl
@[simp] theorem answer_pipes (op : Nat) (r : Req) (st d : Nat) (ts : List Tlv) (more : Bool) (s : State) : (answer op r st d ts more s).pipes = s.pipes := rfl
@[simp] theorem answer_mem (op : Nat) (r : Req) (st d : Nat) (ts : List Tlv) (more : Bool) (s : State) : (answer op r st d ts more s).mem = s.mem := rfl
@[simp] theorem answer_fab (op : Nat) (r : Req) (st d : Nat) (ts : List Tlv) (more : Bool) (s : State) : (answer op r st d ts more s).fab = s.fab := rfl
@[simp] theorem answer_prt (op : Nat) (r : Req) (st d : Nat) (ts : List Tlv) (more : Bool) (s : State) : (answer op r st d ts more s).prt = s.prt := rfl
@[simp] theorem answer_aud (op : Nat) (r : Req) (st d : Nat) (ts : List Tlv) (more : Bool) (s : State) : (answer op r st d ts more s).aud = s.aud := rfl
@[simp] theorem answer_flt (op : Nat) (r : Req) (st d : Nat) (ts : List Tlv) (more : Bool) (s : State) : (answer op r st d ts more s).flt = s.flt := rfl
@[simp] theorem answer_hlth (op : Nat) (r : Req) (st d : Nat) (ts : List Tlv) (more : Bool) (s : State) : (answer op r st d ts more s).hlth = s.hlth := rfl
@[simp] theorem answer_pwr (op : Nat) (r : Req) (st d : Nat) (ts : List Tlv) (more : Bool) (s : State) : (answer op r st d ts more s).pwr = s.pwr := rfl
@[simp] theorem answer_gpio (op : Nat) (r : Req) (st d : Nat) (ts : List Tlv) (more : Bool) (s : State) : (answer op r st d ts more s).gpio = s.gpio := rfl
@[simp] theorem answer_hif (op : Nat) (r : Req) (st d : Nat) (ts : List Tlv) (more : Bool) (s : State) : (answer op r st d ts more s).hif = s.hif := rfl

@[simp] theorem stopLaunches_pending (s : State) : (stopLaunches s).pending = s.pending := rfl
@[simp] theorem stopLaunches_free (s : State) : (stopLaunches s).free = s.free := rfl
@[simp] theorem stopLaunches_last (s : State) : (stopLaunches s).last = s.last := rfl
@[simp] theorem stopLaunches_fuses (s : State) : (stopLaunches s).fuses = s.fuses := rfl
@[simp] theorem stopLaunches_modes (s : State) : (stopLaunches s).modes = s.modes := rfl
@[simp] theorem stopLaunches_ctl (s : State) : (stopLaunches s).ctl = s.ctl := rfl
@[simp] theorem stopLaunches_flash (s : State) : (stopLaunches s).flash = s.flash := rfl
@[simp] theorem stopLaunches_mbx (s : State) : (stopLaunches s).mbx = s.mbx := rfl
@[simp] theorem stopLaunches_evt (s : State) : (stopLaunches s).evt = s.evt := rfl
@[simp] theorem stopLaunches_ledger (s : State) : (stopLaunches s).ledger = s.ledger := rfl
@[simp] theorem stopLaunches_tim (s : State) : (stopLaunches s).tim = s.tim := rfl
@[simp] theorem stopLaunches_inputs (s : State) : (stopLaunches s).inputs = s.inputs := rfl
@[simp] theorem stopLaunches_policers (s : State) : (stopLaunches s).policers = s.policers := rfl
@[simp] theorem stopLaunches_mni (s : State) : (stopLaunches s).mni = s.mni := rfl
@[simp] theorem stopLaunches_mediaMode (s : State) : (stopLaunches s).mediaMode = s.mediaMode := rfl
@[simp] theorem stopLaunches_sdi (s : State) : (stopLaunches s).sdi = s.sdi := rfl
@[simp] theorem stopLaunches_outputs (s : State) : (stopLaunches s).outputs = s.outputs := rfl
@[simp] theorem stopLaunches_tmg (s : State) : (stopLaunches s).tmg = s.tmg := rfl
@[simp] theorem stopLaunches_chans (s : State) : (stopLaunches s).chans = s.chans := rfl
@[simp] theorem stopLaunches_pix (s : State) : (stopLaunches s).pix = s.pix := rfl
@[simp] theorem stopLaunches_mon (s : State) : (stopLaunches s).mon = s.mon := rfl
@[simp] theorem stopLaunches_tsk (s : State) : (stopLaunches s).tsk = s.tsk := rfl
@[simp] theorem stopLaunches_pipes (s : State) : (stopLaunches s).pipes = s.pipes := rfl
@[simp] theorem stopLaunches_mem (s : State) : (stopLaunches s).mem = s.mem := rfl
@[simp] theorem stopLaunches_fab (s : State) : (stopLaunches s).fab = s.fab := rfl
@[simp] theorem stopLaunches_aud (s : State) : (stopLaunches s).aud = s.aud := rfl
@[simp] theorem stopLaunches_flt (s : State) : (stopLaunches s).flt = s.flt := rfl
@[simp] theorem stopLaunches_hlth (s : State) : (stopLaunches s).hlth = s.hlth := rfl
@[simp] theorem stopLaunches_pwr (s : State) : (stopLaunches s).pwr = s.pwr := rfl
@[simp] theorem stopLaunches_gpio (s : State) : (stopLaunches s).gpio = s.gpio := rfl
@[simp] theorem stopLaunches_hif (s : State) : (stopLaunches s).hif = s.hif := rfl

@[simp] theorem dropPackets_pending (p : Pkt → Bool) (s : State) : (dropPackets p s).pending = s.pending := rfl
@[simp] theorem dropPackets_free (p : Pkt → Bool) (s : State) : (dropPackets p s).free = s.free := rfl
@[simp] theorem dropPackets_last (p : Pkt → Bool) (s : State) : (dropPackets p s).last = s.last := rfl
@[simp] theorem dropPackets_fuses (p : Pkt → Bool) (s : State) : (dropPackets p s).fuses = s.fuses := rfl
@[simp] theorem dropPackets_modes (p : Pkt → Bool) (s : State) : (dropPackets p s).modes = s.modes := rfl
@[simp] theorem dropPackets_ctl (p : Pkt → Bool) (s : State) : (dropPackets p s).ctl = s.ctl := rfl
@[simp] theorem dropPackets_flash (p : Pkt → Bool) (s : State) : (dropPackets p s).flash = s.flash := rfl
@[simp] theorem dropPackets_mbx (p : Pkt → Bool) (s : State) : (dropPackets p s).mbx = s.mbx := rfl
@[simp] theorem dropPackets_evt (p : Pkt → Bool) (s : State) : (dropPackets p s).evt = s.evt := rfl
@[simp] theorem dropPackets_ledger (p : Pkt → Bool) (s : State) : (dropPackets p s).ledger = s.ledger := rfl
@[simp] theorem dropPackets_tim (p : Pkt → Bool) (s : State) : (dropPackets p s).tim = s.tim := rfl
@[simp] theorem dropPackets_inputs (p : Pkt → Bool) (s : State) : (dropPackets p s).inputs = s.inputs := rfl
@[simp] theorem dropPackets_policers (p : Pkt → Bool) (s : State) : (dropPackets p s).policers = s.policers := rfl
@[simp] theorem dropPackets_mni (p : Pkt → Bool) (s : State) : (dropPackets p s).mni = s.mni := rfl
@[simp] theorem dropPackets_mediaMode (p : Pkt → Bool) (s : State) : (dropPackets p s).mediaMode = s.mediaMode := rfl
@[simp] theorem dropPackets_sdi (p : Pkt → Bool) (s : State) : (dropPackets p s).sdi = s.sdi := rfl
@[simp] theorem dropPackets_outputs (p : Pkt → Bool) (s : State) : (dropPackets p s).outputs = s.outputs := rfl
@[simp] theorem dropPackets_chans (p : Pkt → Bool) (s : State) : (dropPackets p s).chans = s.chans := rfl
@[simp] theorem dropPackets_pix (p : Pkt → Bool) (s : State) : (dropPackets p s).pix = s.pix := rfl
@[simp] theorem dropPackets_mon (p : Pkt → Bool) (s : State) : (dropPackets p s).mon = s.mon := rfl
@[simp] theorem dropPackets_tsk (p : Pkt → Bool) (s : State) : (dropPackets p s).tsk = s.tsk := rfl
@[simp] theorem dropPackets_pipes (p : Pkt → Bool) (s : State) : (dropPackets p s).pipes = s.pipes := rfl
@[simp] theorem dropPackets_mem (p : Pkt → Bool) (s : State) : (dropPackets p s).mem = s.mem := rfl
@[simp] theorem dropPackets_fab (p : Pkt → Bool) (s : State) : (dropPackets p s).fab = s.fab := rfl
@[simp] theorem dropPackets_prt (p : Pkt → Bool) (s : State) : (dropPackets p s).prt = s.prt := rfl
@[simp] theorem dropPackets_aud (p : Pkt → Bool) (s : State) : (dropPackets p s).aud = s.aud := rfl
@[simp] theorem dropPackets_flt (p : Pkt → Bool) (s : State) : (dropPackets p s).flt = s.flt := rfl
@[simp] theorem dropPackets_hlth (p : Pkt → Bool) (s : State) : (dropPackets p s).hlth = s.hlth := rfl
@[simp] theorem dropPackets_pwr (p : Pkt → Bool) (s : State) : (dropPackets p s).pwr = s.pwr := rfl
@[simp] theorem dropPackets_gpio (p : Pkt → Bool) (s : State) : (dropPackets p s).gpio = s.gpio := rfl
@[simp] theorem dropPackets_hif (p : Pkt → Bool) (s : State) : (dropPackets p s).hif = s.hif := rfl

@[simp] theorem pushPkt_pending (n : Nat) (p : Pkt) (s : State) : (pushPkt n p s).pending = s.pending := rfl
@[simp] theorem pushPkt_free (n : Nat) (p : Pkt) (s : State) : (pushPkt n p s).free = s.free := rfl
@[simp] theorem pushPkt_last (n : Nat) (p : Pkt) (s : State) : (pushPkt n p s).last = s.last := rfl
@[simp] theorem pushPkt_fuses (n : Nat) (p : Pkt) (s : State) : (pushPkt n p s).fuses = s.fuses := rfl
@[simp] theorem pushPkt_modes (n : Nat) (p : Pkt) (s : State) : (pushPkt n p s).modes = s.modes := rfl
@[simp] theorem pushPkt_ctl (n : Nat) (p : Pkt) (s : State) : (pushPkt n p s).ctl = s.ctl := rfl
@[simp] theorem pushPkt_flash (n : Nat) (p : Pkt) (s : State) : (pushPkt n p s).flash = s.flash := rfl
@[simp] theorem pushPkt_mbx (n : Nat) (p : Pkt) (s : State) : (pushPkt n p s).mbx = s.mbx := rfl
@[simp] theorem pushPkt_evt (n : Nat) (p : Pkt) (s : State) : (pushPkt n p s).evt = s.evt := rfl
@[simp] theorem pushPkt_ledger (n : Nat) (p : Pkt) (s : State) : (pushPkt n p s).ledger = s.ledger := rfl
@[simp] theorem pushPkt_tim (n : Nat) (p : Pkt) (s : State) : (pushPkt n p s).tim = s.tim := rfl
@[simp] theorem pushPkt_inputs (n : Nat) (p : Pkt) (s : State) : (pushPkt n p s).inputs = s.inputs := rfl
@[simp] theorem pushPkt_policers (n : Nat) (p : Pkt) (s : State) : (pushPkt n p s).policers = s.policers := rfl
@[simp] theorem pushPkt_mni (n : Nat) (p : Pkt) (s : State) : (pushPkt n p s).mni = s.mni := rfl
@[simp] theorem pushPkt_mediaMode (n : Nat) (p : Pkt) (s : State) : (pushPkt n p s).mediaMode = s.mediaMode := rfl
@[simp] theorem pushPkt_sdi (n : Nat) (p : Pkt) (s : State) : (pushPkt n p s).sdi = s.sdi := rfl
@[simp] theorem pushPkt_outputs (n : Nat) (p : Pkt) (s : State) : (pushPkt n p s).outputs = s.outputs := rfl
@[simp] theorem pushPkt_chans (n : Nat) (p : Pkt) (s : State) : (pushPkt n p s).chans = s.chans := rfl
@[simp] theorem pushPkt_pix (n : Nat) (p : Pkt) (s : State) : (pushPkt n p s).pix = s.pix := rfl
@[simp] theorem pushPkt_mon (n : Nat) (p : Pkt) (s : State) : (pushPkt n p s).mon = s.mon := rfl
@[simp] theorem pushPkt_tsk (n : Nat) (p : Pkt) (s : State) : (pushPkt n p s).tsk = s.tsk := rfl
@[simp] theorem pushPkt_pipes (n : Nat) (p : Pkt) (s : State) : (pushPkt n p s).pipes = s.pipes := rfl
@[simp] theorem pushPkt_mem (n : Nat) (p : Pkt) (s : State) : (pushPkt n p s).mem = s.mem := rfl
@[simp] theorem pushPkt_fab (n : Nat) (p : Pkt) (s : State) : (pushPkt n p s).fab = s.fab := rfl
@[simp] theorem pushPkt_prt (n : Nat) (p : Pkt) (s : State) : (pushPkt n p s).prt = s.prt := rfl
@[simp] theorem pushPkt_aud (n : Nat) (p : Pkt) (s : State) : (pushPkt n p s).aud = s.aud := rfl
@[simp] theorem pushPkt_flt (n : Nat) (p : Pkt) (s : State) : (pushPkt n p s).flt = s.flt := rfl
@[simp] theorem pushPkt_hlth (n : Nat) (p : Pkt) (s : State) : (pushPkt n p s).hlth = s.hlth := rfl
@[simp] theorem pushPkt_pwr (n : Nat) (p : Pkt) (s : State) : (pushPkt n p s).pwr = s.pwr := rfl
@[simp] theorem pushPkt_gpio (n : Nat) (p : Pkt) (s : State) : (pushPkt n p s).gpio = s.gpio := rfl
@[simp] theorem pushPkt_hif (n : Nat) (p : Pkt) (s : State) : (pushPkt n p s).hif = s.hif := rfl

@[simp] theorem raiseAt_pending (t code ch : Nat) (d : List Nat) (s : State) : (raiseAt t code ch d s).pending = s.pending := by simp only [raiseAt]; split <;> rfl
@[simp] theorem raiseAt_free (t code ch : Nat) (d : List Nat) (s : State) : (raiseAt t code ch d s).free = s.free := by simp only [raiseAt]; split <;> rfl
@[simp] theorem raiseAt_last (t code ch : Nat) (d : List Nat) (s : State) : (raiseAt t code ch d s).last = s.last := by simp only [raiseAt]; split <;> rfl
@[simp] theorem raiseAt_fuses (t code ch : Nat) (d : List Nat) (s : State) : (raiseAt t code ch d s).fuses = s.fuses := by simp only [raiseAt]; split <;> rfl
@[simp] theorem raiseAt_modes (t code ch : Nat) (d : List Nat) (s : State) : (raiseAt t code ch d s).modes = s.modes := by simp only [raiseAt]; split <;> rfl
@[simp] theorem raiseAt_ctl (t code ch : Nat) (d : List Nat) (s : State) : (raiseAt t code ch d s).ctl = s.ctl := by simp only [raiseAt]; split <;> rfl
@[simp] theorem raiseAt_flash (t code ch : Nat) (d : List Nat) (s : State) : (raiseAt t code ch d s).flash = s.flash := by simp only [raiseAt]; split <;> rfl
@[simp] theorem raiseAt_mbx (t code ch : Nat) (d : List Nat) (s : State) : (raiseAt t code ch d s).mbx = s.mbx := by simp only [raiseAt]; split <;> rfl
@[simp] theorem raiseAt_ledger (t code ch : Nat) (d : List Nat) (s : State) : (raiseAt t code ch d s).ledger = s.ledger := by simp only [raiseAt]; split <;> rfl
@[simp] theorem raiseAt_tim (t code ch : Nat) (d : List Nat) (s : State) : (raiseAt t code ch d s).tim = s.tim := by simp only [raiseAt]; split <;> rfl
@[simp] theorem raiseAt_inputs (t code ch : Nat) (d : List Nat) (s : State) : (raiseAt t code ch d s).inputs = s.inputs := by simp only [raiseAt]; split <;> rfl
@[simp] theorem raiseAt_policers (t code ch : Nat) (d : List Nat) (s : State) : (raiseAt t code ch d s).policers = s.policers := by simp only [raiseAt]; split <;> rfl
@[simp] theorem raiseAt_mni (t code ch : Nat) (d : List Nat) (s : State) : (raiseAt t code ch d s).mni = s.mni := by simp only [raiseAt]; split <;> rfl
@[simp] theorem raiseAt_mediaMode (t code ch : Nat) (d : List Nat) (s : State) : (raiseAt t code ch d s).mediaMode = s.mediaMode := by simp only [raiseAt]; split <;> rfl
@[simp] theorem raiseAt_sdi (t code ch : Nat) (d : List Nat) (s : State) : (raiseAt t code ch d s).sdi = s.sdi := by simp only [raiseAt]; split <;> rfl
@[simp] theorem raiseAt_outputs (t code ch : Nat) (d : List Nat) (s : State) : (raiseAt t code ch d s).outputs = s.outputs := by simp only [raiseAt]; split <;> rfl
@[simp] theorem raiseAt_tmg (t code ch : Nat) (d : List Nat) (s : State) : (raiseAt t code ch d s).tmg = s.tmg := by simp only [raiseAt]; split <;> rfl
@[simp] theorem raiseAt_chans (t code ch : Nat) (d : List Nat) (s : State) : (raiseAt t code ch d s).chans = s.chans := by simp only [raiseAt]; split <;> rfl
@[simp] theorem raiseAt_pix (t code ch : Nat) (d : List Nat) (s : State) : (raiseAt t code ch d s).pix = s.pix := by simp only [raiseAt]; split <;> rfl
@[simp] theorem raiseAt_mon (t code ch : Nat) (d : List Nat) (s : State) : (raiseAt t code ch d s).mon = s.mon := by simp only [raiseAt]; split <;> rfl
@[simp] theorem raiseAt_tsk (t code ch : Nat) (d : List Nat) (s : State) : (raiseAt t code ch d s).tsk = s.tsk := by simp only [raiseAt]; split <;> rfl
@[simp] theorem raiseAt_pipes (t code ch : Nat) (d : List Nat) (s : State) : (raiseAt t code ch d s).pipes = s.pipes := by simp only [raiseAt]; split <;> rfl
@[simp] theorem raiseAt_mem (t code ch : Nat) (d : List Nat) (s : State) : (raiseAt t code ch d s).mem = s.mem := by simp only [raiseAt]; split <;> rfl
@[simp] theorem raiseAt_fab (t code ch : Nat) (d : List Nat) (s : State) : (raiseAt t code ch d s).fab = s.fab := by simp only [raiseAt]; split <;> rfl
@[simp] theorem raiseAt_prt (t code ch : Nat) (d : List Nat) (s : State) : (raiseAt t code ch d s).prt = s.prt := by simp only [raiseAt]; split <;> rfl
@[simp] theorem raiseAt_aud (t code ch : Nat) (d : List Nat) (s : State) : (raiseAt t code ch d s).aud = s.aud := by simp only [raiseAt]; split <;> rfl
@[simp] theorem raiseAt_flt (t code ch : Nat) (d : List Nat) (s : State) : (raiseAt t code ch d s).flt = s.flt := by simp only [raiseAt]; split <;> rfl
@[simp] theorem raiseAt_hlth (t code ch : Nat) (d : List Nat) (s : State) : (raiseAt t code ch d s).hlth = s.hlth := by simp only [raiseAt]; split <;> rfl
@[simp] theorem raiseAt_pwr (t code ch : Nat) (d : List Nat) (s : State) : (raiseAt t code ch d s).pwr = s.pwr := by simp only [raiseAt]; split <;> rfl
@[simp] theorem raiseAt_gpio (t code ch : Nat) (d : List Nat) (s : State) : (raiseAt t code ch d s).gpio = s.gpio := by simp only [raiseAt]; split <;> rfl
@[simp] theorem raiseAt_hif (t code ch : Nat) (d : List Nat) (s : State) : (raiseAt t code ch d s).hif = s.hif := by simp only [raiseAt]; split <;> rfl

@[simp] theorem raise_pending (code ch : Nat) (d : List Nat) (s : State) : (raise code ch d s).pending = s.pending := raiseAt_pending _ _ _ _ s
@[simp] theorem raise_free (code ch : Nat) (d : List Nat) (s : State) : (raise code ch d s).free = s.free := raiseAt_free _ _ _ _ s
@[simp] theorem raise_last (code ch : Nat) (d : List Nat) (s : State) : (raise code ch d s).last = s.last := raiseAt_last _ _ _ _ s
@[simp] theorem raise_fuses (code ch : Nat) (d : List Nat) (s : State) : (raise code ch d s).fuses = s.fuses := raiseAt_fuses _ _ _ _ s
@[simp] theorem raise_modes (code ch : Nat) (d : List Nat) (s : State) : (raise code ch d s).modes = s.modes := raiseAt_modes _ _ _ _ s
@[simp] theorem raise_ctl (code ch : Nat) (d : List Nat) (s : State) : (raise code ch d s).ctl = s.ctl := raiseAt_ctl _ _ _ _ s
@[simp] theorem raise_flash (code ch : Nat) (d : List Nat) (s : State) : (raise code ch d s).flash = s.flash := raiseAt_flash _ _ _ _ s
@[simp] theorem raise_mbx (code ch : Nat) (d : List Nat) (s : State) : (raise code ch d s).mbx = s.mbx := raiseAt_mbx _ _ _ _ s
@[simp] theorem raise_ledger (code ch : Nat) (d : List Nat) (s : State) : (raise code ch d s).ledger = s.ledger := raiseAt_ledger _ _ _ _ s
@[simp] theorem raise_tim (code ch : Nat) (d : List Nat) (s : State) : (raise code ch d s).tim = s.tim := raiseAt_tim _ _ _ _ s
@[simp] theorem raise_inputs (code ch : Nat) (d : List Nat) (s : State) : (raise code ch d s).inputs = s.inputs := raiseAt_inputs _ _ _ _ s
@[simp] theorem raise_policers (code ch : Nat) (d : List Nat) (s : State) : (raise code ch d s).policers = s.policers := raiseAt_policers _ _ _ _ s
@[simp] theorem raise_mni (code ch : Nat) (d : List Nat) (s : State) : (raise code ch d s).mni = s.mni := raiseAt_mni _ _ _ _ s
@[simp] theorem raise_mediaMode (code ch : Nat) (d : List Nat) (s : State) : (raise code ch d s).mediaMode = s.mediaMode := raiseAt_mediaMode _ _ _ _ s
@[simp] theorem raise_sdi (code ch : Nat) (d : List Nat) (s : State) : (raise code ch d s).sdi = s.sdi := raiseAt_sdi _ _ _ _ s
@[simp] theorem raise_outputs (code ch : Nat) (d : List Nat) (s : State) : (raise code ch d s).outputs = s.outputs := raiseAt_outputs _ _ _ _ s
@[simp] theorem raise_tmg (code ch : Nat) (d : List Nat) (s : State) : (raise code ch d s).tmg = s.tmg := raiseAt_tmg _ _ _ _ s
@[simp] theorem raise_chans (code ch : Nat) (d : List Nat) (s : State) : (raise code ch d s).chans = s.chans := raiseAt_chans _ _ _ _ s
@[simp] theorem raise_pix (code ch : Nat) (d : List Nat) (s : State) : (raise code ch d s).pix = s.pix := raiseAt_pix _ _ _ _ s
@[simp] theorem raise_mon (code ch : Nat) (d : List Nat) (s : State) : (raise code ch d s).mon = s.mon := raiseAt_mon _ _ _ _ s
@[simp] theorem raise_tsk (code ch : Nat) (d : List Nat) (s : State) : (raise code ch d s).tsk = s.tsk := raiseAt_tsk _ _ _ _ s
@[simp] theorem raise_pipes (code ch : Nat) (d : List Nat) (s : State) : (raise code ch d s).pipes = s.pipes := raiseAt_pipes _ _ _ _ s
@[simp] theorem raise_mem (code ch : Nat) (d : List Nat) (s : State) : (raise code ch d s).mem = s.mem := raiseAt_mem _ _ _ _ s
@[simp] theorem raise_fab (code ch : Nat) (d : List Nat) (s : State) : (raise code ch d s).fab = s.fab := raiseAt_fab _ _ _ _ s
@[simp] theorem raise_prt (code ch : Nat) (d : List Nat) (s : State) : (raise code ch d s).prt = s.prt := raiseAt_prt _ _ _ _ s
@[simp] theorem raise_aud (code ch : Nat) (d : List Nat) (s : State) : (raise code ch d s).aud = s.aud := raiseAt_aud _ _ _ _ s
@[simp] theorem raise_flt (code ch : Nat) (d : List Nat) (s : State) : (raise code ch d s).flt = s.flt := raiseAt_flt _ _ _ _ s
@[simp] theorem raise_hlth (code ch : Nat) (d : List Nat) (s : State) : (raise code ch d s).hlth = s.hlth := raiseAt_hlth _ _ _ _ s
@[simp] theorem raise_pwr (code ch : Nat) (d : List Nat) (s : State) : (raise code ch d s).pwr = s.pwr := raiseAt_pwr _ _ _ _ s
@[simp] theorem raise_gpio (code ch : Nat) (d : List Nat) (s : State) : (raise code ch d s).gpio = s.gpio := raiseAt_gpio _ _ _ _ s
@[simp] theorem raise_hif (code ch : Nat) (d : List Nat) (s : State) : (raise code ch d s).hif = s.hif := raiseAt_hif _ _ _ _ s

@[simp] theorem raiseIf_pending (b : Bool) (code ch : Nat) (d : List Nat) (s : State) : (raiseIf b code ch d s).pending = s.pending := by unfold raiseIf; split <;> simp
@[simp] theorem raiseIf_free (b : Bool) (code ch : Nat) (d : List Nat) (s : State) : (raiseIf b code ch d s).free = s.free := by unfold raiseIf; split <;> simp
@[simp] theorem raiseIf_last (b : Bool) (code ch : Nat) (d : List Nat) (s : State) : (raiseIf b code ch d s).last = s.last := by unfold raiseIf; split <;> simp
@[simp] theorem raiseIf_fuses (b : Bool) (code ch : Nat) (d : List Nat) (s : State) : (raiseIf b code ch d s).fuses = s.fuses := by unfold raiseIf; split <;> simp
@[simp] theorem raiseIf_modes (b : Bool) (code ch : Nat) (d : List Nat) (s : State) : (raiseIf b code ch d s).modes = s.modes := by unfold raiseIf; split <;> simp
@[simp] theorem raiseIf_ctl (b : Bool) (code ch : Nat) (d : List Nat) (s : State) : (raiseIf b code ch d s).ctl = s.ctl := by unfold raiseIf; split <;> simp
@[simp] theorem raiseIf_flash (b : Bool) (code ch : Nat) (d : List Nat) (s : State) : (raiseIf b code ch d s).flash = s.flash := by unfold raiseIf; split <;> simp
@[simp] theorem raiseIf_mbx (b : Bool) (code ch : Nat) (d : List Nat) (s : State) : (raiseIf b code ch d s).mbx = s.mbx := by unfold raiseIf; split <;> simp
@[simp] theorem raiseIf_ledger (b : Bool) (code ch : Nat) (d : List Nat) (s : State) : (raiseIf b code ch d s).ledger = s.ledger := by unfold raiseIf; split <;> simp
@[simp] theorem raiseIf_tim (b : Bool) (code ch : Nat) (d : List Nat) (s : State) : (raiseIf b code ch d s).tim = s.tim := by unfold raiseIf; split <;> simp
@[simp] theorem raiseIf_inputs (b : Bool) (code ch : Nat) (d : List Nat) (s : State) : (raiseIf b code ch d s).inputs = s.inputs := by unfold raiseIf; split <;> simp
@[simp] theorem raiseIf_policers (b : Bool) (code ch : Nat) (d : List Nat) (s : State) : (raiseIf b code ch d s).policers = s.policers := by unfold raiseIf; split <;> simp
@[simp] theorem raiseIf_mni (b : Bool) (code ch : Nat) (d : List Nat) (s : State) : (raiseIf b code ch d s).mni = s.mni := by unfold raiseIf; split <;> simp
@[simp] theorem raiseIf_mediaMode (b : Bool) (code ch : Nat) (d : List Nat) (s : State) : (raiseIf b code ch d s).mediaMode = s.mediaMode := by unfold raiseIf; split <;> simp
@[simp] theorem raiseIf_sdi (b : Bool) (code ch : Nat) (d : List Nat) (s : State) : (raiseIf b code ch d s).sdi = s.sdi := by unfold raiseIf; split <;> simp
@[simp] theorem raiseIf_outputs (b : Bool) (code ch : Nat) (d : List Nat) (s : State) : (raiseIf b code ch d s).outputs = s.outputs := by unfold raiseIf; split <;> simp
@[simp] theorem raiseIf_tmg (b : Bool) (code ch : Nat) (d : List Nat) (s : State) : (raiseIf b code ch d s).tmg = s.tmg := by unfold raiseIf; split <;> simp
@[simp] theorem raiseIf_chans (b : Bool) (code ch : Nat) (d : List Nat) (s : State) : (raiseIf b code ch d s).chans = s.chans := by unfold raiseIf; split <;> simp
@[simp] theorem raiseIf_pix (b : Bool) (code ch : Nat) (d : List Nat) (s : State) : (raiseIf b code ch d s).pix = s.pix := by unfold raiseIf; split <;> simp
@[simp] theorem raiseIf_mon (b : Bool) (code ch : Nat) (d : List Nat) (s : State) : (raiseIf b code ch d s).mon = s.mon := by unfold raiseIf; split <;> simp
@[simp] theorem raiseIf_tsk (b : Bool) (code ch : Nat) (d : List Nat) (s : State) : (raiseIf b code ch d s).tsk = s.tsk := by unfold raiseIf; split <;> simp
@[simp] theorem raiseIf_pipes (b : Bool) (code ch : Nat) (d : List Nat) (s : State) : (raiseIf b code ch d s).pipes = s.pipes := by unfold raiseIf; split <;> simp
@[simp] theorem raiseIf_mem (b : Bool) (code ch : Nat) (d : List Nat) (s : State) : (raiseIf b code ch d s).mem = s.mem := by unfold raiseIf; split <;> simp
@[simp] theorem raiseIf_fab (b : Bool) (code ch : Nat) (d : List Nat) (s : State) : (raiseIf b code ch d s).fab = s.fab := by unfold raiseIf; split <;> simp
@[simp] theorem raiseIf_prt (b : Bool) (code ch : Nat) (d : List Nat) (s : State) : (raiseIf b code ch d s).prt = s.prt := by unfold raiseIf; split <;> simp
@[simp] theorem raiseIf_aud (b : Bool) (code ch : Nat) (d : List Nat) (s : State) : (raiseIf b code ch d s).aud = s.aud := by unfold raiseIf; split <;> simp
@[simp] theorem raiseIf_flt (b : Bool) (code ch : Nat) (d : List Nat) (s : State) : (raiseIf b code ch d s).flt = s.flt := by unfold raiseIf; split <;> simp
@[simp] theorem raiseIf_hlth (b : Bool) (code ch : Nat) (d : List Nat) (s : State) : (raiseIf b code ch d s).hlth = s.hlth := by unfold raiseIf; split <;> simp
@[simp] theorem raiseIf_pwr (b : Bool) (code ch : Nat) (d : List Nat) (s : State) : (raiseIf b code ch d s).pwr = s.pwr := by unfold raiseIf; split <;> simp
@[simp] theorem raiseIf_gpio (b : Bool) (code ch : Nat) (d : List Nat) (s : State) : (raiseIf b code ch d s).gpio = s.gpio := by unfold raiseIf; split <;> simp
@[simp] theorem raiseIf_hif (b : Bool) (code ch : Nat) (d : List Nat) (s : State) : (raiseIf b code ch d s).hif = s.hif := by unfold raiseIf; split <;> simp

end Sys2Proof.Machine
end

