-- ==== Sys2Proof/Laws/Ops.lean ====
section
/-! SUPPORT. Laws/Ops.lean: what the shared operations over tables, memories, events, requests and the bus do,
one law each. -/

namespace Sys2Proof.Machine

/-! ### Tables -/

theorem tabGet?_tabSet_self {α : Type} (t : Tab α) (k : Nat) (a : α) : tabGet? (tabSet t k a) k = some a := by
  induction t with
  | nil => simp [tabSet, tabGet?]
  | cons e t ih =>
    obtain ⟨i, b⟩ := e
    simp only [tabSet]
    split
    · simp [tabGet?]
    · split
      · simp [tabGet?]
      · simp [tabGet?, ih, show i ≠ k by omega]

theorem tabGet?_tabSet_ne {α : Type} (t : Tab α) {k j : Nat} (a : α) (h : j ≠ k) :
    tabGet? (tabSet t k a) j = tabGet? t j := by
  induction t with
  | nil => simp [tabSet, tabGet?, Ne.symm h]
  | cons e t ih =>
    obtain ⟨i, b⟩ := e
    simp only [tabSet]
    split
    · simp [tabGet?, Ne.symm h]
    · split
      · subst k; simp [tabGet?, Ne.symm h]
      · simp only [tabGet?, ih]

@[simp] theorem tabGet_tabSet_self {α : Type} (d : α) (t : Tab α) (k : Nat) (a : α) :
    tabGet d (tabSet t k a) k = a := by
  simp [tabGet, tabGet?_tabSet_self]

theorem tabGet_tabSet_ne {α : Type} (d : α) (t : Tab α) {k j : Nat} (a : α) (h : j ≠ k) :
    tabGet d (tabSet t k a) j = tabGet d t j := by
  simp [tabGet, tabGet?_tabSet_ne t a h]

@[simp] theorem chan_setChan_self (h : Nat) (c : Chan) (s : State) : chan (setChan h c s) h = c := by
  simp [chan, setChan]

theorem chan_setChan_ne {h k : Nat} (c : Chan) (s : State) (n : k ≠ h) : chan (setChan h c s) k = chan s k := by
  simp [chan, setChan, tabGet_tabSet_ne _ _ _ n]

@[simp] theorem slotOf_setSlot_self (n : Nat) (x : Slot) (s : State) : slotOf (setSlot n x s) n = x := by
  simp [slotOf, setSlot]

theorem slotOf_setSlot_ne {n k : Nat} (x : Slot) (s : State) (h : k ≠ n) : slotOf (setSlot n x s) k = slotOf s k := by
  simp [slotOf, setSlot, tabGet_tabSet_ne _ _ _ h]

/-! ### Byte memories -/

theorem memRead_memWrite_ne (m : Mem) {a j : Nat} (b : Byte) (h : j ≠ a) :
    memRead (memWrite m a b) j = memRead m j := by
  induction m with
  | nil => simp only [memWrite]; split <;> simp [memRead, Ne.symm h]
  | cons e t ih =>
    obtain ⟨i, c⟩ := e
    simp only [memWrite]
    split
    · split <;> simp [memRead, Ne.symm h]
    · split
      · subst a; split <;> simp [memRead, Ne.symm h]
      · simp only [memRead, ih]

/-- Below the first entry of a canonical memory every byte is the default. -/
theorem memRead_below {lo : Nat} {m : Mem} (h : memWfFrom lo m = true) {a : Nat} (ha : a < lo) :
    memRead m a = memDefault := by
  induction m generalizing lo with
  | nil => rfl
  | cons e t ih =>
    obtain ⟨i, b⟩ := e
    simp only [memWfFrom, Bool.and_eq_true, decide_eq_true_eq] at h
    simp only [memRead, show i ≠ a by omega, if_false]
    exact ih h.2 (by omega)

theorem memRead_memWrite_from {lo : Nat} {m : Mem} (h : memWfFrom lo m = true) (a : Nat) (b : Byte) :
    memRead (memWrite m a b) a = b := by
  induction m generalizing lo with
  | nil => simp only [memWrite]; split <;> simp_all [memRead]
  | cons e t ih =>
    obtain ⟨i, c⟩ := e
    simp only [memWfFrom, Bool.and_eq_true, decide_eq_true_eq] at h
    simp only [memWrite]
    split
    · split
      · subst b
        simp only [memRead, show i ≠ a by omega, if_false]
        exact memRead_below h.2 (by omega)
      · simp [memRead]
    · split
      · subst a
        split
        · subst b; exact memRead_below h.2 (by omega)
        · simp [memRead]
      · simp only [memRead, show i ≠ a by omega, if_false]
        exact ih h.2

theorem memRead_memWrite_self {m : Mem} (h : memWf m = true) (a : Nat) (b : Byte) :
    memRead (memWrite m a b) a = b := memRead_memWrite_from h a b

theorem memWfFrom_mono {lo l : Nat} {m : Mem} (h : memWfFrom lo m = true) (hl : l ≤ lo) :
    memWfFrom l m = true := by
  cases m with
  | nil => rfl
  | cons e t =>
    obtain ⟨i, b⟩ := e
    simp only [memWfFrom, Bool.and_eq_true, decide_eq_true_eq] at h ⊢
    exact ⟨⟨by omega, h.1.2⟩, h.2⟩

theorem memWfFrom_memWrite {lo : Nat} {m : Mem} (h : memWfFrom lo m = true) {a : Nat} (ha : lo ≤ a) (b : Byte) :
    memWfFrom lo (memWrite m a b) = true := by
  induction m generalizing lo with
  | nil => simp only [memWrite]; split <;> simp_all [memWfFrom]
  | cons e t ih =>
    obtain ⟨i, c⟩ := e
    have h' := h
    simp only [memWfFrom, Bool.and_eq_true, decide_eq_true_eq] at h
    simp only [memWrite]
    split
    · split
      · exact h'
      · simp only [memWfFrom, Bool.and_eq_true, decide_eq_true_eq]
        exact ⟨⟨ha, ‹_›⟩, ⟨by omega, h.1.2⟩, h.2⟩
    · split
      · subst a
        split
        · exact memWfFrom_mono h.2 (by omega)
        · simp only [memWfFrom, Bool.and_eq_true, decide_eq_true_eq]; exact ⟨⟨ha, ‹_›⟩, h.2⟩
      · simp only [memWfFrom, Bool.and_eq_true, decide_eq_true_eq]
        exact ⟨h.1, ih h.2 (by omega)⟩

/-- Every write of a byte keeps the canonical form. -/
theorem memWf_memWrite {m : Mem} (h : memWf m = true) (a : Nat) (b : Byte) : memWf (memWrite m a b) = true :=
  memWfFrom_memWrite h (Nat.zero_le a) b

/-- Every write of bytes keeps the canonical form. -/
theorem memWf_memWrites {m : Mem} (h : memWf m = true) (a : Nat) (bs : List Byte) :
    memWf (memWrites m a bs) = true := by
  induction bs generalizing m a with
  | nil => exact h
  | cons b bs ih => exact ih (memWf_memWrite h a b) (a + 1)

/-- A write of bytes leaves every other address alone. -/
theorem memRead_memWrites_out (m : Mem) {a j : Nat} (bs : List Byte) (h : j < a ∨ a + bs.length ≤ j) :
    memRead (memWrites m a bs) j = memRead m j := by
  induction bs generalizing m a with
  | nil => rfl
  | cons b bs ih =>
    simp only [List.length_cons] at h
    rw [memWrites, ih _ (by omega), memRead_memWrite_ne _ _ (by omega)]

/-- A read after a write of bytes gives the bytes. -/
theorem memRead_memWrites_in {m : Mem} (hm : memWf m = true) (a : Nat) (bs : List Byte) (k : Nat)
    (h : k < bs.length) : memRead (memWrites m a bs) (a + k) = bs[k] := by
  induction bs generalizing m a k with
  | nil => simp at h
  | cons b bs ih =>
    rw [memWrites]
    cases k with
    | zero =>
      rw [memRead_memWrites_out _ _ (by omega)]
      simpa using memRead_memWrite_self hm a b
    | succ k =>
      have := ih (memWf_memWrite hm a b) (a + 1) k (by simpa using h)
      simpa [Nat.add_assoc, Nat.add_comm 1 k] using this

/-! ### Events -/

/-- What was written is read back. -/
theorem memReads_memWrites {m : Mem} (hm : memWf m = true) (a : Nat) (bs : List Byte) :
    memReads (memWrites m a bs) a bs.length = bs := by
  apply List.ext_getElem
  · simp [memReads]
  · intro k h1 h2
    simp only [memReads, List.getElem_map, List.getElem_range]
    exact memRead_memWrites_in hm a bs k h2

/-- What raising an event does: it enters the FIFO under the next number, or is lost and counted when the FIFO is
full. -/
theorem raiseAt_cases (t code ch : Nat) (d : List Nat) (s : State) :
    (s.evt.fifo.length < 512 ∧ raiseAt t code ch d s = { s with evt := { s.evt with
      fifo := s.evt.fifo ++ [{ code := code, channel := ch, seq := s.evt.nextSeq, time := t, data := eventData d }]
      nextSeq := s.evt.nextSeq + 1 } }) ∨
    (512 ≤ s.evt.fifo.length ∧ (raiseAt t code ch d s).evt.fifo = s.evt.fifo ∧
      (raiseAt t code ch d s).evt.nextSeq = s.evt.nextSeq + 1 ∧
      (raiseAt t code ch d s).evt.lost = rcAdd 65535 1 s.evt.lost ∧
      (raiseAt t code ch d s).evt.lostTotal = s.evt.lostTotal + 1) := by
  simp only [raiseAt, fifoDepth]
  by_cases h : s.evt.fifo.length < 512
  · exact .inl ⟨h, by simp [h]⟩
  · exact .inr ⟨by omega, by simp [h]⟩

/-! ### Requests -/

/-- A command whose early checks fail is answered with the failing check. -/
theorem serve_refused {c : CmdSpec} {r : Req} {w : Req → State → Verdict} {s : State} {st d : Nat}
    (hf : s.ctl.fwRunning = true) (h : precheck c r s = some (st, d)) :
    serve c r w s = answer c.opcode r st d (ignoredTlv c r) false s := by
  simp [serve, hf, h]

/-- Where no firmware runs no command is carried out. -/
theorem serve_no_firmware {c : CmdSpec} {r : Req} {w : Req → State → Verdict} {s : State}
    (hf : s.ctl.fwRunning = false) : serve c r w s = s := by
  simp [serve, hf]

/-- A command that is done answers ST_OK on the work's state. -/
theorem serve_ok {c : CmdSpec} {r : Req} {w : Req → State → Verdict} {s t : State} {ts : List Tlv} {more : Bool}
    (hf : s.ctl.fwRunning = true) (h : precheck c r s = none) (hc : checkOnly r = false)
    (hw : w r s = .ok t ts more) :
    serve c r w s = answer c.opcode r stOk 0 (ts ++ ignoredTlv c r) more t := by
  simp [serve, hf, h, hc, hw]

/-- A command whose work refuses it is answered and has no other effect. -/
theorem serve_err {c : CmdSpec} {r : Req} {w : Req → State → Verdict} {s : State} {st d : Nat} {ts : List Tlv}
    (hf : s.ctl.fwRunning = true) (h : precheck c r s = none) (hw : w r s = .err st d ts) :
    serve c r w s = answer c.opcode r st d (ts ++ ignoredTlv c r) false s := by
  simp [serve, hf, h, hw]

/-- A command with CHECK_ONLY is answered and has no other effect, unless its checks have to wait. -/
theorem serve_check {c : CmdSpec} {r : Req} {w : Req → State → Verdict} {s : State}
    (hf : s.ctl.fwRunning = true) (hc : checkOnly r = true) (hw : ∀ t, w r s ≠ .wait t) :
    ∃ st d ts more, serve c r w s = answer c.opcode r st d ts more s := by
  simp only [serve, hf, hc, Bool.not_true, Bool.false_eq_true, if_false, if_true]
  split
  · exact ⟨_, _, _, _, rfl⟩
  · split
    · exact ⟨_, _, _, _, rfl⟩
    · exact ⟨_, _, _, _, rfl⟩
    · rename_i t h; exact absurd h (hw t)

/-! ### The bus -/

/-- The default target counts the error and keeps the first one captured. -/
theorem busError_errLog (m : Master) (w : Bool) (a : BitVec 40) (s : State) :
    (busError m w a s).ctl.errLog = (if s.ctl.errLog.valid then
      { s.ctl.errLog with count := rcAdd 65535 1 s.ctl.errLog.count }
    else { count := rcAdd 65535 1 s.ctl.errLog.count, valid := true, write := w, master := masterCode m,
           addr := a }) := by
  cases m <;> simp [busError, masterError]

end Sys2Proof.Machine
end

