-- ==== Sys2Proof/Tests/Slice0.lean ====
section
/-! SUPPORT. Tests/Slice0.lean: small states, one-step tests from the spec's own figures, the checks of WellFormed,
and for each statement a state and operands that meet its hypotheses (`meets_…`). -/

namespace Sys2Proof.Tests

set_option Elab.async false

open Sys2Proof Sys2Proof.Machine

/-- A host request of revision 3 with no flags. -/
def rq (channel : Nat) (tlvs : List Tlv) : Req :=
  { path := .host, rev := 3, flags := 0, seq := 1, channel := channel, slot := none, node := 0, sender := none, tlvs := tlvs }

/-- A request that names no channel. -/
def rq0 (tlvs : List Tlv) : Req := rq 0xFFFF tlvs

/-- The device on, in READY, with firmware running and eight memory controllers in service. -/
def up : State :=
  { State.reset with
    ctl := { State.reset.ctl with fwRunning := true }
    modes := { State.reset.modes with mode := .ready }
    pwr := { State.reset.pwr with phase := 3 }
    mem := { State.reset.mem with trained := List.range 8, topGib := 128 } }

/-- The same in another mode. -/
def inMode (m : Mode) : State := { up with modes := { up.modes with mode := m } }

/-- `up` one second later, every copy of device time at it. -/
def later : State :=
  { up with tim := { up.tim with
      now := 65536000000000
      copies := List.replicate 26 { TimeCopy.reset with value := 65536000000000 } } }

/-- `up` with a slot register. -/
def withSlot (n : Nat) (x : Slot) : State := { up with mbx := { up.mbx with slots := [(n, x)] } }

/-- A claimed slot of a path. -/
def claimed (p : Path) : Slot := { Slot.free with owner := some p, gen := 1, state := 1 }

/-- The same BUSY, its doorbell rung with the generation it has. -/
def busy (p : Path) : Slot := { claimed p with state := 2, bellGen := 1 }

/-- The next state that an outcome answers, if it answers one. -/
def next? : Host.Outcome State Fault Refusal → Option State
  | .next s => some s
  | _ => none

/-- The state after a command, or the state itself where it answers none. -/
def run1 (o : State → Host.Outcome State Fault Refusal) (s : State) : State := (next? (o s)).getD s

/-- A TLV of little-endian fields, each as its length and value. -/
def tlvF (tag : Nat) (fs : List (Nat × Nat)) : Tlv :=
  { tag := tag, len := (fs.map Prod.fst).sum, val := ofLe (fs.map fun e => le e.1 e.2).flatten }

/-! ### An input, an output and a channel of each role -/

/-- IN.CONFIGURE of input 3: ST 2110 1080p60 from leg 0 of media port 0. -/
def inReq : Req :=
  rq0 [tlv 0x0301 2 3, tlv 0x0302 1 2,
    tlvF 0x0305 [(1, 0), (1, 0), (1, 0), (1, 96), (4, 0xEF000001), (4, 0x0A000001), (2, 5004), (2, 0), (4, 0), (2, 0xFFFF), (2, 0)],
    tlvF 0x0306 [(2, 1920), (2, 1080), (4, 60), (4, 1), (1, 2), (1, 10), (1, 0), (1, 0), (4, 0), (4, 0)],
    tlv 0x0307 1 8]

/-- OUT.CONFIGURE of output 5: a coded stream on interface 0. -/
def outReq : Req :=
  rq0 [tlv 0x0401 2 5, tlv 0x0402 1 3,
    tlvF 0x0404 [(1, 0), (1, 0), (1, 0), (1, 64), (4, 0xEF000002), (2, 5006), (2, 5006), (4, 77), (1, 96), (1, 0), (2, 0), (4, 0)]]

/-- Interface 0's link is up. -/
def linked : State := run1 (execMediaLinkChange 0 true) (run1 (execQsfpInsert 0 .other100G) up)

/-- Input 3 is configured. -/
def inOk : State := run1 (execInConfigure inReq) linked

/-- Input 3 and output 5 are configured. -/
def ioOk : State := run1 (execOutConfigure outReq) inOk

/-- CHAN.CONFIGURE of channel 0: JPEG XS at 200 Mb/s from input 3 to output 5. -/
def chanReq0 : Req :=
  rq 0 [tlv 0x0201 1 0, tlv 0x0202 1 3, tlv 0x0203 1 1, tlv 0x0204 1 0, tlv 0x0205 2 1920, tlv 0x0206 2 1080,
    tlv 0x0207 4 60, tlv 0x0208 4 1, tlv 0x0209 1 2, tlv 0x020A 1 10, tlv 0x020B 1 1, tlv 0x020C 8 50000000,
    tlv 0x020D 1 4, tlv 0x020F 1 0, tlv 0x0210 8 200000000, tlv 0x0211 8 200000000, tlv 0x0214 2 3,
    tlv 0x0215 2 5, tlv 0x0217 2 0]

/-- Its configuration. -/
def cfg0 : ChanCfg := cfgOf chanReq0 ioOk

/-- Channel 0 in a state. -/
def chanIn (st : ChanState) : State := { ioOk with chans := [(0, { Chan.idle with state := st, cfg := some cfg0 })] }

/-- Channel 0 in a state, with a configuration changed. -/
def chanAs (st : ChanState) (role : Role) : State :=
  { ioOk with chans := [(0, { Chan.idle with state := st, cfg := some { cfg0 with role := role } })] }

/-! ### A key of P-384, made outside the model -/

/-- The public key of private key 1. -/
def testKey : List Byte := natBytes (le 97 0x5f0eea907c1d437a9d817e1dceb1600ac0b8f0b51331dae97c149a28bd1df4f829dc9292bf989e5d6f2c26964ade1736b70a7672385e543a6c2955bf5df20255382a5482e041f759989ba78b623b1d6e74ad20f31ec7b18e37058bbe22ca87aa04)

/-- Its signature over challenge 7 and UID 0. -/
def dbgSig : List Byte := natBytes (le 96 0xa0eff57fde96ca769b65e5fcaaa46f96d060a7d762399e8f5a00246b1990e1c54ce930fb47c001cf3c1e143b979534db61df9552c7a9965bf8640ebe6ee8e04f9e6eb99fd107d251d634f4a659590289f0975bc545002669d9d2a37b0599d908)

/-- An image without a body, signed by the test key; and one whose digest is not its body's. -/
def testImage : List Byte := natBytes (le 352 0x2bd4105f08ac693330d7d70ad7ebfbe276561afb7ca949d1c30167a80fcc5938a524bd0e6401645da0a83f241caf83f361df9552c7a9965bf8640ebe6ee8e04f9e6eb99fd107d251d634f4a659590289f0975bc545002669d9d2a37b0599d908000000000000000000000000000000000000000000000000000000000000005f0eea907c1d437a9d817e1dceb1600ac0b8f0b51331dae97c149a28bd1df4f829dc9292bf989e5d6f2c26964ade1736b70a7672385e543a6c2955bf5df20255382a5482e041f759989ba78b623b1d6e74ad20f31ec7b18e37058bbe22ca87aa040000000000000000000000000000000000000000000000000000000000000000000000000000000000000000000000005bb99848f1d21ad5fb656fe7bfde4e27dae1f663bfc70c4c4307be1411b7fd216ae3b1b17e32d94c3896ac51a760b0380000000000000000000000030000003f00000009000000000000000148544245)
def otherImage : List Byte := natBytes (le 352 0x5effd5e973578dedeae959194c936c18faa59287e97f058ff88ff4377b10a0c586fee529a7e0c4d2d4309f7057c7d5a61df9552c7a9965bf8640ebe6ee8e04f9e6eb99fd107d251d634f4a659590289f0975bc545002669d9d2a37b0599d908000000000000000000000000000000000000000000000000000000000000005f0eea907c1d437a9d817e1dceb1600ac0b8f0b51331dae97c149a28bd1df4f829dc9292bf989e5d6f2c26964ade1736b70a7672385e543a6c2955bf5df20255382a5482e041f759989ba78b623b1d6e74ad20f31ec7b18e37058bbe22ca87aa040000000000000000000000000000000000000000000000000000000000000000000000000000000000000000000000000000000000000000000000000000000000000000000000000000000000000000000000000000000000000000000000000000000000000000000000030000003f00000009000000000000000148544245)

/-- Fuses that hold the hash of the test key for key index 0. -/
def testFuses : Fuses := { State.reset.fuses with keyHashes := [0x1dd5e1afb0969cd83edacd4c19820fc9a05bb4f440a2f442388caffb48d02f21e50d135a70067686edf9b71224264f8c, 0, 0, 0] }

/-- The cells of an image at an address, in canonical form. -/
def imageAt (a : Nat) (image : List Byte) : Mem :=
  ((List.range image.length).zip image).filterMap fun e => if e.2 = 0 then none else some (a + e.1, e.2)

/-- Flash with images in both slots. -/
def flashOf (a b : List Byte) : Flash := { Flash.reset with bytes := imageAt 0 a ++ imageAt 0x2000000 b }
/-! ### Hypotheses that can be met: the step, reset and the checks -/

theorem meets_StepTakesFrontCommand :
    ({ up with pending := [.smbId] } : State).pending = .smbId :: [] := rfl

theorem meets_IdleStepAdvancesTime :
    up.pending = [] ∧ up.pwr.phase = 3 ∧ up.ctl.boot.stage ≠ 2 ∧ up.tim.state ≠ 3 ∧ up.tim.freq = 0 ∧ up.tim.phase < 65536 ∧
      State.reset.pending = [] ∧ State.reset.pwr.phase ≠ 3 ∧
      State.reset.ctl.boot.stage ≠ 2 ∧ (⟨5, 65535, 0, 0⟩ : TimeCopy).rate = 0 ∧ (⟨5, 65535, 0, 0⟩ : TimeCopy).phase < 65536 := by decide +kernel

/-- A state that lists memory, an event and inputs, with a command in front. -/
def listed : State :=
  { up with
    pending := [.vinOvervoltage]
    mem := { up.mem with dram := [(5, 1), (9, 2)] }
    evt := { up.evt with fifo := [{ code := 1, channel := 0, seq := 4, time := 0, data := [] }], nextSeq := 5 } }

theorem meets_StepKeepsMemoriesCanonical : memoriesOk listed ∧ (next? (step listed)).isSome = true := by
  unfold memoriesOk; decide +kernel

theorem meets_StepKeepsTablesInOrder :
    eventsOk listed ∧ inputsOk listed ∧ (next? (step listed)).isSome = true := by
  unfold eventsOk inputsOk; decide +kernel

/-- The debug master is about to pass its authentication with the test key and its signature over challenge 7 and UID 0. -/
def challenged : State :=
  { up with
    fuses := { up.fuses with debugKeyHash := 0x1dd5e1afb0969cd83edacd4c19820fc9a05bb4f440a2f442388caffb48d02f21e50d135a70067686edf9b71224264f8c }
    ctl := { up.ctl with challenge := some 7 } }

theorem meets_StepKeepsIdentityAndDebugLock : (next? (step listed)).isSome = true ∧
    challenged.ctl.debugUnlocked = false ∧
    ((next? (exec (.dbgAuthVerify testKey dbgSig) challenged)).map fun t => t.ctl.debugUnlocked) = some true := by
  decide +kernel

theorem meets_MailboxChecksComeFirst :
    commandOf (.devInfo (rq0 [])) = some (sDevInfo, rq0 []) ∧ State.reset.ctl.fwRunning = false ∧
    up.ctl.fwRunning = true ∧ up.mbx.heldAdmits = [] ∧ precheck sDevInfo { rq0 [] with rev := 4 } up = some (7, 770) ∧
    commandOf (.chanConfigure { rq 0 [] with flags := 2 }) = some (sChanConfigure, { rq 0 [] with flags := 2 }) ∧
    checkOnly { rq 0 [] with flags := 2 } = true ∧
    specOf 2 sDevLedger.opcode = none ∧
    (specOf 3 sFabRoute.opcode).isSome = true ∧ mayIssue .host sFabRoute.opcode = false ∧
    (specOf 3 sDevFree.opcode).isSome = true ∧ mayIssue .host sDevFree.opcode = true ∧
    formBad sDevFree (rq0 []) = some 0x0131 ∧ formBad sDevFree (rq0 [tlv 0x0131 4 1]) = none ∧
    testing State.reset = false ∧ Mode.boot ∉ sDevFree.modes ∧ sDevFree.names = false ∧
    sChanStop.names = true := by decide +kernel
/-! ### Hypotheses that can be met: the mailbox -/

theorem meets_MailboxSlotsFollowTheirOwner :
    slotPath up .pcie = true ∧ masterPath .pcie = some .host ∧ (slotOf up 31).owner = none ∧
    (∀ o ∈ [(⟨.mirror, 3⟩ : Claim)], slotPath up o.master = true ∧ claimRank .pcie < claimRank o.master) ∧
    (slotOf (withSlot 0 (claimed .fabric)) 0).owner = some .fabric ∧
    slotPath (withSlot 0 (claimed .fabric)) .pcie = true ∧ masterPath .dma = none ∧ slotPath up .dma = true ∧
    -- memory writes: the owner in CLAIMED at the last byte of slot 31, firmware in BUSY, and a write dropped
    (131071 % 4096 + [(1 : Byte)].length ≤ 4096 ∧ memWf up.mbx.mem = true ∧
      slotPath (withSlot 31 (claimed .host)) .pcie = true ∧
      owns .pcie 0 (slotOf (withSlot 31 (claimed .host)) (131071 / 4096)) = true ∧
      (slotOf (withSlot 31 (claimed .host)) (131071 / 4096)).state = 1) ∧
    (slotPath (withSlot 31 (busy .host)) .cpuData = true ∧
      (slotOf (withSlot 31 (busy .host)) (131071 / 4096)).state = 2) ∧
    owns .pcie 0 (slotOf up 31) = false ∧ Master.pcie ≠ .cpuData ∧
    -- doorbells: one that is taken, and one that RELEASE beside it makes ignored
    (0x40000000 : Word32).getLsbD 30 = true ∧ (0x40000000 : Word32).getLsbD 31 = false ∧
    (0xC0000000 : Word32).getLsbD 30 = true ∧ (0xC0000000 : Word32).getLsbD 31 = true := by decide +kernel

/-- A master that owns no slot, and a doorbell of the same cycle by a later path. -/
theorem meets_MailboxSlotsFollowTheirOwner_others :
    (∀ k, owns .pcie 0 (slotOf up k) = false) ∧
    (let s := { withSlot 31 (claimed .host) with mbx := { (withSlot 31 (claimed .host)).mbx with bells := [(5, .fabric, 0)] } }
     s.mbx.bells = [(5, .fabric, 0)] ∧ (0 : Nat) = s.tim.now ∧ pathCode .host < pathCode .fabric ∧
       owns .pcie 0 (slotOf s 31) = true ∧ (slotOf s 31).state = 1) :=
  ⟨fun _ => rfl, by decide +kernel⟩

/-- The bytes of a DEV.INFO request of the host, revision 3, sequence 1, no TLV. -/
def infoMsg : List Byte := [1, 1, 0, 0, 1, 0, 0, 0, 0xFF, 0xFF, 3, 0] ++ List.replicate 20 0

/-- Its doorbell has been rung in slot 2, with the high byte of its flags. -/
def rungWith (flags : Byte) : State :=
  { withSlot 2 (busy .host) with
    mbx := { (withSlot 2 (busy .host)).mbx with
      bells := [(2, .host, 0)]
      mem := [(8192, 1), (8193, 1)] ++ (if flags = 0 then [] else [(8195, flags)]) ++
        [(8196, 1), (8200, 255), (8201, 255), (8202, 3)] } }

def rung : State := rungWith 0

def infoReq : Req := { rq0 [] with slot := some 2 }

/-- The bytes of slot 2. -/
def slot2 (s : State) : List Nat := byteNats (memReads s.mbx.mem (2 * 4096) 4096)

/-- An answer waits for delivery to a slot. -/
def answered (n : Fin 32) (p : Path) (g : Nat) : State :=
  { withSlot n.val { busy p with gen := g } with
    mbx := { (withSlot n.val { busy p with gen := g }).mbx with
      resps := [{ slot := some n, path := p, node := 0, opcode := 0x101, seq := 1, channel := 0xFFFF, rev := 3,
                  status := 0, detail := 0, more := false, accepted := 0, tlvs := [] }]
      mgmtSlots := [{ slot := n.val, gen := g, ip := 0x0A000001, port := 4750 }] } }

/-- The same with bus mastering and MSI-X on and no vector masked. -/
def interrupting : State :=
  { answered 31 .host 1 with evt := { up.evt with busMaster := true, msixEn := true, masked := [] } }

theorem meets_CommandsTakenAndResponsesDelivered :
    State.reset.ctl.fwRunning = false ∧
    (rung.ctl.fwRunning = true ∧ rung.mbx.inWork = [] ∧ rung.mbx.bells = (2, .host, 0) :: [] ∧
      parseReq .host (some (Fin.ofNat 32 2)) (slotOf rung 2).ownerNode (slot2 rung) = (0x101, infoReq, none) ∧
      infoReq.rev = 3 ∧ specOf infoReq.rev 0x101 = some sDevInfo ∧
      mayIssue .host 0x101 = true ∧ messageBad sDevInfo infoReq (slot2 rung) none = none ∧
      precheck sDevInfo infoReq rung = none ∧
      precheck sDevInfo infoReq { rung with flt := { rung.flt with selftest := some 1 } } = some (1, 0)) ∧
    -- a reserved flag
    (parseReq .host (some (Fin.ofNat 32 2)) 0 (slot2 (rungWith 0x80)) = (0x101, { infoReq with flags := 0x8000 }, none) ∧
      messageBad sDevInfo { infoReq with flags := 0x8000 } (slot2 (rungWith 0x80)) none = some 0x80000002) ∧
    -- deliveries on each path, and one that is lost
    ((respFor interrupting 31).isSome = true ∧ memWf interrupting.mbx.mem = true ∧
      (slotOf interrupting 31).gen = (slotOf interrupting 31).bellGen ∧
      (slotOf interrupting 31).owner = some .host ∧ interrupting.evt.busMaster = true ∧
      interrupting.evt.msixEn = true ∧ 31 ∉ interrupting.evt.masked) ∧
    (slotOf (answered 0 .fabric 1) 0).owner = some .fabric ∧
    ((slotOf (answered 0 .management 1) 0).owner = some .management ∧
      ((answered 0 .management 1).mbx.mgmtSlots.find? fun e =>
        decide (e.slot = 0 ∧ e.gen = (slotOf (answered 0 .management 1) 0).gen)).isSome = true) ∧
    ((respFor (answered 0 .fabric 2) 0).isSome = true ∧
      (slotOf (answered 0 .fabric 2) 0).gen ≠ (slotOf (answered 0 .fabric 2) 0).bellGen) ∧
    -- releases
    (slotPath (withSlot 0 (busy .host)) .pcie = true ∧ (0x80000000 : Word32).getLsbD 30 = false ∧
      (0x80000000 : Word32).getLsbD 31 = true ∧ owns .pcie 0 (slotOf (withSlot 0 (busy .host)) 0) = true ∧
      owns .pcie 0 (slotOf up 0) = false ∧ regPath up .pcie = true) := by decide +kernel

/-- A command that a restart interrupted is in work again. -/
def redoing : State := { up with mbx := { up.mbx with
  inWork := [{ slot := 3, opcode := 0x101, req := infoReq, accepted := 0, redo := true }] } }

theorem meets_CommandsTakenAndResponsesDelivered_redo : redoing.mbx.inWork.any (fun w => w.redo) = true := by decide +kernel

/-- Every slot is held. -/
def allHeld : State :=
  { up with mbx := { up.mbx with slots := (List.range 32).map fun n => (n, claimed .host) } }

/-- A management key is set, and the host at 10.0.0.1:4750 was answered with sequence 0. -/
def keyed (last : Nat) : State :=
  { up with mbx := { up.mbx with
      key := some 5
      sources := [{ ip := 0x0A000001, port := 4750, lastSeq := last, resp := (respFor interrupting 31) }] } }

/-- A datagram of 32 bytes with sequence 1. -/
def dgram : List Byte := [1, 1, 0, 0, 1, 0, 0, 0] ++ List.replicate 24 0

/-- Its tag under key 5, computed outside the model. -/
def dgramTag : BitVec 128 := 0x6411588550e5bf82fa8d6c23f29088c5

theorem meets_FabricAndManagementRequests :
    freeSlot up = some 0 ∧ infoMsg.length ≤ 4096 ∧ memWf up.mbx.mem = true ∧ freeSlot allHeld = none ∧
    up.mbx.key = none ∧ up.ctl.fwRunning = true ∧ (1 : Word32) ≠ up.mbx.ipv4 ∧
    ((keyed 0).mbx.key = some 5 ∧ ([] : List Byte).length ≠ 32 + hdrField (byteNats []) 0x0C 2) ∧
    (dgram.length = 32 + hdrField (byteNats dgram) 0x0C 2 ∧
      le 16 dgramTag.toNat = tagOf (keyed 0) (byteNats dgram) ∧
      (∀ x ∈ (keyed 0).mbx.sources, x.ip = 0x0A000001 ∧ x.port = 4750 → x.lastSeq < hdrField (byteNats dgram) 4 4) ∧
      freeSlot (keyed 0) = some 0 ∧
      freeSlot { keyed 0 with mbx := { (keyed 0).mbx with slots := allHeld.mbx.slots } } = none) ∧
    (((keyed 1).mbx.sources.find? fun x => decide (x.ip = 0x0A000001 ∧ x.port = 4750)).map
        (fun x => (x.lastSeq, x.resp.isSome)) = some (hdrField (byteNats dgram) 4 4, true)) ∧
    hdrField (byteNats dgram) 4 4 < 2 := by decide +kernel

/-! ### Hypotheses that can be met: the DEV opcodes -/

theorem meets_DevReportsAndBuffers :
    accepted sDevInfo (rq0 []) up ∧ accepted sDevCapacity (rq0 []) up ∧
    (accepted sDevLedger (rq0 [tlv 0x0120 2 259, tlv 0x0121 2 64]) up ∧
      tlvD (rq0 [tlv 0x0120 2 259, tlv 0x0121 2 64]) 0x0120 0 ≤ 259 ∧
      1 ≤ tlvD (rq0 [tlv 0x0120 2 259, tlv 0x0121 2 64]) 0x0121 0 ∧
      tlvD (rq0 [tlv 0x0120 2 259, tlv 0x0121 2 64]) 0x0121 0 ≤ 64) ∧
    (accepted sDevLedger (rq0 [tlv 0x0120 2 260, tlv 0x0121 2 1]) up ∧
      259 < tlvD (rq0 [tlv 0x0120 2 260, tlv 0x0121 2 1]) 0x0120 0) ∧
    accepted sDevAlloc (rq0 [tlv 0x0130 8 1]) up ∧
    (accepted sDevFree (rq0 [tlv 0x0131 4 1]) { up with mem := { up.mem with bufs := [(1, ⟨0x40000000, 0x200000⟩)] } } ∧
      tabGet? [(1, (⟨0x40000000, 0x200000⟩ : Buf))] 1 = some ⟨0x40000000, 0x200000⟩) ∧
    (accepted sDevFree (rq0 [tlv 0x0131 4 1]) up ∧ tabGet? up.mem.bufs 1 = none) := by
  unfold accepted; decide +kernel

theorem meets_DevRestartAndReset :
    (accepted sDevRestart (rq0 []) up ∧ up.modes.mode ≠ .boot ∧ up.ctl.restart.active = false ∧
      up.ctl.restart.lockstepPerm = false ∧ up.flt.testPorts = [] ∧ (rq0 []).slot = none) ∧
    (accepted sDevRestart { rq0 [] with slot := some 2 } (withSlot 2 (busy .host)) ∧
      (withSlot 2 (busy .host)).modes.mode ≠ .boot ∧ (withSlot 2 (busy .host)).ctl.restart.lockstepPerm = false) ∧
    (accepted sDevReset (rq0 []) up ∧ up.ctl.restart.permPending = none) ∧
    (accepted sDevReset { rq0 [] with slot := some 2 } (withSlot 2 (busy .host)) ∧
      memWf (withSlot 2 (busy .host)).mbx.mem = true ∧ respFor (withSlot 2 (busy .host)) 2 = none ∧
      (slotOf (withSlot 2 (busy .host)) 2).gen = (slotOf (withSlot 2 (busy .host)) 2).bellGen) := by
  unfold accepted; decide +kernel

/-- An AUD.START waits for GPIO 31. -/
def gpioHeld : State :=
  { up with aud := { up.aud with ports := [(0, { Sap.reset with startGpi := some 31 })] } }

/-- DEV.GPIO makes GPIO 31 an output. -/
def gpioReq : Req := rq0 [tlv 0x0160 4 0x80000000, tlv 0x0161 4 0, tlv 0x0162 4 0x80000000]

theorem meets_DevMgmtAndGpioSetMaskedFields :
    (accepted sDevMgmt (rq0 [tlv 0x0144 8 0]) up ∧ fieldAt (tlvD (rq0 [tlv 0x0144 8 0]) 0x0144 0) 6 2 = 0 ∧
      getTlv (rq0 [tlv 0x0144 8 0]) 0x0144 = some 0) ∧
    (accepted sDevMgmt (rq0 [tlv 0x0144 8 0x128E0A000001]) up ∧
      fieldAt (tlvD (rq0 [tlv 0x0144 8 0x128E0A000001]) 0x0144 0) 6 2 = 0) ∧
    (accepted sDevMgmt (rq0 [tlv 0x0144 8 0x1000000000000]) up ∧
      fieldAt (tlvD (rq0 [tlv 0x0144 8 0x1000000000000]) 0x0144 0) 6 2 ≠ 0) ∧
    (accepted sDevGpio gpioReq up ∧ (∀ k, k < 32 → gpioNamed up k = false) ∧
      accepted sDevGpio gpioReq gpioHeld ∧ gpioNamed gpioHeld 31 = true ∧
      (BitVec.ofNat 32 (tlvD gpioReq 0x0162 0)).getLsbD 31 = true ∧
      (BitVec.ofNat 32 (tlvD gpioReq 0x0160 0)).getLsbD 31 = true) := by
  unfold accepted; decide +kernel
/-! ### Hypotheses that can be met: modes and ports -/

/-- A DEV.MODE request. -/
def modeReq (m : Nat) : Req := rq0 [tlv 0x0109 1 m]

/-- DEV.MODE DRAIN to READY in 600 s. -/
def drainReq : Req := rq0 [tlv 0x0109 1 5, tlv 0x010A 1 3, tlv 0x010B 2 600]

/-- The device on its way out of a mode. -/
def leaving (old new : Mode) : State :=
  { up with modes := { up.modes with mode := new, old := old, goal := new, incomplete := true } }

/-- In DRAIN, with the limit passed and channel 0 in a state. -/
def drainOver (st : ChanState) : State :=
  { chanIn st with modes := { up.modes with mode := .drain, drainEnds := 0 } }

theorem meets_ModeTransitions :
    ((accepted sDevMode (modeReq 3) (leaving .boot .ready) ∧ (leaving .boot .ready).modes.incomplete = true) ∧
    (accepted sDevMode (modeReq 3) up ∧ up.modes.incomplete = false ∧ modeOf 3 = up.modes.mode) ∧
    (accepted sDevMode (modeReq 2) up ∧ modeOf 2 = .dormant ∧ allSettled up = true) ∧
    (accepted sDevMode (modeReq 2) (chanIn .running) ∧ allSettled (chanIn .running) = false) ∧
    accepted sDevMode (modeReq 3) (inMode .dormant) ∧
    (accepted sDevMode (modeReq 1) up ∧ modeOf 1 = .service ∧ ∀ h, h < 64 → (chan up h).state = .idle) ∧
    (accepted sDevMode (modeReq 1) (chanIn .configured) ∧ (chan (chanIn .configured) 0).state ≠ .idle) ∧
    accepted sDevMode (modeReq 3) (inMode .service) ∧
    (accepted sDevMode drainReq (inMode .operate) ∧ 1 ≤ tlvD drainReq 0x010A 0 ∧ tlvD drainReq 0x010A 0 ≤ 3 ∧
      1 ≤ tlvD drainReq 0x010B 10 ∧ tlvD drainReq 0x010B 10 ≤ 600 ∧ allSettled (inMode .operate) = true) ∧
    (accepted sDevMode (modeReq 0) (inMode .operate) ∧ modeOf 0 ≠ .drain)) ∧
    (((leaving .dormant .ready).modes.incomplete = true ∧ (leaving .dormant .ready).ctl.fwRunning = true ∧
        (leaving .dormant .ready).modes.offByDevice = [] ∧ (leaving .dormant .ready).modes.mode ≠ .drain ∧
        (leaving .dormant .ready).modes.goal = .ready ∧ (leaving .dormant .ready).evt.fifo = []) ∧
      ((leaving .boot .service).modes.incomplete = true ∧ (leaving .boot .service).flt.due = []) ∧
      up.modes.incomplete = false ∧
      ((drainOver .running).modes.mode = .drain ∧ (drainOver .running).modes.drainEnds ≤ nowNs (drainOver .running) ∧
        (chan (drainOver .running) 0).state = .running ∧ (chan (drainOver .migrating) 0).state = .migrating) ∧
      nowNs up < 1) := by
  unfold accepted; decide +kernel

/-- A DEV.PORT request. -/
def portReq (k n p : Nat) : Req := rq0 [tlv 0x0150 1 k, tlv 0x0151 1 n, tlv 0x0152 1 p]

/-- SDI port 7 relocks, with fabric port 2, off by the host until now, behind it. -/
def relocking : State :=
  { up with modes := { up.modes with portsOff := [.sdi 7], relocking := [.sdi 7, .fab 2] }
            fab := { up.fab with ports := [(2, { fport up 2 with hostOff := true })] } }

theorem meets_DevPortOffAndRelock :
    (accepted sDevPort (portReq 1 0 1) up ∧ tlvD (portReq 1 0 1) 0x0152 0 = 1) ∧
    (accepted sDevPort (portReq 3 0 2) up ∧ 2 < tlvD (portReq 3 0 2) 0x0150 0) ∧
    (accepted sDevPort (portReq 1 0 2) (chanIn .running) ∧ tlvD (portReq 1 0 2) 0x0151 0 < 2 ∧
      portCarries (chanIn .running) (portOf 1 0) = true) ∧
    (accepted sDevPort (portReq 2 7 2) up ∧ tlvD (portReq 2 7 2) 0x0151 0 < 8 ∧ portCarries up (portOf 2 7) = false) ∧
    (accepted sDevPort (portReq 2 7 0) relocking ∧ tlvD (portReq 2 7 0) 0x0152 0 = 0 ∧
      portOf 2 7 ∈ relocking.modes.portsOff) ∧
    (relocking.modes.relocking = .sdi 7 :: [.fab 2] ∧ PortRef.fab 2 ≠ .sdi 7 ∧
      (run1 (execPortRelock (.sdi 7)) relocking).modes.relocking = .fab 2 :: [] ∧ (fport relocking 2).hostOff = true) := by
  unfold accepted; decide +kernel
/-! ### Hypotheses that can be met: channels -/

/-- The fabric bytes that an admission of channel 0 books, if it admits. -/
def admitted0 (s : State) : Option Nat :=
  match admitChan s 0 (cfgOf chanReq0 s) (pixFor s 0 (cfgOf chanReq0 s)) with
  | .yes new => some new.fabBudget
  | .no _ => none

/-- No memory controller is in service. -/
def noMem : State := { ioOk with mem := State.reset.mem }

/-- A group of channel 0 in a role, joined with channel 1 of node 2, witness node 3. -/
def group0 (role : Nat) : Group :=
  { role := role, active := 1, shadow := 2, witness := 3, alts := [], peerChannel := 1, source := 0, state := 2,
    everProtected := true, joined := true, epoch := 1, newWitness := none, triedAlts := 0, leaseH := none,
    fenced := false, activeHeard := none, shadowHeard := none, witnessHeard := none, activeSilent := false,
    shadowSilent := false, witnessSilent := false, activeSend := 0, through := 0, checkpoint := none,
    mirrorBad := false, digestBad := 0, hashWait := false, wasProtected := false, reencoding := false,
    grantB := none, yielded := false, boundary := none, relaySeen := [], digestSec := 0, digestFirst := 0,
    grantKind := 0, leaseReq := none, lateAt := 0, sourceLost := false, unbooked := 0, layersOf := [], suspectAt := none }

/-- An active that books fabric bytes. -/
def mirrors (o : Option (Nat × Nat)) : State :=
  { ioOk with prt := { up.prt with groups := [(0, group0 0)] }, fab := { up.fab with office := o } }

theorem meets_ChanConfigureAdmits :
    (∀ x ∈ [ioOk, noMem, chanIn .stopping, chanIn .migrating], mustHold chanReq0 x = false ∧ x.mbx.heldAdmits = []) ∧
    (accepted sChanConfigure chanReq0 (chanIn .stopping) ∧ (chan (chanIn .stopping) 0).state = .stopping) ∧
    (accepted sChanConfigure chanReq0 (chanIn .migrating) ∧ (chan (chanIn .migrating) 0).state = .migrating) ∧
    (accepted sChanConfigure chanReq0 ioOk ∧ (chan ioOk 0).state = .idle ∧
      chanValueBad chanReq0 (cfgOf chanReq0 ioOk) = none ∧ chanCfgBad chanReq0 (cfgOf chanReq0 ioOk) ioOk = none ∧
      admitted0 ioOk = some 0) ∧
    (∀ o ∈ [none, some (4, 9)], accepted sChanConfigure chanReq0 (mirrors o) ∧ mustHold chanReq0 (mirrors o) = false ∧
      chanValueBad chanReq0 (cfgOf chanReq0 (mirrors o)) = none ∧
      chanCfgBad chanReq0 (cfgOf chanReq0 (mirrors o)) (mirrors o) = none ∧
      (admitted0 (mirrors o)).isSome = true ∧ admitted0 (mirrors o) ≠ some 0) ∧
    (accepted sChanConfigure chanReq0 noMem ∧ chanValueBad chanReq0 (cfgOf chanReq0 noMem) = none ∧
      chanCfgBad chanReq0 (cfgOf chanReq0 noMem) noMem = none ∧
      admitChan noMem 0 (cfgOf chanReq0 noMem) (pixFor noMem 0 (cfgOf chanReq0 noMem)) = .no 3) := by
  unfold accepted; decide +kernel

/-- Channel 0 is CONFIGURED a second after reset. -/
def lateStart : State := { chanIn .configured with tim := later.tim }

theorem meets_ChanStartAndStop :
    (accepted sChanStart (rq 0 []) (chanIn .stopping) ∧ accepted sChanStart (rq 0 []) (chanIn .running) ∧
      (accepted sChanStart (rq 0 []) { chanIn .configured with modes := { up.modes with portsOff := [.media 0] } } ∧
        anyOff { chanIn .configured with modes := { up.modes with portsOff := [.media 0] } }
          (chanPorts (chanIn .configured) cfg0) = true) ∧
      (accepted sChanStart (rq 0 [tlv 0x0220 8 999999999]) lateStart ∧ anyOff lateStart (chanPorts lateStart cfg0) = false ∧
        tlvD (rq 0 [tlv 0x0220 8 999999999]) 0x0220 0 < acceptedAt (rq 0 [tlv 0x0220 8 999999999]) lateStart) ∧
      (accepted sChanStart (rq 0 []) (chanIn .configured) ∧ (chan (chanIn .configured) 0).cfg = some cfg0 ∧
        anyOff (chanIn .configured) (chanPorts (chanIn .configured) cfg0) = false ∧
        (chanIn .configured).modes.mode = .ready ∧ (chanIn .configured).modes.incomplete = false)) ∧
    (accepted sChanStop (rq 0 []) (chanIn .stopping) ∧ accepted sChanStop (rq 0 []) (chanIn .idle) ∧
      (accepted sChanStop (rq 0 [tlv 0x0222 1 1]) (chanIn .running) ∧ tlvD (rq 0 [tlv 0x0222 1 1]) 0x0222 0 = 1 ∧
        (chanIn .running).evt.fifo = []) ∧
      (accepted sChanStop (rq 0 [tlv 0x0221 8 5]) (chanIn .starting) ∧ tlvD (rq 0 [tlv 0x0221 8 5]) 0x0222 0 = 0)) := by
  unfold accepted; decide +kernel

/-- Channel 0 runs; it began a picture at 0; a change of shed rank or of the bit rate at a time. -/
def modReq (e : Nat) : Req := rq 0 [tlv 0x0210 8 150000000, tlv 0x0224 8 e]
def begunAt0 : State :=
  { ioOk with chans := [(0, { Chan.idle with state := .running, cfg := some cfg0, lastBegun := some 0 })] }
def modPending : State :=
  { ioOk with chans := [(0, { Chan.idle with
      state := .running, cfg := some cfg0, pending := some { index := 0x10, value := 1, effective := 1, acked := true } })] }

def begunPaired : State := { begunAt0 with
    prt := { up.prt with groups := [(0, group0 0)] }
    fab := { up.fab with peers := [(2, 3)] } }

theorem meets_ChanModify_settings :
    accepted sChanModify (modReq 1) (chanIn .stopping) ∧ accepted sChanModify (modReq 1) (chanIn .starting) ∧
    accepted sChanModify (rq 0 [tlv 0x0216 1 3, tlv 0x0213 4 0]) (chanIn .running) ∧
    (accepted sChanModify (rq 0 [tlv 0x0216 1 3]) (chanIn .running) ∧
      hasTlv (rq 0 [tlv 0x0216 1 3]) 0x0224 = false) ∧
    accepted sChanModify (modReq 1) modPending ∧ (chan modPending 0).pending.isSome = true ∧
    accepted sChanModify (rq 0 [tlv 0x0216 1 3]) modPending := by
  unfold accepted; decide +kernel

theorem meets_ChanModify_instants :
    (accepted sChanModify (rq 0 [tlv 0x0213 4 1, tlv 0x0224 8 1]) begunAt0 ∧
      settingBad begunAt0 (chan begunAt0 0) cfg0 0x0213 1 = true) ∧
    (accepted sChanModify (modReq 33333332) begunAt0 ∧ getTlv (modReq 33333332) 0x0224 = some 33333332 ∧
      settingBad begunAt0 (chan begunAt0 0) cfg0 0x0210 150000000 = false ∧
      33333332 < (0 + 2 * periodT cfg0) / 65536) ∧
    accepted sChanModify (modReq 33333333) begunAt0 ∧ effectiveBad (chan begunAt0 0) cfg0 33333333 = false ∧
    activeGroup begunAt0 0 = none := by
  unfold accepted; decide +kernel

theorem meets_ChanModify_forwarded :
    accepted sChanModify (modReq 33333333) begunPaired ∧ activeGroup begunPaired 0 = some (group0 0) ∧
    settingBad begunPaired (chan begunPaired 0) cfg0 0x0210 150000000 = false ∧
    effectiveBad (chan begunPaired 0) cfg0 33333333 = false ∧ (tabGet? begunPaired.fab.peers 2).isSome = true := by
  unfold accepted; decide +kernel

theorem meets_ChanClearStatusKey :
    accepted sChanClear (rq 63 []) up ∧ accepted sChanClear (rq 0 []) (chanIn .faulted) ∧
    accepted sChanClear (rq 0 []) (chanIn .stopping) ∧ accepted sChanClear (rq 0 []) (chanIn .running) ∧
    accepted sChanStatus (rq 63 []) up ∧
    (accepted sChanKey (rq 0 []) (chanIn .configured) ∧ (chan (chanIn .configured) 0).cfg = some cfg0) ∧
    accepted sChanKey (rq 0 []) (chanAs .running .gateway) ∧
    accepted sChanKey (rq 0 []) (chanIn .running) ∧ cfg0.role = .encode := by
  unfold accepted; decide +kernel

/-- A shadow that stops with the picture of capture time 0. -/
def shadowStops : State :=
  { later with chans := [(0, { Chan.idle with state := .stopping, cfg := some { cfg0 with role := .shadow }, stopPic := some 0 })] }

/-- Channel 0 runs and device time has passed a second; a modification waits for its picture. -/
def dueChan : State := { modPending with tim := later.tim }

theorem meets_CaptureInstantBeginsPicture :
    captureDue up (chan up 63) 0 = false ∧
    ((chan dueChan 0).cfg = some cfg0 ∧ captureDue dueChan (chan dueChan 0) 65536000000000 = true ∧
      cfg0.role ≠ .shadow ∧
      (chan dueChan 0).pending = some { index := 0x10, value := 1, effective := 1, acked := true } ∧
      1 ≤ 65536000000000 / 65536) ∧
    ((chan shadowStops 0).state = .stopping ∧ (chan shadowStops 0).stopPic = some 0 ∧
      slotEnd { cfg0 with role := .shadow } (0 * 65536) ≤ shadowStops.tim.now) ∧
    (chan up 0).state ≠ .stopping := by decide +kernel
/-! ### Hypotheses that can be met: inputs -/

/-- IN.CONFIGURE of input 127 as SDI 1080p60 on port 0. -/
def sdiReq : Req :=
  rq0 [tlv 0x0301 2 127, tlv 0x0302 1 0, tlv 0x0303 1 1,
    tlvF 0x0306 [(2, 1920), (2, 1080), (4, 60), (4, 1), (1, 2), (1, 10), (1, 0), (1, 0), (4, 0), (4, 0)],
    tlv 0x0307 1 16, tlv 0x0308 1 3]

/-- Input 127 is configured. -/
def sdiOk : State := run1 (execInConfigure sdiReq) up

/-- The same IN.CONFIGURE as `inReq`, of input 4, whose flow input 3 already has. -/
def inReq4 : Req := { inReq with tlvs := tlv 0x0301 2 4 :: inReq.tlvs.drop 1 }

/-- One flow of leg 0. -/
def flowTlv (port : Nat) : Tlv :=
  tlvF 0x0305 [(1, 0), (1, 0), (1, 0), (1, 96), (4, 0xEF000001), (4, 0x0A000001), (2, port), (2, 0), (4, 0), (2, 0xFFFF), (2, 0)]

/-- An input with 33 flows. -/
def inReq33 : Req := { inReq with tlvs := inReq.tlvs ++ (List.range 32).map fun n => flowTlv (6000 + n) }

/-- IN.POLICE of flow 0 of input 3 or another. -/
def policeReq (f : Nat) : Req :=
  rq0 [tlv 0x0320 2 f, tlvF 0x0321 [(1, 1), (1, 0), (1, 1), (1, 0), (4, 3000), (8, 1000), (8, 0), (4, 3000), (4, 0)]]

theorem meets_InputsAreSetAndReported :
    ((inputsOk linked ∧ accepted sInConfigure inReq linked ∧ tlvD inReq 0x0301 0 ≤ 127 ∧ inputBusy linked 3 = none ∧
      (inputFrom inReq).kind = 2 ∧ linkBad 2 (inputFrom inReq).link = false ∧
      sdiPortsBad linked 3 2 (inputFrom inReq).link (inputFrom inReq).sdiPorts = false ∧
      flowsBad linked 3 (inputFrom inReq) = false ∧ hasTlv inReq 0x0306 = true ∧
      formatBad 2 (tlvD inReq 0x0306 0) = false ∧ 1 ≤ (inputFrom inReq).ringFrames ∧
      (inputFrom inReq).ringFrames ≤ 16 ∧ (inputFrom inReq).sync ≤ 3 ∧ (inputFrom inReq).anc ≤ 15 ∧
      (inputFrom inReq).audioFlows = [] ∧ ((inputFrom inReq).flows.filter fun f => f.role = 2) = []) ∧
    (accepted sInConfigure inReq4 inOk ∧ inputBusy inOk 4 = none ∧ flowsBad inOk 4 (inputFrom inReq4) = true) ∧
    (accepted sInConfigure inReq33 linked ∧ 32 < (inputFrom inReq33).flows.length) ∧
    (accepted sInConfigure sdiReq up ∧ inputBusy up 127 = none ∧ (inputFrom sdiReq).kind = 0 ∧
      linkBad 0 (inputFrom sdiReq).link = false ∧ sdiPortsBad up 127 0 (inputFrom sdiReq).link (inputFrom sdiReq).sdiPorts = false ∧
      flowsBad up 127 (inputFrom sdiReq) = false ∧ formatBad 0 (tlvD sdiReq 0x0306 0) = false ∧
      (([1, 2, 3, 4, 5].any fun l => linkTakes l (formatOf (tlvD sdiReq 0x0306 0))) = true)) ∧
    (accepted sInConfigure inReq (chanIn .running) ∧ inputBusy (chanIn .running) 3 = some 0) ∧
    (accepted sInClear (rq0 [tlv 0x0301 2 3]) inOk ∧ (inputOf inOk 3).isSome = true ∧ inputBusy inOk 3 = none) ∧
    (accepted sInClear (rq0 [tlv 0x0301 2 3]) up ∧ inputOf up 3 = none)) ∧
    (accepted sInStatus (rq0 [tlv 0x0301 2 3]) inOk ∧ accepted sInStatus (rq0 [tlv 0x0301 2 3]) up ∧
      (accepted sInPolice (policeReq 96) inOk ∧ ((allFlows inOk).any fun e => e.1 = 96) = true ∧
        policerBad (tlvD (policeReq 96) 0x0321 0) 1500 = false) ∧
      (accepted sInPolice (policeReq 97) inOk ∧ ∀ e ∈ allFlows inOk, e.1 ≠ 97)) := by
  unfold accepted inputsOk; (repeat' apply And.intro) <;> decide +kernel

/-- A video packet of the flow of input 3. -/
def pkt0 : MediaPkt :=
  { iface := 0, proto := .rtp, dstIp := 0xEF000001, srcIp := 0x0A000001, dstPort := 5004, srcPort := 1, payloadType := 96,
    ssrc := 1, vlan := 0, dscp := 0, frameBytes := 1400, seq := 0, rtpTs := 0, marker := false,
    form := .lines false, segs := [{ line := 0, part := 0, parts := 4, carried := false, digest := 7 }], coded := none,
    digest := 0, anc := [], stamp := 0 }

/-- Interface 0 hears; a policer of one flow; a policer that has no tokens. -/
def hearing : State := run1 (execMniIfWrite 0 .cpuData 1 1) inOk
def starved : State :=
  { hearing with policers := [(96, { (policerOf (tlvD (policeReq 96) 0x0321 0) 0) with tokC := 0, redDrop := true })] }

/-- Interface 0 accepts only frames tagged 7. -/
def tagged : State := run1 (execMniIfWrite 0 .cpuData 1 0x10070001) inOk

/-- The flow of input 3. -/
def flow3 : Flow := flowOf (flowTlv 5004).val

theorem meets_MediaInterfacesFollowPort : regPath up .cpuData = true ∧
    (∃ n : Fin 8, n.val / 4 = 1 ∧ ifaceExists linked n.val = false) ∧ ifaceExists linked 0 = true := by decide +kernel

theorem meets_MediaPacketReachesItsFlow :
    ifaceHears up 0 = false ∧
    ((mniIf tagged 0).vlanEn = true ∧ pkt0.vlan ≠ (mniIf tagged 0).vlanId) ∧ vlanOk (mniIf hearing 0) pkt0 = true ∧
    (ifaceHears hearing 0 = true ∧ (mniIf hearing 0).vlanEn = false ∧
      filterFlow hearing { pkt0 with dstPort := 5005 } = none) ∧
    (filterFlow starved pkt0 = some (96, flow3) ∧ ifaceHears starved 0 = true ∧
      flow3.role = 0 ∧
      ((policerNow starved 96).map fun q => (police (nowNs starved) 1400 0 q).1) = some false) ∧
    (filterFlow hearing pkt0 = some (96, flow3) ∧ flow3.role = 0 ∧ policerNow hearing 96 = none ∧
      (inputOf hearing 3).isSome = true) := by
  (repeat' apply And.intro) <;> decide +kernel

/-- Input 3 is present and locked, last heard at 0, one second before. -/
def inLocked (f : Input → Input) : State :=
  { inOk with
    tim := { later.tim with state := 2 }
    inputs := inOk.inputs.map fun e => (e.1, f { e.2 with present := true, locked := true, prevGrid := some 58 }) }

/-- The same, absent since 0 with SYNC bit 1. -/
def absentLong : State := inLocked fun x => { x with present := false, locked := false, sync := 2 }

/-- The capture time of the picture of grid number 59 at 60 Hz, and input 3 with that picture complete. -/
def cap59 : Nat := gridTime (60, 1) 59
/-- A picture complete at its capture time. -/
def picDone (c : Nat) : RingPic :=
  { capture := c, lines := [], lacked := [], completedAt := some c, anc := [], ancSeqs := [], group := 0, direct := false }

def slotDue : State :=
  inLocked fun x => { x with
    writing := true, syncing := true, since := [cap59], lastSlot := some 58
    ring := [picDone cap59] }
def slotEmpty : State := inLocked fun x => { x with writing := true, syncing := true, lastSlot := some 58 }

theorem meets_InputTimersAndSynchroniser :
    (((inputOf (inLocked id) 3).map fun x => (x.kind, x.present, x.prevGrid, x.locked)) =
        some (2, true, some 58, true)) ∧
    (((inputOf (inLocked id) 3).map fun x => decide (x.lastPacket + absenceLimit (inLocked id) 3 x ≤ nowNs (inLocked id))) =
        some true) ∧
    (((inputOf inOk 3).map fun x => decide (nowNs inOk < x.lastPacket + absenceLimit inOk 3 x)) = some true) ∧
    (((inputOf sdiOk 127).map Input.kind) = some 0) ∧
    (((inputOf (inLocked id) 3).bind fun x => inputRate (inLocked id) 3 x) = some (60, 1)) ∧
    gridTime (60, 1) (58 + 2) ≤ (inLocked id).tim.now ∧
    (((inputOf absentLong 3).map fun x => (x.present, bitAt x.sync 1, x.absentAt)) = some (false, true, 0)) ∧
    0 + 1000000000 ≤ nowNs absentLong ∧
    (((inputOf slotDue 3).bind fun x => nextSlot (60, 1) x) = some 59) ∧
    (((inputOf slotDue 3).map fun x => (x.writing, x.syncing, x.since)) = some (true, true, [cap59])) ∧
    (((inputOf slotEmpty 3).map fun x => (x.writing, x.syncing, x.since)) = some (true, true, [])) ∧
    gridTime (60, 1) (59 + 1) ≤ slotDue.tim.now ∧ inOk.tim.now < gridTime (60, 1) (59 + 1) := by
  (repeat' apply And.intro) <;> decide +kernel

/-- The signal of 1080p60 on one 2.97 Gb/s link. -/
def sdiGood60 : SdiSignal :=
  .locked { rate := 1, div1001 := false, link := 2, number := 1, picture := tlvD sdiReq 0x0306 0, lineSamples := 1920,
            lineCount := 1080, skewNs := 0 }

/-- SDI port 0 is locked to its signal. -/
def sdiLive : State := run1 (execSdiSignalChange 0 sdiGood60) { sdiOk with tim := { later.tim with state := 2 } }

theorem meets_SdiSignalAndPictures :
    (((sdiInputs sdiLive).find? fun e => bitAt e.2.sdiPorts 0).map fun e =>
      (e.1, e.2.present, e.2.format.isSome, groupBase e.2 0)) = some (127, true, true, 0) ∧
    (((inputOf sdiLive 127).bind fun x => inputRate sdiLive 127 x) = some (60, 1)) ∧
    inputsOk sdiLive ∧ ((sdiInputs up).find? fun e => bitAt e.2.sdiPorts 7) = none ∧
    (((sdiInputs sdiOk).find? fun e => bitAt e.2.sdiPorts 0).map fun e => e.2.present) = some false ∧
    sdiLive.tim.state ≠ 0 := by
  unfold inputsOk; (repeat' apply And.intro) <;> decide +kernel
/-! ### Hypotheses that can be met: outputs and egress -/

/-- Every queue of port 0 below 255 is taken by output 6. -/
def noQueues : State :=
  { linked with outputs := [(6, { outputFrom outReq with
      legs := (List.range 255).map fun q => { legOf 0 with queue := q } })] }

/-- An output with a shaper of a rate in kb/s. -/
def outFast (o rate : Nat) : Req :=
  { outReq with tlvs := tlv 0x0401 2 o :: (outReq.tlvs.drop 1 ++ [tlvF 0x0406 [(4, rate), (4, 0), (8, 0)]]) }

/-- Output 6 has a shaper of 60 Gb/s on interface 0. -/
def fastOk : State := run1 (execOutConfigure (outFast 6 60000000)) linked

/-- OUT.CONFIGURE of output 5 with a kind, and SDI port. -/
def outKind (k p : Nat) : Req := rq0 [tlv 0x0401 2 5, tlv 0x0402 1 k, tlv 0x0403 1 p]

/-- OUT.CONFIGURE of output 5 to the unicast address 10.0.0.2. -/
def outUni : Req :=
  rq0 [tlv 0x0401 2 5, tlv 0x0402 1 3,
    tlvF 0x0404 [(1, 0), (1, 0), (1, 0), (1, 64), (4, 0x0A000002), (2, 5006), (2, 5006), (4, 77), (1, 96), (1, 0), (2, 0), (4, 0)]]

theorem meets_OutputsAreSetAndReported :
    ((accepted sOutConfigure outReq (chanIn .running) ∧ outputBusy (chanIn .running) 5 = some 0) ∧
    (accepted sOutConfigure (outKind 9 0) linked ∧ outputBusy linked 5 = none ∧ 8 < (outputFrom (outKind 9 0)).kind) ∧
    (accepted sOutConfigure (outKind 0 3) linked ∧ outPortsBad linked 5 0 3 = true) ∧
    (accepted sOutConfigure (outKind 8 0) linked ∧ outPortsBad linked 5 8 0 = false ∧
      legsBad 8 (tlvAll (outKind 8 0) 0x0404) = true) ∧
    (accepted sOutConfigure outReq noQueues ∧ takeQueues noQueues 5 [] (outputFrom outReq).legs = none ∧
      outputBusy noQueues 5 = none) ∧
    (accepted sOutConfigure (outFast 5 60000000) fastOk ∧ outputBusy fastOk 5 = none ∧
      hasTlv (outFast 5 60000000) 0x0406 = true ∧
      shaperTlvBad fastOk 5 (tlvD (outFast 5 60000000) 0x0406 0) (outputFrom (outFast 5 60000000)) = false ∧
      ((takeQueues fastOk 5 [] (outputFrom (outFast 5 60000000)).legs).map fun ls =>
        outRatesBad (freeQueues 5 fastOk) 5 { outputFrom (outFast 5 60000000) with legs := ls }) = some true) ∧
    (accepted sOutConfigure outReq linked ∧ tlvD outReq 0x0401 0 ≤ 127 ∧ outputBusy linked 5 = none ∧
      (outputFrom outReq).kind = 3 ∧ outPortsBad linked 5 3 (outputFrom outReq).ports = false ∧
      legsBad 3 (tlvAll outReq 0x0404) = false ∧ hasTlv outReq 0x0405 = false ∧ hasTlv outReq 0x0406 = false ∧
      hasTlv outReq 0x0408 = false ∧ audioFmtBad 3 1500 (outputFrom outReq).audioFmt = false ∧
      ((outputFrom outReq).legs.map Leg.mtu) = [1500] ∧
      ((takeQueues linked 5 [] (outputFrom outReq).legs).map fun ls =>
        outRatesBad (freeQueues 5 linked) 5 { outputFrom outReq with legs := ls }) = some false) ∧
    (accepted sOutConfigure outUni hearing ∧ outputBusy hearing 5 = none ∧ legsBad 3 (tlvAll outUni 0x0404) = false ∧
      ((outputFrom outUni).legs.map fun l => (isMulticast l.dstIp, ifaceHears hearing l.iface)) = [(false, true)] ∧
      ((takeQueues hearing 5 [] (outputFrom outUni).legs).map fun ls =>
        outRatesBad (freeQueues 5 hearing) 5 { outputFrom outUni with legs := ls }) = some false) ∧
    (accepted sOutClear (rq0 [tlv 0x0401 2 5]) (chanIn .running) ∧ (outputOf (chanIn .running) 5).isSome = true) ∧
    (accepted sOutClear (rq0 [tlv 0x0401 2 5]) ioOk ∧ (outputOf ioOk 5).isSome = true ∧ outputBusy ioOk 5 = none) ∧
    (accepted sOutClear (rq0 [tlv 0x0401 2 127]) ioOk ∧ outputOf ioOk 127 = none)) ∧
    (accepted sOutStatus (rq0 [tlv 0x0401 2 5]) ioOk ∧ accepted sOutStatus (rq0 [tlv 0x0401 2 127]) ioOk ∧
      (outputOf ioOk 5).isSome = true ∧ outputOf ioOk 127 = none) ∧
    ((outputOf ioOk 5).map fun x => x.legs.map fun l => (l.leg, isMulticast l.dstIp, l.arpAt)) = some [(0, true, none)] := by
  unfold accepted; (repeat' apply And.intro) <;> decide +kernel

/-- What holds of an idle channel and of every channel listed holds of the channel of every handle. -/
theorem chan_of_listed (P : Chan → Prop) (s : State) (hi : P Chan.idle) (h : ∀ e ∈ s.chans, P e.2) (k : Nat) :
    P (chan s k) := by
  unfold chan
  generalize s.chans = l at h
  induction l with
  | nil => exact hi
  | cons e l ih =>
    by_cases hk : e.1 = k
    · have := h e (by simp)
      simpa [tabGet, tabGet?, hk] using this
    · have := ih fun x hx => h x (by simp [hx])
      simpa [tabGet, tabGet?, hk] using this

/-- A picture of channel 0 with a complete unit of 500 bytes. -/
def unitDone : Picture := { Picture.new 0 with ordered := true, begun := true, units := [(500, 0)], slicesDone := 1 }

/-- Channel 0 has the picture, one second after its capture time. -/
def unitReady (st : ChanState) : State :=
  { ioOk with
    tim := later.tim
    chans := [(0, { Chan.idle with state := st, cfg := some cfg0, begun := [0], pics := [unitDone] })] }

theorem meets_UnitsEnterQueuesInOrder :
    (({ up with prt := { up.prt with stopped := true } } : State).prt.stopped = true ∧ (chan up 0).cfg = none) ∧
    ((chan (chanIn .running) 0).cfg = some cfg0 ∧ nextToSend (chan (chanIn .running) 0) cfg0 = none) ∧
    (nextToSend { Chan.idle with state := .running, pics := [{ unitDone with units := [] }] } cfg0 =
      some { unitDone with units := [] }) ∧
    ((chan (unitReady .running) 0).cfg = some cfg0 ∧ active (chan (unitReady .running) 0).state = true ∧
      group? (unitReady .running) 0 = none ∧ nextToSend (chan (unitReady .running) 0) cfg0 = some unitDone ∧
      mayEnqueue (unitReady .running) 0 cfg0 unitDone = true ∧ cfg0.outputs = [5] ∧
      ((outputOf (unitReady .running) 5).map fun x => (x.kind, x.legs.length)) = some (3, 1)) := by
  (repeat' apply And.intro) <;> decide +kernel

theorem meets_UnitsEnterQueuesInOrder_sdi : ∀ k p, p ∈ (chan (unitReady .running) k).pics → p.sdiDue = false := by
  intro k
  exact chan_of_listed (fun c => ∀ p, p ∈ c.pics → p.sdiDue = false) _ (by decide +kernel) (by decide +kernel) k

/-- The unit's packet stands in the queue of output 5, its launch time passed; interface 0 is enabled or not. -/
def queued (st : ChanState) (en : Bool) : State :=
  run1 (execMniIfWrite 0 .cpuData 1 (if en then 1 else 0)) (run1 (execUnitEnqueue 0) (unitReady st))

/-- The same while interface 0 still sends. -/
def lineBusy : State :=
  { queued .running true with tmg := { (queued .running true).tmg with ifBusyUntil := [(0, 65536000000001)] } }

theorem meets_EarliestEligibleHeadLeaves :
    (({ up with prt := { up.prt with stopped := true } } : State).prt.stopped = true ∧ earliestHead (readyHeads up 0) = none) ∧
    (((earliestHead (readyHeads (queued .starting true) 0)).map fun e => (e.2.2.chan, e.2.2.output,
        legSends (queued .starting true) e.2.2 0)) = some (0, 5, true) ∧
      (queued .starting true).prt.stopped = false ∧ (chan (queued .starting true) 0).cfg = some cfg0 ∧
      (chan (queued .starting true) 0).state = .starting ∧ group? (queued .starting true) 0 = none ∧
      (outputOf (queued .starting true) 5).isSome = true ∧ tabGet 0 (queued .starting true).tmg.ifBusyUntil 0 = 0 ∧
      (queued .starting true).evt.fifo = []) ∧
    (((earliestHead (readyHeads (lineBusy) 0)).map fun e => legSends lineBusy e.2.2 0) = some true ∧
      portNow lineBusy (0 / 4) < tabGet 0 lineBusy.tmg.ifBusyUntil 0) ∧
    (((earliestHead (readyHeads (queued .running false) 0)).map fun e => legSends (queued .running false) e.2.2 0) =
        some false ∧ (chan (queued .running false) 0).state = .running) := by
  (repeat' apply And.intro) <;> decide +kernel

theorem meets_EarliestEligibleHeadLeaves_all :
    (∀ k, (chan (queued .starting true) k).state ≠ .migrating) ∧
    ∀ k p, p ∈ (chan (queued .starting true) k).pics → p.sdiDue = false := by
  constructor <;> intro k
  · exact chan_of_listed (fun c => c.state ≠ .migrating) _ (by decide +kernel) (by decide +kernel) k
  · exact chan_of_listed (fun c => ∀ p, p ∈ c.pics → p.sdiDue = false) _ (by decide +kernel) (by decide +kernel) k
/-! ### Hypotheses that can be met: picture processing -/

/-- The default conversion with insertion on or off. -/
def pixSet (ins : Bool) : PixCfg :=
  { pixFrom (rq 0 []) (chanFormat ioOk cfg0) with insert := ins, path := some 0, share := 1 }

/-- Channel 0 with its picture processing, layers, in a state. -/
def pixChan (st : ChanState) (p : PixCfg) (ls : LayerSet) : State :=
  { ioOk with chans := [(0, { Chan.idle with state := st, cfg := some cfg0, pix := some p, layers := ls })] }

/-- A buffer of 2 MiB at 1 GiB. -/
def withBuf (s : State) : State := { s with mem := { s.mem with bufs := [(1, ⟨0x40000000, 0x200000⟩)] } }

/-- Coefficients: the first tap of each phase is 4,096 and the rest are 0. -/
def coefBytes : List Byte :=
  ((List.range 64).map fun _ => (0 : Byte) :: 0x10 :: List.replicate 14 0).flatten ++
    ((List.range 64).map fun _ => (0 : Byte) :: 0x10 :: List.replicate 10 0).flatten

/-- The buffer holds some bytes. -/
def bufHolding (bs : List Byte) : State :=
  { withBuf up with mem := { (withBuf up).mem with dram := memWrites [] 0x40000000 bs } }

theorem bufHolding_read (bs : List Byte) (n : Nat) (h : bs.length = n) :
    memReads (bufHolding bs).mem.dram 0x40000000 n = bs := by
  subst h
  exact memReads_memWrites (m := []) rfl 0x40000000 bs

theorem coefBytes_read : memReads (bufHolding coefBytes).mem.dram 0x40000000 1792 = coefBytes :=
  bufHolding_read coefBytes 1792 (by decide +kernel)

def loadReq (k s : Nat) : Req := rq0 [tlv 0x0520 1 k, tlv 0x0521 4 1, tlv 0x0522 1 s]

/-- An enabled layer, and a pending commit of layer 3 with an acquire fence. -/
def lit (fence : Nat) : Layer := { Layer.reset with enable := true, buf := 1, acqFence := fence, acqTarget := 1, relFence := 9 }
def staged1 : LayerSet := { LayerSet.reset with staged := [(0, lit 0xFFFF)] }
def pend (e : Nat) : LayerSet :=
  { LayerSet.reset with shown := [(3, lit 0xFFFF)], pending := some { layers := [(3, lit 5)], effective := e, open_ := false } }

theorem meets_PixelLayers_commands :
    (∀ st ∈ [ChanState.running, .configured], mustHold (rq 0 []) (chanIn st) = false ∧ (chanIn st).mbx.heldAdmits = []) ∧
    (accepted sPixConfigure (rq 0 []) (chanIn .running) ∧ (chan (chanIn .running) 0).cfg = some cfg0) ∧
    (accepted sPixConfigure (rq 0 [tlv 0x0501 1 4]) (chanIn .configured) ∧
      firstBad (pixChecks cfg0 (chanFormat ioOk cfg0) (pixFrom (rq 0 [tlv 0x0501 1 4]) (chanFormat ioOk cfg0))
        (rq 0 [tlv 0x0501 1 4])) = some 0x0501) ∧
    (accepted sPixConfigure (rq 0 []) (chanIn .configured) ∧
      firstBad (pixChecks cfg0 (chanFormat ioOk cfg0) (pixFrom (rq 0 []) (chanFormat ioOk cfg0)) (rq 0 [])) = none ∧
      ((placePath (chanIn .configured) 0 cfg0 (chanFormat ioOk cfg0) (pixFrom (rq 0 []) (chanFormat ioOk cfg0))).map
        fun q => decide (memBookedBut (chanIn .configured) 0 + chanMem { chan (chanIn .configured) 0 with
          ingestBudget := ingestBudgetOf cfg0 (inputOf ioOk 3) q } ≤ memBookable (chanIn .configured))) = some true) ∧
    (memBookable { chanIn .configured with mem := State.reset.mem } <
      memBookedBut { chanIn .configured with mem := State.reset.mem } 0 + chanMem { chan (chanIn .configured) 0 with
        ingestBudget := ingestBudgetOf cfg0 (inputOf ioOk 3) (pixSet true) }) ∧
    (accepted sPixLoad (loadReq 0 1) (withBuf up) ∧ slotUser (withBuf up) 0 1 = none ∧
      tabGet? (withBuf up).mem.bufs 1 = some ⟨0x40000000, 0x200000⟩ ∧ 215622 ≤ 0x200000) ∧
    (accepted sPixLoad (loadReq 0 16) (withBuf up)) ∧
    (slotUser (pixChan .running { pixSet true with lut := 1 } .reset) 0 1 = some 0) ∧
    (accepted sPixLoad (loadReq 1 2) (bufHolding coefBytes) ∧ coefsOk (coefsOf (byteNats coefBytes)) = true) ∧
    (accepted sPixLayer (rq 0 [tlv 0x0530 1 4]) up ∧ inserts up 0 = false) ∧
    (accepted sPixLayer (rq 0 [tlv 0x0530 1 3]) (pixChan .running (pixSet true) .reset) ∧
      inserts (pixChan .running (pixSet true) .reset) 0 = true) ∧
    (accepted sPixCommit (rq 0 [tlv 0x0540 1 1]) (pixChan .running (pixSet true) (pend 1))) ∧
    (accepted sPixCommit (rq 0 [tlv 0x0540 1 1]) (pixChan .running (pixSet true) staged1) ∧
      (pixCommitBad (pixChan .running (pixSet true) staged1) cfg0 [(0, lit 0xFFFF)]).isSome = true) ∧
    (accepted sPixCommit (rq 0 [tlv 0x0540 1 15]) (pixChan .running (pixSet true) .reset) ∧
      pixCommitBad (pixChan .running (pixSet true) .reset) cfg0 [] = none ∧
      hasTlv (rq 0 [tlv 0x0540 1 15]) 0x0541 = false ∧
      effectiveBad (chan (pixChan .running (pixSet true) .reset) 0) cfg0 1000000000 = false) ∧
    effectiveBad (chan begunAt0 0) cfg0 0 = true := by
  unfold accepted; (repeat' apply And.intro) <;> decide +kernel

/-- Fence 5 reads 1. -/
def fenced (s : State) : State := { s with pix := { s.pix with fences := [(5, 1)] } }

/-- Four other channels, each with the whole of a path. -/
def pathHolders : Tab Chan :=
  (List.range 4).map fun p => (p + 1, { Chan.idle with
    state := .configured, cfg := some cfg0, pix := some { pixSet false with path := some p, share := 8000000000 } })

/-- No path is free for channel 0. -/
def fullPaths : State :=
  { ioOk with chans := (0, { Chan.idle with state := .configured, cfg := some cfg0 }) :: pathHolders }

/-- Channel 0 as a shadow that inserts layers; its active has sent no checkpoint. -/
def mirroredPix : State :=
  { ioOk with
    chans := [(0, { Chan.idle with state := .running, cfg := some { cfg0 with role := .shadow }, pix := some (pixSet true) })]
    prt := { up.prt with groups := [(0, group0 1)] } }

/-- A release of fence 9 is due; fence 5 was written by a master in this cycle. -/
def releaseDue : Pix := { up.pix with releases := [(9, 1, 0)], wrote := [(5, 0, 0, true)] }

theorem meets_PixelLayers_latch :
    (inserts up 63 = false ∧ active (chan up 63).state = false) ∧
    (inserts (pixChan .running (pixSet true) (pend 1)) 0 = true ∧
      active (chan (pixChan .running (pixSet true) (pend 1)) 0).state = true ∧
      0 ≤ (pixChan .running (pixSet true) (pend 1)).tim.now ∧ capNs 0 < 1 ∧ group? (pixChan .running (pixSet true) (pend 1)) 0 = none) ∧
    (commitReady (fenced (pixChan .running (pixSet true) (pend 0))) 0 { layers := [(3, lit 5)], effective := 0, open_ := false } = true ∧
      0 ≤ capNs 0 ∧ composedBefore (chan (pixChan .running (pixSet true) (pend 0)) 0) 0 = true ∧
      replaced (pend 0) { layers := [(3, lit 5)], effective := 0, open_ := false } = [lit 0xFFFF] ∧ (lit 0xFFFF).relFence < 256) ∧
    commitReady (pixChan .running (pixSet true) (pend 0)) 0 { layers := [(3, lit 5)], effective := 0, open_ := false } = false ∧
    ((chan (pixChan .running (pixSet true) .reset) 0).pix = some (pixSet true) ∧ (pixSet true).path ≠ none ∧
      (chan (pixChan .running (pixSet true) .reset) 0).srcPics = [] ∧
      (inputOf (pixChan .running (pixSet true) .reset) 3).isSome = true ∧
      waitsCheckpoint (pixChan .running (pixSet true) .reset) 0 0 = false ∧ cfg0.role ≠ .transcode ∧
      (sourcePicture (slotDue) 0 cfg0 cap59).isSome = true) ∧
    waitsCheckpoint mirroredPix 0 0 = true ∧
    ((chan (chanAs .running .transcode) 0).cfg = some { cfg0 with role := .transcode } ∧
      (inputOf (chanAs .running .transcode) 3).isSome = true ∧
      inputOf { chanAs .running .transcode with inputs := [] } 3 = none) ∧
    (placePath fullPaths 0 cfg0 (chanFormat ioOk cfg0) { pixFrom (rq 0 []) (chanFormat ioOk cfg0) with outColour := 1, convert := 1 } = none) ∧
    ((releaseDue.releases.filter fun e => decide (e.2.2 ≤ up.tim.now)).length = 1 ∧
      (∀ e ∈ releaseDue.wrote, e.2.1 = up.tim.now ∧ e.2.2.2 = true) ∧ releaseDue.wrote.length + 1 ≤ 256 ∧
      (∀ e ∈ up.pix.wrote, e.2.1 ≠ up.tim.now)) ∧
    (regPath up .pcie = true ∧ regPath State.reset .mirror = false) := by
  (repeat' apply And.intro) <;> decide +kernel

/-- R220: a commit without EFFECTIVE takes the first picture's capture time that has come to its instant. -/
theorem test_open_commit_takes_first_picture :
    fixEffective 131072 { layers := [], effective := 1, open_ := true } = { layers := [], effective := 2, open_ := false } ∧
    fixEffective 0 { layers := [], effective := 1, open_ := true } = { layers := [], effective := 1, open_ := true } := by
  decide
/-! ### Hypotheses that can be met: the monitor and the drawing engine -/

/-- TIMING of 1080p60, 10 bits. -/
def timingTlv (w : Nat) : Tlv :=
  tlvF 0x0902 [(2, w), (2, 1080), (4, 60), (4, 1), (1, 10), (1, 0), (1, 0), (1, 0), (4, 0), (4, 0), (4, 0), (2, 203), (2, 0)]

def timing0 : Timing := timingOf (timingTlv 1920).val

def monReq (o w : Nat) : Req := rq0 [tlv 0x0901 1 o, timingTlv w]

/-- The monitor configured, in a state. -/
def monIn (st : Nat) : State := { later with mon := { up.mon with route := 5, timing := some timing0, state := st } }

/-- An SDI output 6 and a network output 7 with a shaper. -/
def monOuts : State :=
  run1 (execOutConfigure (rq0 [tlv 0x0401 2 7, tlv 0x0402 1 2, tlv 0x0405 1 0, outReq.tlvs.getD 2 (tlv 0 0 0),
    tlvF 0x0406 [(4, 4000000), (4, 9000), (8, 0)]])) (run1 (execOutConfigure (rq0 [tlv 0x0401 2 6, tlv 0x0402 1 0, tlv 0x0403 1 1])) linked)

/-- SDI port 0 is in port-off; the monitor on output 6 before its first frame. -/
def sdiOff (s : State) : State := { s with modes := { s.modes with portsOff := [.sdi 0] } }
def onSdi : State := { monOuts with mon := { up.mon with route := 6, timing := some timing0, state := 1 } }

/-- A pending commit of layer 19 with an acquire fence. -/
def monPend (e : Nat) : State :=
  { monIn 2 with mon := { (monIn 2).mon with layers := { LayerSet.reset with pending := some { layers := [(19, lit 5)], effective := e, open_ := false } } } }

/-- Every layer is staged as a 1:4 reduction of a picture of the buffer, or with an empty destination. -/
def bufLayer (w : Nat) : Layer :=
  { Layer.reset with enable := true, buf := 1, format := 3, pitch := 30720, src := [0, 0, 7680, 4320], dst := [0, 0, w, 1080] }
def monStaged (l : Layer) : State :=
  { monIn 2 with mem := { up.mem with bufs := [(1, ⟨0x40000000, 0x10000000⟩)] }
                 mon := { (monIn 2).mon with layers := { LayerSet.reset with staged := (List.range 20).map fun i => (i, l) } } }

/-- MON.COMMIT of some layers. -/
def monCommit (g : Nat) : Req := rq0 [tlv 0x0920 4 g]

theorem meets_MonitorOutputs_commands :
    (accepted sMonConfigure (monReq 6 1920) (monIn 1) ∧ (monIn 1).mon.state ≠ 0) ∧
    (accepted sMonConfigure (monReq 5 1920) ioOk ∧ routeBad ioOk 5 = true ∧ ioOk.mon.state = 0) ∧
    (accepted sMonConfigure (monReq 6 1921) monOuts ∧ routeBad monOuts 6 = false ∧ timingBad (timingTlv 1921).val = true) ∧
    (accepted sMonConfigure (monReq 7 1920) monOuts ∧ routeBad monOuts 7 = false ∧ timingBad (timingTlv 1920).val = false ∧
      ((outputOf monOuts 7).map fun x => (x.kind, x.legs.length, x.shaperRate, x.shaperBurst)) = some (2, 1, 4000000, 9000)) ∧
    (accepted sMonConfigure (monReq 6 1920) monOuts ∧ ((outputOf monOuts 6).map fun x => (x.kind, x.legs)) = some (0, []) ∧
      linkFor 1920 1080 60 1 false = some 2) ∧
    (accepted sMonConfigure (monReq 6 1920) (sdiOff monOuts) ∧ routeBad (sdiOff monOuts) 6 = false ∧
      routeOff (sdiOff monOuts) 6 = true ∧ routeOff monOuts 6 = false ∧ routeOff monOuts 7 = false) ∧
    (accepted sMonConfigure (monReq 255 1920) up ∧ routeBad up 255 = false ∧ outputOf up 255 = none) ∧
    (accepted sMonStart (rq0 []) up ∧ up.mon.timing = none) ∧
    (accepted sMonStart (rq0 []) (monIn 0) ∧ (monIn 0).mon.timing = some timing0 ∧ (monIn 0).mon.route ≠ 0xFF ∧
      (monIn 0).mon.state = 0 ∧ (monIn 0).modes.mode = .ready ∧ 0 < timing0.rateNum ∧ 0 < timing0.rateDen) ∧
    (accepted sMonStop (rq0 []) (monIn 1) ∧ (monIn 1).mon.state ≠ 2) ∧
    (accepted sMonStart (rq0 []) (sdiOff onSdi) ∧ routeOff (sdiOff onSdi) (sdiOff onSdi).mon.route = true) ∧
    (routeOff (monIn 0) (monIn 0).mon.route = false ∧ monOnSdi (monIn 1) = false) ∧
    (accepted sMonStop (rq0 []) onSdi ∧ onSdi.mon.state = 1 ∧ monOnSdi onSdi = true ∧ onSdi.mon.timing = some timing0) ∧
    (accepted sMonStop (rq0 []) (monIn 2) ∧ (monIn 2).mon.state = 2) ∧
    (accepted sMonLayer (rq0 [tlv 0x0910 1 20]) up ∧ accepted sMonLayer (rq0 [tlv 0x0910 1 19]) up) := by
  unfold accepted; (repeat' apply And.intro) <;> decide +kernel

theorem meets_MonitorOutputs_commit :
    (accepted sMonCommit (monCommit 1) (monPend 1) ∧ (monPend 1).mon.layers.pending.isSome = true) ∧
    (accepted sMonCommit (monCommit 0x100000) (monIn 0) ∧ (monIn 0).mon.layers.pending = none) ∧
    (accepted sMonCommit (monCommit 1) (monStaged (bufLayer 0)) ∧
      monCommitBad (monStaged (bufLayer 0)) timing0 [(0, bufLayer 0)] = some 0x0917) ∧
    (accepted sMonCommit (monCommit 0xFFFFF) (monStaged (bufLayer 1920)) ∧
      monCommitBad (monStaged (bufLayer 1920)) timing0 ((List.range 20).map fun i => (i, bufLayer 1920)) = none ∧
      loadBad (monStaged (bufLayer 1920)) timing0 ((List.range 20).map fun i => (i, bufLayer 1920)) = true) ∧
    (accepted sMonCommit (monCommit 1) (monStaged (bufLayer 1920)) ∧
      monCommitBad (monStaged (bufLayer 1920)) timing0 [(0, bufLayer 1920)] = none ∧
      loadBad (monStaged (bufLayer 1920)) timing0 [(0, bufLayer 1920)] = false) := by
  unfold accepted; (repeat' apply And.intro) <;> decide +kernel

/-- The monitor at its first frame, composing or not, with lines abandoned. -/
def monFrame (comp : Bool) (ab : Nat) : State :=
  { monIn 2 with mon := { (monIn 2).mon with nextFrame := 1, composing := comp, abandoned := ab, intEn := 15 } }

/-- It ends after the frame in progress. -/
def monEnding : State := { monFrame false 0 with mon := { (monFrame false 0).mon with stopping := true } }

theorem meets_MonitorOutputs_frames :
    (up.mon.timing = none ∧ up.mon.state = 0 ∧
      (monIn 2).tim.now < vblankAt timing0 61 ∧ vblankAt timing0 1 ≤ (monFrame false 0).tim.now) ∧
    (monEnding.mon.stopping = true ∧ monEnding.mon.state ≠ 0 ∧ monEnding.mon.abandoned = 0 ∧
      vblankAt timing0 monEnding.mon.nextFrame ≤ monEnding.tim.now) ∧
    ((monPend 0).mon.layers.pending = some { layers := [(19, lit 5)], effective := 0, open_ := false } ∧
      vblankAt timing0 (monPend 0).mon.nextFrame ≤ (monPend 0).tim.now ∧ (monPend 0).mon.stopping = false ∧
      0 ≤ capNs (vblankAt timing0 0) ∧ commitReady (monPend 0) (vblankAt timing0 0) { layers := [(19, lit 5)], effective := 0, open_ := false } = false ∧
      commitReady (fenced (monPend 0)) (vblankAt timing0 0) { layers := [(19, lit 5)], effective := 0, open_ := false } = true) ∧
    (timing0.height ≤ 1080 ∧ (monIn 0).mon.state = 0) ∧
    (1079 < timing0.height ∧ 0 < (monFrame true 0).mon.nextFrame ∧ lineAt timing0 0 1079 ≤ (monFrame true 0).tim.now ∧
      (monFrame true 0).mon.composing = true ∧ max (monFrame true 0).mon.composed (min 1079 1080) ≤ 1079 ∧
      1079 < max (monFrame true 0).mon.composed (min 2000 timing0.height) ∧ 0 = (monFrame true 0).mon.match_) ∧
    ((monFrame true 3).mon.composing = true ∧ (monFrame true 3).mon.abandoned ≠ 0 ∧
      bitAt (monFrame true 3).mon.intEn 2 = true ∧ bitAt (monFrame true 3).mon.intEn 3 = true) ∧
    (regPath up .pcie = true ∧ regPath State.reset .mirror = false) := by
  (repeat' apply And.intro) <;> decide +kernel

/-- The drawing engine is enabled with one descriptor: an operation on a block in format 3 at 1 GiB and 64 MiB, from
1 GiB and 128 MiB, with fence 255. -/
def drawing (op w h : Nat) : State :=
  { up with
    mon := { up.mon with drawBase := 0x14000, drawHead := 1, drawEn := true, timing := some timing0 }
    mem := { up.mem with dram := memWrites [] 0x50000000 (natBytes (
      u8 op ++ u8 3 ++ u16 0 ++ u16 w ++ u16 h ++ u64 0x44000000 ++ u32 64 ++ u32 64 ++ u64 0x48000000 ++ u32 0x11223344 ++
      u32 0 ++ u32 255 ++ u32 77)) } }

/-- A second after its start; and so with some pixels left of DRAW_CAP. -/
def drawLater (op w h : Nat) : State := { drawing op w h with tim := later.tim }
def drawCapped (n : Nat) : State :=
  { drawLater 1 2 1 with mon := { (drawLater 1 2 1).mon with drawUsed := drawCap (drawLater 1 2 1) - n * 4 } }

/-- The budget of the drawing engine's activity is spent. -/
def drawSpent : State :=
  { drawing 1 2 1 with ledger := { up.ledger with mcUsed := [(actMonitor, 0x7FFFFFFFFFFF)] } }

theorem meets_DrawingEngineDescriptors :
    (regPath up .pcie = true ∧ (256 * 65536 : Word32).toNat / 65536 % 512 = 256 ∧
      (257 * 65536 : Word32).toNat / 65536 % 512 = 257) ∧
    (up.mon.drawEn = false) ∧ (drawSpent.mon.drawEn = true ∧ spent drawSpent actMonitor = true) ∧
    ((drawing 1 2 1).mon.drawEn = true ∧ (drawing 1 2 1).mon.drawHead ≠ (drawing 1 2 1).mon.drawTail ∧
      spent (drawing 1 2 1) actMonitor = false ∧ drawAllowance (tailDesc (drawing 1 2 1)) (drawing 1 2 1) = 0 ∧
      (1 : Nat) ≤ drawAllowance (tailDesc (drawing 1 2 1)) (drawLater 1 2 1) ∧
      2 * 1 - (drawLater 1 2 1).mon.drawPos ≤ drawAllowance (tailDesc (drawing 1 2 1)) (drawLater 1 2 1) ∧
      drawAllowance (tailDesc (drawing 1 2 1)) (drawCapped 1) < 2 * 1 ∧
      0 < drawAllowance (tailDesc (drawing 1 2 1)) (drawCapped 1) ∧
      (drawing 1 2 1).mon.drawUsed ≤ drawCap (drawing 1 2 1) ∧ skipReason (drawing 1 2 1) (tailDesc (drawing 1 2 1)) = none ∧
      (tailDesc (drawing 1 2 1)).op = 1 ∧ (tailDesc (drawing 1 2 1)).fence = 255 ∧ memWf (drawing 1 2 1).mem.dram = true) ∧
    (skipReason (drawing 4 2 1) (tailDesc (drawing 4 2 1)) = some 1 ∧ (tailDesc (drawing 4 2 1)).op ≠ 0) ∧
    (tailDesc (drawing 0 2 1)).op = 0 ∧
    (skipReason (drawing 2 1 1) (tailDesc (drawing 2 1 1)) = none ∧ (tailDesc (drawing 2 1 1)).op = 2 ∧
      (tailDesc (drawing 2 1 1)).width = 1 ∧ (tailDesc (drawing 2 1 1)).height = 1 ∧ (drawing 2 1 1).mem.poison = []) := by
  (repeat' apply And.intro) <;> decide +kernel
/-! ### Hypotheses that can be met: device time -/

/-- Device time one second in, with two domain slots and a state. -/
def timed (st : Nat) (a b : Domain) : State := { linked with tim := { later.tim with state := st, domains := [a, b] } }

def heard0 : Heard :=
  { msg := { domain := 127, port := 0, priority1 := 1, clockClass := 6, accuracy := 0, variance := 0, priority2 := 1,
             identity := 7, stepsRemoved := 0, logInterval := 0, receiptTimeout := some 3 }
    at_ := 1000000000 }

/-- A Sync of domain 127 on media port 0, stamped an offset (ns) after its origin of 0.9 s. -/
def sync0 (two : Bool) (off : Nat) : SyncMsg :=
  { domain := 127, source := 0, identity := 7, seq := 1, twoStep := two, origin := 900000000, correction := 0,
    stamp := (900000000 + off) * 4, logInterval := -3 }

/-- The Sync that a slot of the tests took last, offset 0. -/
def taken0 : SyncMsg := stamped (sync0 false 0)

/-- Slot 0 follows that master, in a state. -/
def dom0 (st good bad : Nat) : Domain :=
  { Domain.reset 127 0 with
    state := st, identity := 7, good := good, bad := bad, heard := [heard0], lastSync := some taken0
    timeoutNs := 1 }

def dom1 (st : Nat) : Domain := { Domain.reset 0 1 with state := st }

theorem meets_TimeCommands :
    accepted sTimeStatus (rq0 []) up ∧
    (accepted sTimeConfigure (rq0 [tlv 0x0610 2 0x80]) up ∧ up.tim.domains.length = 2 ∧ 127 < fieldAt 0x80 0 1) ∧
    (accepted sTimeConfigure (rq0 [tlv 0x0610 2 0x7F7F]) up ∧ fieldAt 0x7F7F 0 1 ≤ 127 ∧ fieldAt 0x7F7F 1 1 ≤ 127) ∧
    (accepted sTimeSelect (rq0 [tlv 0x0601 1 2]) up) ∧
    (accepted sTimeSelect (rq0 [tlv 0x0601 1 1]) up ∧ (domOf up 1).state ≠ 3) ∧
    (accepted sTimeSelect (rq0 [tlv 0x0601 1 0]) (timed 1 (dom0 3 0 0) (dom1 1)) ∧
      (domOf (timed 1 (dom0 3 0 0) (dom1 1)) 0).state = 3 ∧ (timed 1 (dom0 3 0 0) (dom1 1)).tim.state ≠ 0 ∧
      (timed 1 (dom0 3 0 0) (dom1 1)).ctl.restart.active = false) ∧
    (accepted sTimeIo (rq0 [tlv 0x0620 1 4]) up ∧ accepted sTimeIo (rq0 [tlv 0x0620 1 3, tlv 0x0621 1 4]) up ∧
      accepted sTimeIo (rq0 [tlv 0x0620 1 3, tlv 0x0621 1 3]) up) := by
  unfold accepted; (repeat' apply And.intro) <;> decide +kernel

/-- The same with fabric port 0 in service and sixteen delays measured, and slot 0 unheard. -/
def fabTimed : State :=
  { timed 0 (dom1 1) (dom1 1) with
    fab := { up.fab with
      ports := [(0, { FPort.reset with state := 4, delays := List.replicate 16 400 })]
      mcast := [(1, 256)] }
    tim := { (timed 0 (dom1 1) (dom1 1)).tim with domains := [Domain.reset 127 0, dom1 1] } }

/-- Media port 0 is in port-off. -/
def mpOff : State := { up with modes := { up.modes with portsOff := [.media 0] } }

/-- A packet of a type, for a node. -/
def fabPkt (dest type vc : Nat) (body : FabBody) : FabPkt :=
  { dest := dest, src := 2, vc := Fin.ofNat 4 vc, type := type, length := 8, seq := 0, hops := 8, mcast := false
    resent := false, first := true, last := true, cls := 0, dr := false, group := 0, level := 0, tag := 0, arg := 0
    received := 8, reservedSet := false, route := [], back := [], activity := 256, body := body }

/-- A Sync of domain 127 in a packet of group 1. -/
def timePkt (two : Bool) : FabPkt := { fabPkt 0 3 0 (.sync (sync0 two 0) 0) with mcast := true, group := 1 }

theorem meets_DomainsFollowMasters_sync :
    (State.reset.modes.mode = .boot ∧ mediaHears linked 0 = true ∧ { sync0 true 0 with logInterval := 0 }.logInterval > -1 ∧
      -7 ≤ (sync0 true 0).logInterval ∧ (sync0 true 0).logInterval ≤ -1) ∧
    (let s := timed 1 (dom0 2 14 0) (dom1 1)
     s.modes.mode ≠ .boot ∧ mediaHears s 0 = true ∧ s.tim.domains.length = 2 ∧ slotsOf s 127 = [0] ∧
      (domOf s 0).identity = (sync0 true 0).identity ∧ (domOf s 0).source = (sync0 true 0).source.val ∧
      (domOf s 0).heard ≠ [] ∧ (sync0 true 0).twoStep = true) ∧
    ((dom0 2 14 0).state = 2 ∧ (dom0 2 14 0).lastSync ≠ none ∧ (dom0 2 14 0).good < 15 ∧
      (offsetOf (dom0 2 14 0) (stamped (sync0 false 99))).natAbs < 100 * 4294967296) ∧
    (100 * 4294967296 ≤ (offsetOf (dom0 2 14 0) (stamped (sync0 false 100))).natAbs) ∧
    ((offsetOf (dom0 2 15 0) (stamped (sync0 false 99))).natAbs < 100 * 4294967296 ∧ 15 ≤ (dom0 2 15 0).good) ∧
    ((timed 0 (dom0 2 15 0) (dom1 1)).tim.state = 0 ∧ (domOf (timed 0 (dom0 2 15 0) (dom1 1)) 1).state ≠ 5 ∧
      activeCount (timed 0 (dom0 2 15 0) (dom1 1)) = 0 ∧
      0 < activeCount { timed 0 (dom0 2 15 0) (dom1 1) with chans := (chanIn .running).chans }) ∧
    ((dom0 3 0 14).state = 3 ∧ (offsetOf (dom0 3 0 14) (stamped (sync0 false 10000))).natAbs ≤ 10000 * 4294967296) ∧
    (10000 * 4294967296 < (offsetOf (dom0 3 0 15) (stamped (sync0 false 10001))).natAbs ∧ (dom0 3 0 14).bad < 15 ∧
      15 ≤ (dom0 3 0 15).bad) := by
  (repeat' apply And.intro) <;> decide +kernel

theorem meets_DomainsFollowMasters_rest :
    (let s := timed 1 { dom0 2 0 0 with lastSync := none, syncPend := some (sync0 true 0) } (dom1 1)
     s.modes.mode ≠ .boot ∧ slotsOf s 127 = [0] ∧ (domOf s 0).syncPend = some (sync0 true 0) ∧ (domOf s 0).state = 2 ∧
      (domOf s 0).lastSync = none ∧ (sync0 true 0).source.val < 2 ∧ mediaHears s 0 = true) ∧
    (announceOk heard0.msg = true ∧ announceOk { heard0.msg with receiptTimeout := some 11 } = false ∧
      slotsOf linked 127 = [0] ∧ (domOf linked 0).heard = [] ∧ (domOf linked 0).state = 1) ∧
    (tracksMedia (dom0 3 0 0) = true ∧ mediaHears (timed 1 (dom0 3 0 0) (dom1 1)) (dom0 3 0 0).source = true ∧
      tracksMedia (dom1 1) = false) ∧
    ({ dom0 2 0 0 with reqT3 := some 5 }.reqT3 = some 5 ∧ (dom0 2 0 0).lastSync = some taken0 ∧
      mediaHears (timed 1 (dom0 2 0 0) (dom1 1)) (dom0 2 0 0).source = true ∧ mediaHears mpOff 0 = false) ∧
    ((dom0 3 0 0).lastAnnounce + (dom0 3 0 0).timeoutNs ≤ nowNs (timed 1 (dom0 3 0 0) (dom1 3)) ∧ (dom0 3 0 0).source ≠ 2 ∧
      (dom1 3).state = 3 ∧ (dom1 1).state ≠ 3 ∧ (dom1 1).state ≠ 5) ∧
    (linkUp up 7 = false ∧ linkUp fabTimed 0 = true ∧ slotsOf fabTimed 127 = [0] ∧
      (fport fabTimed 0).delays.length = 16 ∧ heardOnMedia fabTimed 0 = false ∧ (domOf fabTimed 0).state = 1 ∧
      heardOnMedia (timed 1 { dom0 2 0 0 with timeoutNs := 2000000000 } (dom1 1)) 0 = true) ∧
    ([127].contains (dom0 3 0 0).number = true ∧ (dom0 3 0 0).source < 2 ∧ (dom0 2 0 0).state ≠ 3 ∧
      { dom0 3 0 0 with lastReq := some 1000000000 }.lastReq = some 1000000000 ∧
      nowNs (timed 1 (dom0 3 0 0) (dom1 1)) < 1000000000 + intervalNs (dom0 3 0 0).reqInterval) ∧
    (headerBad (timePkt true) = false ∧ (timePkt true).level ≤ linkLevel (fport fabTimed 0) ∧
      bitAt (tabGet 0 fabTimed.fab.mcast (timePkt true).group) 8 = true) := by
  (repeat' apply And.intro) <;> decide +kernel

theorem meets_DeviceTimeLatchesAndStamps :
    (regPath up .cpuData = true ∧ regPath up .mirror = false) ∧
    ({ up.tim with selected := some 0, state := 3 }.selected = some 0 ∧ (dom0 3 0 0).ahead.natAbs < 4294967296 ∧
      4294967296 ≤ { dom0 3 0 0 with ahead := -4294967296 }.ahead.natAbs) ∧
    (up.tim.state = 0 ∧ (domOf up 0).state ≠ 5 ∧ (domOf up 1).state ≠ 5) ∧
    ((timed 0 (dom0 5 0 0) (dom1 1)).tim.state = 0 ∧ activeCount (timed 0 (dom0 5 0 0) (dom1 1)) = 0 ∧
      (domOf (timed 0 (dom0 5 0 0) (dom1 1)) 0).state = 5) ∧
    (up.tim.ppsDir = 2 ∧ up.tim.refDir = 2 ∧ { up.tim with ppsDir := 1 }.ppsDir = 1) ∧
    (linkUp up 7 = false ∧ linkUp fabTimed 0 = true ∧ (fport fabTimed 0).delays.length ≤ 16 ∧ portState fabTimed 0 ≠ 0 ∧
      (fport { fabTimed with fab := { fabTimed.fab with ports := [(0, { FPort.reset with state := 4 })] } } 0).delays.length ≤ 15) := by
  (repeat' apply And.intro) <;> decide +kernel

/-- A copy has the path delay that firmware measured, and that long has passed. -/
theorem meets_DeviceTimeLatchesAndStamps_copy :
    let c : TimeCopy := { TimeCopy.reset with delay := Config.pathDelay 0 }
    let s : State := { up with tim := { up.tim with now := Config.pathDelay 0, copies := [c] } }
    s.tim.copies[0]? = some c ∧ c.delay = Config.pathDelay 0 ∧ Config.pathDelay 0 ≤ s.tim.now :=
  ⟨rfl, rfl, Nat.le_refl _⟩
/-! ### Hypotheses that can be met: fabric ports -/

/-- A usable lane in service. -/
def liveLane : Lane := { Lane.reset with active := true, deskewed := true, commaOk := true, lock := true, usable := true }

/-- Port 0 as given, a second after reset. -/
def withPort (f : FPort) : State := { later with fab := { up.fab with ports := [(0, f)] } }

/-- Port 0 in a state with four lanes alike. -/
def portIn (st : Nat) (l : Lane) : State := withPort { FPort.reset with state := st, ckLocked := true, lanes := List.replicate 4 l }

def fabPortReq (p w : Nat) : Req := rq0 [tlv 0x0710 1 p, tlv 0x0711 1 w]

/-- A page of unicast entries from node 5 on: three entries in a TLV of 4,060 bytes. -/
def pageVal (kind : Nat) : Nat := ofLe (u32 9 ++ u16 0 ++ u8 kind ++ u8 0 ++ u16 5 ++ u16 3 ++ u8 0 ++ u8 0 ++ u16 0 ++ u16 0x80 ++ u16 0x81 ++ u16 0x2080)
def routeReq (kind : Nat) (last : List Tlv) : Req :=
  { rq0 (tlv 0x0730 4060 (pageVal kind) :: last) with path := .fabric, node := 1 }

theorem meets_FabricCommands :
    accepted sFabStatus (rq0 []) up ∧
    (accepted sFabPort (fabPortReq 8 0) up ∧ accepted sFabPort (fabPortReq 7 3) up) ∧
    (accepted sFabPort (fabPortReq 7 2) { up with flt := { up.flt with retired := [.fabPort 7] } } ∧
      fabOn { up with flt := { up.flt with retired := [.fabPort 7] } } 7 = false) ∧
    (accepted sFabPort (fabPortReq 0 2) (inMode .service) ∧ fabOn (inMode .service) 0 = true) ∧
    (accepted sFabPort (fabPortReq 0 2) (portIn 4 liveLane) ∧ fabOn (portIn 4 liveLane) 0 = true ∧
      (fport (portIn 4 liveLane) 0).devKeep = false ∧ (fport (portIn 4 liveLane) 0).hostOff = false ∧
      linkUp (portIn 4 liveLane) 0 = true) ∧
    (accepted sFabPort (fabPortReq 0 1) (portIn 4 liveLane) ∧ portState (portIn 4 liveLane) 0 = 4 ∧
      (fport (portIn 4 liveLane) 0).replay = []) ∧
    (accepted sFabPort (fabPortReq 0 0) (portIn 5 liveLane) ∧ portState (portIn 5 liveLane) 0 = 5) ∧
    ((withPort { FPort.reset with hostOff := true }).modes.relocking = [] ∧
      fabOn (withPort { FPort.reset with hostOff := true }) 0 = true) ∧
    (tlvAll (rq0 []) 0x0730 = [] ∧ accepted sFabRoute { routeReq 0 [] with tlvs := [] } up) ∧
    (accepted sFabPort (fabPortReq 0 0) (withPort { FPort.reset with hostOff := true })) ∧
    (accepted sFabPriority (rq0 [tlv 0x0720 1 255]) up ∧ (∀ c ∈ up.fab.cands, c.uid ≠ up.fuses.uid)) ∧
    (accepted sFabRoute (routeReq 2 []) up ∧ tlvAll (routeReq 2 []) 0x0730 = [pageVal 2] ∧ pageBad up (pageVal 2) = true) ∧
    (accepted sFabRoute (routeReq 0 []) up ∧ pageBad up (pageVal 0) = false ∧ getTlv (routeReq 0 []) 0x0731 = none ∧
      up.fab.pages = []) ∧
    (accepted sFabRoute (routeReq 0 [tlv 0x0731 4 1]) up ∧ getTlv (routeReq 0 [tlv 0x0731 4 1]) 0x0731 = some 1 ∧
      (pageOf (pageVal 0)).page = 0 ∧ (pageOf (pageVal 0)).kind = 0) := by
  unfold accepted; (repeat' apply And.intro) <;> decide +kernel

/-- Lanes in deskew. -/
def deskewing : State := portIn 3 { liveLane with active := false, deskewed := false }

theorem meets_LinkBringUpAndWidth :
    (portState up 0 = 1 ∧ portState (portIn 4 liveLane) 0 = 4) ∧
    (portState (portIn 1 .reset) 0 = 1 ∧ (fport (portIn 1 .reset) 0).ckLocked = true ∧
      (fport (portIn 1 .reset) 0).lanes.length = 4 ∧ (portIn 1 .reset).ctl.fwRunning = true) ∧
    ((0x80000000 : Word32).getLsbD 31 = true ∧ (0x80000000 : Word32).getLsbD 30 = false ∧
      (laneAt deskewing 0 3).lock = true ∧ (laneAt deskewing 0 3).active = false ∧
      (laneAt (portIn 4 liveLane) 0 3).active = true ∧ (0x40000000 : Word32).getLsbD 30 = true ∧
      (1 : Word32).getLsbD 0 = true) ∧
    (portState deskewing 0 = 3 ∧ (fport deskewing 0).lanes.length = 4 ∧ (∀ l ∈ (fport deskewing 0).lanes, l.deskewed = false) ∧
      (laneAt deskewing 0 0).usable = true ∧ (laneAt deskewing 0 0).commaOk = true) ∧
    (portState (portIn 3 liveLane) 0 = 3 ∧ bestSet (usableMap (fport (portIn 3 liveLane) 0)) 0 = 0 ∧
      bestSet (usableMap (fport (portIn 3 liveLane) 0)) 15 = 15 ∧ bestSet (usableMap (fport (portIn 3 liveLane) 0)) 12 = 12) ∧
    (linkUp (portIn 4 liveLane) 0 = true ∧ laneCount 12 ≤ laneCount (activeMap (fport (portIn 4 liveLane) 0)) ∧
      (laneAt (portIn 4 liveLane) 0 0).active = true) ∧
    (portState (portIn 6 liveLane) 0 ≠ 3 ∧ linkUp (portIn 6 liveLane) 0 = false ∧ portState (portIn 6 liveLane) 0 ≠ 0 ∧
      portState (withPort { FPort.reset with hostOff := true }) 0 = 0) := by
  (repeat' apply And.intro) <;> decide +kernel

/-- A fabric packet to a node. -/
def fpkt (dest : Nat) : FabPkt :=
  { fabPkt dest 8 1 .plain with seq := 3, hops := 0, level := 1, activity := 0 }

/-- Port 0 is UP with frame 0xFFFF not yet acknowledged, and some resends already made. -/
def replaying (n : Nat) : State :=
  withPort { FPort.reset with state := 4, replay := [(0xFFFF, fpkt 5)], resendsNoAck := n, sinceAck := 15, powerWant := none }

theorem meets_LinkReplayCreditsAndPower :
    (linkUp up 7 = false ∧ linkUp (replaying 0) 0 = true ∧ 65536 % 65536 = (fport (replaying 0) 0).rxSeq ∧
      32768 ≤ (65535 % 65536 + 65536 - (fport (replaying 0) 0).rxSeq) % 65536 ∧
      (1 % 65536 + 65536 - (fport (replaying 0) 0).rxSeq) % 65536 < 32768) ∧
    ((fport (replaying 0) 0).vcq = [] ∧ (fport (replaying 0) 0).powerWant = none ∧
      ((fport (replaying 0) 0).replay.filter fun e =>
        decide (0 < (e.1 + 65536 - 0xFFFE % 65536) % 65536 ∧ (e.1 + 65536 - 0xFFFE % 65536) % 65536 < 32768)).length = 1 ∧
      ((fport (replaying 0) 0).replay.filter fun e =>
        decide (0 < (e.1 + 65536 - 0xFFFF % 65536) % 65536 ∧ (e.1 + 65536 - 0xFFFF % 65536) % 65536 < 32768)).length = 0) ∧
    (((fport (replaying 7) 0).replay.filter fun e => decide ((e.1 + 65536 - 0xFFFF % 65536) % 65536 < 32768)) ≠ [] ∧
      (fport (replaying 7) 0).resendsNoAck < 8 ∧ 8 ≤ (fport (replaying 8) 0).resendsNoAck ∧
      (fport (replaying 7) 0).ackedAt + 8000 ≤ nowNs (replaying 7) ∧ (fport (replaying 7) 0).replay ≠ []) ∧
    (0 < (fport (replaying 0) 0).sinceAck ∧ (fport (replaying 0) 0).credits.length = 8 ∧
      (fport (portIn 4 liveLane) 0).sinceAck = 0) ∧
    (portState (withPort { FPort.reset with state := 4, powerWant := some 1 }) 0 = 4 ∧
      portState (withPort { FPort.reset with state := 5, powerWant := some 0 }) 0 = 5 ∧ portState (replaying 0) 0 = 4) := by
  (repeat' apply And.intro) <;> decide +kernel

/-- Unit 15 as given. -/
def withCv (c : Cv) : State := { up with fab := { up.fab with cvs := [(15, c)] } }

/-- The budget of its activity is spent. -/
def cvSpent : State :=
  { withCv { Cv.reset with busy := true } with ledger := { up.ledger with mcUsed := [(cvActivity 15, 0x7FFFFFFFFFFF)] } }

theorem meets_CheckValueUnits :
    (cvMaster 0 .pcie = false ∧ cvMaster 15 .pcie = true ∧ (cvAt up 0).bound = true ∧ cvMaster 0 .cpuData = true) ∧
    ((cvAt (withCv { Cv.reset with busy := true }) 15).busy = true ∧ (cvAt (withCv { Cv.reset with busy := true }) 15).bound = false) ∧
    (cvMaster 15 .pcie = true ∧ (cvAt (withCv { Cv.reset with srcAddr := 1073741824, srcLen := 9 }) 15).busy = false ∧
      1073741824 + 9 ≤ memTop (withCv .reset) ∧ 1073741823 < 1073741824 ∧
      (0x80000000 : Word32).getLsbD 31 = true ∧ (0x80000000 : Word32).getLsbD 30 = false ∧ (0x40000000 : Word32).getLsbD 30 = true ∧
      memTop (withCv .reset) < 137438953472 + 1) ∧
    (spent (withCv { Cv.reset with busy := true }) (cvActivity 15) = false ∧ spent cvSpent (cvActivity 15) = true ∧
      (cvAt cvSpent 15).busy = true) ∧
    (up.mem.poison = [] ∧ 1073741824 < (16777216 + 1) * 64 ∧ 16777216 * 64 < 1073741824 + 9) := by
  (repeat' apply And.intro) <;> decide +kernel
/-! ### Hypotheses that can be met: discovery, addresses and routing -/

/-- Firmware manages the fabric as node 1; node 9 is assigned to an identifier; a unicast entry for node 5. -/
def managing (entry : Nat) (port : FPort) : State :=
  { withPort port with fab := { (withPort port).fab with
      reports := [{ uid := 77, valid := true, node := 9, level := 2, dormant := false, locked := [], path := [], ports := [] }]
      manager := true, valid := true, node := 1, assigned := [(1, 0), (9, 77)], ucast := [(5, entry)] } }

/-- A candidate that has named itself since 0, and is not in office. -/
def candidate : State := { later with fab := { up.fab with selfSince := some 0 } }

/-- A CHAN.CONFIGURE waits for a booking since 0. -/
def waitsBooking (s : State) : State :=
  { s with fab := { s.fab with wantBooking := some { slot := 0, opcode := 0x0201, req := chanReq0, accepted := 0, redo := false } } }

/-- Node 9 has been out of reach since a time (ns). -/
def lostFor (since : Nat) : State :=
  { managing 0 .reset with fab := { (managing 0 .reset).fab with lostSince := [(9, since)] } }

/-- Port 0 of this module and port 0 of node 9 face each other with four lanes. -/
def paired : State :=
  { managing 0 { FPort.reset with state := 4, peerUid := 77, peerPort := 0, lanes := List.replicate 4 liveLane } with
    fab := { (managing 0 { FPort.reset with state := 4, peerUid := 77, peerPort := 0,
                                            lanes := List.replicate 4 liveLane }).fab with
      reports := [{ uid := 77, valid := true, node := 9, level := 2, dormant := false, locked := [], path := []
                    ports := [{ state := 4, lanes := 4, peerUid := 0, peerPort := 0 }] }] } }

theorem meets_ElectionRoutingAndNodes :
    (linkUp up 7 = false ∧ linkUp (replaying 0) 0 = true ∧ up.fuses.uid ≠ 5 ∧ (∀ c ∈ (replaying 0).fab.cands, c.uid ≠ 5)) ∧
    (candidate.fab.selfSince = some 0 ∧ candidate.ctl.fwRunning = true ∧ candidate.fab.manager = false ∧
      ownCandidate candidate = true ∧ 0 + 20000000 ≤ nowNs candidate) ∧
    ((managing 0 .reset).fab.manager = true ∧ up.fab.manager = false ∧ (managing 0 .reset).ctl.fwRunning = true ∧
      (managing 0 .reset).fab.valid = true ∧ (managing 0 .reset).fab.node = 1 ∧ (managing 0 .reset).evt.fifo = []) ∧
    (headerBad { fpkt 5 with reservedSet := true } = true ∧ linkLevel (fport up 0) < 3 ∧ headerBad (fpkt 5) = false ∧
      (fpkt 5).level ≤ linkLevel (fport up 0)) ∧
    (bitAt (tabGet 0 (managing 0x2080 .reset).fab.ucast 5) 13 = true ∧
      tabGet? (managing 0x2080 .reset).fab.rx (2 * 4 + 1) = none ∧ 32768 ≤ (3 + 65536 - 4 % 65536) % 65536) ∧
    (bitAt (tabGet 0 up.fab.ucast 5) 13 = false ∧ bitAt (tabGet 0 up.fab.ucast 5) 7 = false) ∧
    (bitAt (tabGet 0 (managing 0x80 { FPort.reset with state := 4, credits := List.replicate 8 0 }).fab.ucast 5) 7 = true ∧
      portTakes (managing 0x80 { FPort.reset with state := 4, credits := List.replicate 8 0 }) 1 (bitsAt 0x80 0 3) = true ∧
      (fport (managing 0x80 { FPort.reset with state := 4, credits := List.replicate 8 0 }) (bitsAt 0x80 0 3)).credits =
        List.replicate 8 0) ∧
    ((fpkt 5).hops < 31 ∧ (inMode .dormant).modes.mode = .dormant ∧ (fpkt 5).vc ≠ 0 ∧ up.modes.mode ≠ .dormant ∧
      (fpkt 5).src ≠ (managing 0 .reset).fab.node ∧ (fpkt 5).type ≠ 5 ∧ (fpkt 5).type ≠ 6 ∧ (fpkt 5).mcast = false ∧
      31 ≤ { fpkt 5 with hops := 31 }.hops) ∧
    (headerBad { fpkt 5 with vc := 0, type := 5, dr := true, route := [0] } = false ∧
      { fpkt 5 with route := [0] }.route[(fpkt 5).hops + 1]? = none ∧ (fpkt 5).tag ≠ 2) ∧
    ((managing 0 .reset).fab.lostSince = [] ∧ State.reset.ctl.fwRunning = false ∧
      tabGet? (lostFor 0).fab.lostSince 9 = some 0 ∧ 0 + 10000000 ≤ nowNs (lostFor 0) ∧
      nowNs (lostFor 999999999) < 999999999 + 10000000) ∧
    (addrOf (assignAddrs (managing 0 .reset).fab.assigned (allNodes (managing 0 .reset))) 0 = some 1 ∧
      addrOf (assignAddrs (managing 0 .reset).fab.assigned (allNodes (managing 0 .reset))) 77 = some 9 ∧
      ((allNodes (managing 0 .reset)).any fun m => decide (m.uid = 77)) = true) ∧
    (up.fab.wantBooking = none ∧ (waitsBooking later).mbx.heldAdmits = [] ∧
      (waitsBooking later).fab.bookingSince + 10000000 ≤ nowNs (waitsBooking later) ∧
      nowNs (waitsBooking up) < (waitsBooking up).fab.bookingSince + 10000000) ∧
    ((managing 0 .reset).fab.assigned.find? (fun e => decide (e.1 = 9)) = some (9, 77) ∧ 77 ≠ (managing 0 .reset).fuses.uid ∧
      linkedTo (managing 0 .reset) 77 = false ∧
      linkedTo (managing 0 { FPort.reset with state := 4, peerUid := 77 }) 77 = true) := by
  (repeat' apply And.intro) <;> decide +kernel

/-- Node 9, at the far end of port 0, has room for a booking or not. -/
theorem meets_ElectionRoutingAndNodes_booking :
    routePath (topoOf paired.fab.assigned (allNodes paired)) 31 1 9 ≠ [] ∧
    (∀ np ∈ routePath (topoOf paired.fab.assigned (allNodes paired)) 31 1 9,
      bookedAt paired.fab.bookings np + 1 ≤ bookableAt paired paired.fab.assigned np.1 np.2) ∧
    ∃ np ∈ routePath (topoOf paired.fab.assigned (allNodes paired)) 31 1 9,
      bookableAt paired paired.fab.assigned np.1 np.2 < bookedAt paired.fab.bookings np + 1000000000000 := by
  refine ⟨?_, ?_, ?_⟩ <;> decide +kernel
/-! ### Hypotheses that can be met: protection -/

/-- Channel 0 in a state and role with a group, on node 1 or 2 of a fabric whose manager is node 1. -/
def grouped (st : ChanState) (role : Role) (node : Nat) (gs : Tab Group) : State :=
  { ioOk with
    tim := later.tim
    fab := { up.fab with valid := true, node := node, office := some (1, 0) }
    chans := [(0, { Chan.idle with state := st, cfg := some { cfg0 with role := role } })]
    prt := { up.prt with groups := gs } }

/-- PROT.CONFIGURE of channel 0: role, active, shadow, witness and source. -/
def protReq (role a sh w src : Nat) : Req :=
  rq 0 [tlv 0x0801 1 role, tlv 0x0802 2 a, tlv 0x0803 2 sh, tlv 0x0804 2 w, tlv 0x0805 1 1, tlv 0x0806 1 src]

theorem meets_ProtectionCommands_group :
    (accepted sProtConfigure (protReq 2 1 2 3 0) (chanIn .configured) ∧ mustHold (protReq 2 1 2 3 0) (chanIn .configured) = false ∧
      (chanIn .configured).mbx.heldAdmits = [] ∧ mustHold (protReq 0 1 2 511 0) (grouped .configured .encode 1 []) = false) ∧
    (accepted sProtConfigure (protReq 1 1 2 3 0) (chanIn .configured) ∧ roleFits (chanIn .configured) 0 1 = false) ∧
    (accepted sProtConfigure (protReq 0 1 2 3 0) (grouped .running .encode 1 [(0, group0 0)]) ∧
      roleFits (grouped .running .encode 1 [(0, group0 0)]) 0 0 = true ∧
      group? (grouped .running .encode 1 [(0, group0 0)]) 0 ≠ none) ∧
    (accepted sProtConfigure (protReq 0 1 2 3 0) (chanIn .configured) ∧ roleFits (chanIn .configured) 0 0 = true ∧
      (chanIn .configured).fab.valid = false ∧ group? (chanIn .configured) 0 = none) ∧
    (accepted sProtConfigure (protReq 1 1 2 3 1) (grouped .configured .shadow 2 []) ∧
      roleFits (grouped .configured .shadow 2 []) 0 1 = true ∧ (groupFrom (protReq 1 1 2 3 1) up).source = 1 ∧
      cfg0.input ≠ 0xFFFF ∧ (groupFrom (protReq 1 1 2 3 0) up).source = 0 ∧ (grouped .configured .shadow 2 []).fab.node = 2) ∧
    (accepted sProtConfigure (protReq 0 1 2 511 0) (grouped .configured .encode 1 []) ∧
      (groupFrom (protReq 0 1 2 511 0) up).witness ≤ 511 ∧ (groupFrom (protReq 0 1 2 511 0) up).peerChannel ≤ 63 ∧
      (grouped .configured .encode 1 []).fab.office ≠ none ∧
      memBookedBut (grouped .configured .encode 1 []) 0 + chanMem { chan (grouped .configured .encode 1 []) 0 with
        mirrorBudget := mirrorBudgetOf cfg0, fabBudget := mirrorBudgetOf cfg0 } ≤ memBookable (grouped .configured .encode 1 [])) ∧
    (memBookable { grouped .configured .encode 1 [] with mem := State.reset.mem } <
      memBookedBut { grouped .configured .encode 1 [] with mem := State.reset.mem } 0 +
        chanMem { chan (grouped .configured .encode 1 []) 0 with
          mirrorBudget := mirrorBudgetOf cfg0, fabBudget := mirrorBudgetOf cfg0 }) ∧
    (({ grouped .configured .encode 1 [] with fab := { up.fab with valid := true, node := 1 } } : State).fab.office = none) ∧
    accepted sProtStatus (rq 0 []) (chanIn .configured) ∧
    (accepted sProtDissolve (rq 0 []) (chanIn .configured) ∧ group? (chanIn .configured) 0 = none) ∧
    (accepted sProtDissolve (rq 0 []) (grouped .running .encode 1 [(0, { group0 0 with state := 4 })])) ∧
    (accepted sProtDissolve (rq 0 []) (grouped .running .encode 1 [(0, group0 0)]) ∧
      group? (grouped .running .encode 1 [(0, group0 0)]) 0 = some (group0 0) ∧ (group0 0).state ≠ 4) ∧
    (accepted sProtDissolve (rq 0 []) (grouped .running .shadow 2 [(0, group0 1)]) ∧
      group? (grouped .running .shadow 2 [(0, group0 1)]) 0 = some (group0 1) ∧ (group0 1).role = 1) := by
  unfold accepted; (repeat' apply And.intro) <;> decide +kernel

/-- A request of a fabric peer. -/
def peerReq (node : Nat) (ts : List Tlv) : Req := { rq 0 ts with path := .fabric, node := node }

/-- A PROT.JOIN with any digest passes the checks before its work. -/
theorem join_form (d : Nat) (hd : d < 256 ^ 48) :
    formBad sProtJoin (peerReq 2 [tlv 0x0830 48 d, tlv 0x0831 2 0]) = none := by
  have h : ¬ 256 ^ 48 ≤ d := by omega
  have h2 : firstBadTlv sProtJoin [] [tlv 0x0830 48 d, tlv 0x0831 2 0] = none := by
    have e : tlvBad sProtJoin [] (tlv 0x0830 48 d) = decide (256 ^ 48 ≤ d) := by
      have z : sizeOf? sProtJoin { tag := 0x0830, len := 48, val := d } = some 48 := rfl
      have b : bitsAt 0x0830 12 3 = 0 := rfl
      unfold tlvBad tlv
      rw [z]
      simp [b]
    have e2 : tlvBad sProtJoin [0x0830] (tlv 0x0831 2 0) = false := by decide +kernel
    have e3 : baseTag (tlv 0x0830 48 d).tag = 0x0830 := rfl
    simp only [firstBadTlv, e, e3, e2, h, decide_false]
    rfl
  have f : flagsBad sProtJoin (peerReq 2 [tlv 0x0830 48 d, tlv 0x0831 2 0]) = false := by
    simp [flagsBad, checkOnly, peerReq, rq]
  have g : channelBad sProtJoin (peerReq 2 [tlv 0x0830 48 d, tlv 0x0831 2 0]) = false := rfl
  have m : missingTlv sProtJoin (peerReq 2 [tlv 0x0830 48 d, tlv 0x0831 2 0]) = none := rfl
  have l : (peerReq 2 [tlv 0x0830 48 d, tlv 0x0831 2 0]).tlvs = [tlv 0x0830 48 d, tlv 0x0831 2 0] := rfl
  simp only [formBad, f, g, l, h2, m]
  rfl

theorem join_accepted (d : Nat) (hd : d < 256 ^ 48) (s : State) (hf : s.ctl.fwRunning = true)
    (ht : testing s = false) (hm : s.modes.mode = .ready) :
    accepted sProtJoin (peerReq 2 [tlv 0x0830 48 d, tlv 0x0831 2 0]) s := by
  refine ⟨hf, ?_, by simp [checkOnly, peerReq, rq]⟩
  have a : mayIssue .fabric sProtJoin.opcode = true := by decide +kernel
  have b : (specOf 3 sProtJoin.opcode).isNone = false := by decide +kernel
  have e : sProtJoin.modes.contains Mode.ready = true := by decide +kernel
  have r : (peerReq 2 [tlv 0x0830 48 d, tlv 0x0831 2 0]).rev = 3 := rfl
  have q : (peerReq 2 [tlv 0x0830 48 d, tlv 0x0831 2 0]).path = .fabric := rfl
  have f := join_form d hd
  unfold precheck
  rw [r, q, a, b, f, hm, e, ht]
  rfl

theorem meets_ProtectionCommands_join (d : Nat) (hd : d < 256 ^ 48) :
    accepted sProtJoin (peerReq 2 [tlv 0x0830 48 d, tlv 0x0831 2 0]) (grouped .running .encode 1 [(0, group0 0)]) ∧
    tlvD (peerReq 2 [tlv 0x0830 48 d, tlv 0x0831 2 0]) 0x0830 0 = d ∧ (group0 0).shadow = 2 ∧
    (grouped .running .encode 1 [(0, group0 0)]).hif.detClass = 0 := by
  refine ⟨join_accepted d hd _ ?_ ?_ ?_, rfl, rfl, ?_⟩ <;> decide +kernel

/-- So it passes with the digest of the channel itself. -/
theorem digest_fits (s : State) (h : Nat) : (cfgDigest s h).toNat < 256 ^ 48 :=
  Nat.lt_of_lt_of_eq (cfgDigest s h).isLt (by decide +kernel)

/-- The shadow on node 2, with a setting pending or not; a setting of the active. -/
def settingShadow (p : Option PendingMod) : State :=
  { grouped .running .shadow 2 [(0, group0 1)] with
    chans := [(0, { Chan.idle with state := .running, cfg := some { cfg0 with role := .shadow }, pending := p })] }
def settingReq : Req := peerReq 1 [tlv 0x0210 8 1, tlv 0x0824 8 2000000000]

def handReq (peer pic : Nat) : Req := rq 0 [tlv 0x0820 2 peer, tlv 0x0821 8 pic]

theorem meets_ProtectionCommands_setting :
    (accepted sProtSetting settingReq (settingShadow none) ∧ (group0 1).active = settingReq.node ∧
      ((settingReq.tlvs.map fun t => baseTag t.tag).filter fun t => settingTags.contains t) = [0x0210] ∧
      nowNs (settingShadow none) + capNs (periodT { cfg0 with role := .shadow }) ≤ tlvD settingReq 0x0824 0 ∧
      accepted sProtSetting settingReq (settingShadow (some { index := 1, value := 1, effective := 1, acked := true }))) ∧
    (accepted sProtHandover (handReq 2 5) (grouped .migrating .encode 1 []) ∧
      accepted sProtHandover (handReq 2 5) (grouped .configured .encode 1 []) ∧
      accepted sProtHandover (handReq 512 5) (grouped .running .encode 1 []) ∧
      accepted sProtHandover (handReq 1 5) (grouped .running .encode 1 [])) ∧
    (accepted sProtHandover (handReq 511 33333332) begunAt0 ∧ effectiveBad (chan begunAt0 0) cfg0 33333332 = true ∧
      effectiveBad (chan begunAt0 0) cfg0 33333333 = false) ∧
    (accepted sProtHandover (peerReq 2 [tlv 0x0820 2 1, tlv 0x0821 8 5]) (grouped .configured .encode 1 []) ∧
      anyOff (grouped .configured .encode 1 []) (chanPorts (grouped .configured .encode 1 []) cfg0) = false ∧
      peerMismatch (handoverCfg (grouped .configured .encode 1 []) cfg0) (some (handoverCfg ioOk cfg0)) 0 = none ∧
      peerMismatch (handoverCfg (grouped .configured .encode 1 []) cfg0)
        (some { handoverCfg ioOk cfg0 with delayNs := cfg0.delayNs + 1 }) 0 = some 0x020C ∧
      acceptedAt (peerReq 2 []) (grouped .configured .encode 1 []) + capNs (periodT cfg0) ≤ 2000000000 ∧
      cfg0.role = .encode ∧ 5 < acceptedAt (peerReq 2 []) (grouped .configured .encode 1 []) + capNs (periodT cfg0)) ∧
    (waitFor up 2 0x0803 0 = none) := by
  unfold accepted; (repeat' apply And.intro) <;> decide +kernel

/-- A command waits on node 2 for channel 0. -/
def waiting (s : State) (op limit : Nat) : State :=
  { s with mbx := { s.mbx with peerWaits := [{ node := 2, opcode := op, channel := 0, since := 0, req := some (handReq 2 5), limit := limit }] } }

theorem meets_ProtectionCommands_answers :
    ((waitFor (waiting (grouped .running .encode 1 []) 0x0806 5) 2 0x0806 0).isSome = true ∧ 0 < stTimeout) ∧
    ((waitFor (waiting (grouped .running .encode 1 [(0, group0 1)]) 0x0805 5) 2 0x0805 0).isSome = true ∧
      group? (waiting (grouped .running .encode 1 [(0, group0 1)]) 0x0805 5) 0 = some (group0 1)) ∧
    (waitFor (waiting (grouped .migrating .encode 1 []) 0x0803 5) 2 0x0803 0 =
        handoverWait (waiting (grouped .migrating .encode 1 []) 0x0803 5) 0 ∧
      (handoverWait (waiting (grouped .migrating .encode 1 []) 0x0803 5) 0).isSome = true ∧
      (waiting (grouped .migrating .encode 1 []) 0x0803 5).modes.mode ≠ .drain) ∧
    ((waitFor (waiting up 0x0101 5) 2 0x0101 0).isSome = true ∧
      ([tlv 0x0107 2 3].find? fun x => decide (x.tag = 0x0107)) = some (tlv 0x0107 2 3)) ∧
    (5 < nowNs (waiting (grouped .running .encode 1 []) 0x0806 5) ∧
      nowNs (waiting (grouped .running .encode 1 []) 0x0806 2000000000) ≤ 2000000000) ∧
    (nowNs (waiting (grouped .migrating .encode 1 []) 0x0803 5) < 2000000000 ∧
      1000000000 ≤ nowNs (waiting (grouped .migrating .encode 1 []) 0x0803 1000000000)) := by
  (repeat' apply And.intro) <;> decide +kernel
/-! ### Hypotheses that can be met: heartbeats, leases, mirror and takeover -/

/-- A lease message of the group of channel 0 of node 1 with channel 1 or 0 of node 2, witness 3. -/
def lmsg (ach sch epoch : Nat) : LeaseMsg :=
  { activeNode := 1, activeCh := ach, shadowCh := sch, shadowNode := 2, witness := 3, epoch := epoch, slice := 0, reason := 0,
    timeA := 3000000000, timeB := 0 }

/-- A witness entry for channel 0 of node 1, heard at a time. -/
def wit (heardAt : Nat) : Witness :=
  { activeNode := 1, activeCh := 0, shadowNode := 2, shadowCh := 1, epoch := 1, heard := some heardAt, heardAt := heardAt,
    shadowHeardAt := heardAt, through := 0, lastH := 0, suspected := false, granted := false, yielded := false,
    released := none, silentSince := none, renewedAt := none }

def witnessing (w : Witness) : State := { later with prt := { up.prt with witnesses := [(witnessKey 1 0, w)] } }

def centry (role st : Nat) : CroakEntry := { activeNode := 1, activeCh := 0, role := role, state := st, through := 5 }
def cmsg (sender : Nat) (e : CroakEntry) : CroakMsg :=
  { sender := sender, mode := 4, part := 0, parts := 1, sendTime := 1, entries := [e] }

/-- Every place for a witness entry is taken. -/
def fullWitness : State :=
  { later with prt := { up.prt with witnesses := (List.range 256).map fun n => (64 * 4 + n, wit 0) } }

/-- A checkpoint and a mirror record of the active. -/
def cp0 : Checkpoint :=
  { format := 1, activeCh := 1, lastSlice := false, keyPicture := false, refreshStart := false, rcFloor := false, slice := 0,
    slices := 4, capture := 0, codingNo := 0, gopPos := 0, gopLen := 1, sliceBytes := 10, pictureBytes := 10,
    bucketT := { fill := 0, rate := 0 }, bucketA := { fill := 0, rate := 0 }, sinceBp := 0, lastKey := 0, lastHashReset := 0,
    refreshCol := 0, refreshLeft := 0, reqKey := 0, reqKeyCause := 0, modIndex := 0, modValue := 0, modEffective := 0,
    handoverPeer := 0xFFFF, handoverPicture := 0, layerEffective := [], outputs := [(0, [0, 0, 0, 0, 0])], plan := 0 }
def rec0 (ok : Bool) : MirrorRec :=
  { node := 1, ch := 0, checkpoint := cp0, units := [(500, 0)], digest := 0, intact := ok, decodeFlag := 0 }

/-- A shadow that has the source since its group began and codes again. -/
def shadowCodes : Group := { group0 1 with reencoding := true, checkpoint := some cp0 }

theorem meets_HeartbeatsAndLeases_heard :
    ((cmsg 1 (centry 0 2)).entries = [centry 0 2] ∧ (witnessing (wit 0)).prt.groups = [] ∧
      witness? (witnessing (wit 0)) 1 0 = some (wit 0) ∧ (wit 0).activeNode = (cmsg 1 (centry 0 2)).sender) ∧
    ((grouped .running .shadow 2 [(1, { group0 1 with peerChannel := 0 })]).prt.witnesses = [] ∧
      (centry 0 2).activeCh = activeHandle 1 { group0 1 with peerChannel := 0 } ∧ (group0 1).active = 1 ∧
      (group0 1).shadow ≠ 1 ∧ (group0 1).witness ≠ 1 ∧ (group0 1).activeSilent = false) ∧
    ((centry 1 2).activeCh = activeHandle 0 (group0 0) ∧ (group0 0).shadow = (cmsg 2 (centry 1 2)).sender ∧
      (group0 0).active ≠ 2 ∧ (centry 1 2).state ≠ 4 ∧ (centry 1 4).state = 4 ∧ (group0 0).yielded = false) ∧
    (heardFrom { group0 1 with activeHeard := some 999900000 } 1 + 200000 > nowNs later ∧
      heardFrom { group0 1 with activeHeard := some 999800000 } 1 + 200000 ≤ nowNs later ∧
      heardFrom { group0 0 with shadowHeard := some 0 } 2 + 200000 ≤ nowNs later ∧ (group0 0).shadowSilent = false) ∧
    (seeks (grouped .running .shadow 2 [(0, { shadowCodes with activeSilent := true, wasProtected := true })]) 0
      { shadowCodes with activeSilent := true, wasProtected := true } = true ∧
      seeks (grouped .running .shadow 2 []) 0 (group0 1) = false) := by
  (repeat' apply And.intro) <;> decide +kernel

/-- The timers that keep each member to its rate, and what a shadow's replica lacks. -/
theorem meets_HeartbeatsAndLeases_timers :
    (nowNs later < 999950001 + 50000 ∧ 999950000 + 50000 ≤ nowNs later ∧ nowNs later < 999750001 + 250000 ∧
      999750000 + 250000 ≤ nowNs later) ∧
    ({ up.prt with croakAt := some 999950001 }.croakAt = some 999950001 ∧ up.prt.croakAt = none ∧
      { shadowCodes with suspectAt := some 999950001 }.suspectAt = some 999950001 ∧ shadowCodes.suspectAt = none ∧
      { wit 0 with renewedAt := some 999750001 }.renewedAt = some 999750001 ∧ (wit 0).renewedAt = none) ∧
    (replicaOk (grouped .running .shadow 2 [(0, shadowCodes)]) 0 shadowCodes = true ∧
      replicaOk (grouped .running .shadow 2 [(0, group0 1)]) 0 (group0 1) = false ∧ (group0 1).joined = true) ∧
    ({ lmsg 1 0 1 with timeA := 0 }.timeA = 0 ∧ (lmsg 1 0 1).timeA ≠ 0 ∧ (lmsg 1 0 1).shadowCh = 0 ∧
      active (chan (grouped .running .shadow 2 [(0, group0 1)]) 0).state = true) := by
  (repeat' apply And.intro) <;> decide +kernel

theorem meets_HeartbeatsAndLeases_witness :
    (tabGet? (witnessing (wit 0)).prt.witnesses (witnessKey (lmsg 0 1 0).activeNode (lmsg 0 1 0).activeCh) = some (wit 0) ∧
      (lmsg 0 1 0).epoch < (wit 0).epoch) ∧
    (tabGet? (inMode .drain).prt.witnesses (witnessKey 1 0) = none ∧ (inMode .drain).modes.mode = .drain) ∧
    (tabGet? fullWitness.prt.witnesses (witnessKey 1 0) = none ∧ 256 ≤ fullWitness.prt.witnesses.length ∧
      fullWitness.modes.mode = .ready ∧ up.prt.witnesses.length < 256) ∧
    (({ up with prt := { up.prt with stopped := true } } : State).prt.stopped = true) ∧
    ((witnessing (wit 999900000)).prt.witnesses = [(witnessKey 1 0, wit 999900000)] ∧
      nowNs (witnessing (wit 999900000)) < (wit 999900000).heardAt + 200000 ∧ (wit 999900000).granted = false ∧
      (wit 999900000).released = none ∧ (witnessing (wit 0)).prt.stopped = false ∧
      (wit 999800000).heardAt + 200000 ≤ nowNs (witnessing (wit 999800000))) ∧
    ((lmsg 0 1 1).epoch = (wit 0).epoch ∧ (lmsg 0 1 2).epoch ≠ (wit 0).epoch) ∧
    ({ wit 999800000 with suspected := true, lastH := 999900000 }.lastH + 100000 ≤ nowNs later ∧
      999800000 + 200000 ≤ nowNs later ∧ witness? (witnessing { wit 0 with suspected := true }) 1 0 =
        some { wit 0 with suspected := true }) ∧
    (990000000 + 10000000 ≤ nowNs later ∧ { wit 0 with released := some 990000000 }.released = some 990000000 ∧
      (wit 0).silentSince = none) := by
  (repeat' apply And.intro) <;> decide +kernel

theorem meets_HeartbeatsAndLeases_lease :
    ((grouped .running .encode 1 [(0, group0 0)]).prt.groups = [(0, group0 0)] ∧ (group0 0).active = (lmsg 0 1 1).activeNode ∧
      (group0 0).shadow = (lmsg 0 1 1).shadowNode ∧ (lmsg 0 1 1).epoch = (group0 0).epoch ∧
      (lmsg 0 1 1).witness = (group0 0).witness ∧ (lmsg 0 1 1).activeCh = 0 ∧ (lmsg 1 0 1).shadowCh = 0 ∧
      nowNs (grouped .running .encode 1 [(0, group0 0)]) < (lmsg 0 1 1).timeA) ∧
    ({ group0 0 with alts := [4] }.triedAlts = 0 ∧ { group0 0 with alts := [4] }.alts.getD 0 0xFFFF ≠ 0xFFFF) ∧
    (nowNs later < 999999999 + 1000000 ∧ 999000000 + 1000000 ≤ nowNs later ∧
      group? (grouped .running .encode 1 [(0, { group0 0 with leaseReq := some 999000000 })]) 0 =
        some { group0 0 with leaseReq := some 999000000 }) ∧
    (nowNs later < 1000000001 ∧ 1000000000 ≤ nowNs later ∧
      { group0 0 with leaseH := some 1000000000 }.leaseH = some 1000000000 ∧ (group0 0).fenced = false) := by
  (repeat' apply And.intro) <;> decide +kernel

/-- Channel 0 waits for CONTINUE of node 2 with a handover picture. -/
def continuing (pic : Nat) : State :=
  { grouped .starting .encode 1 [] with
    chans := [(0, { Chan.idle with state := .starting, cfg := some cfg0, continueDue := true, handoverPeer := some 2, handoverPic := pic })] }

theorem meets_MirrorTakeoverAndContinue :
    ((group0 1).role = 1 ∧ (group0 1).joined = true ∧ (group0 1).active = (rec0 true).node ∧ (group0 1).state ≠ 4 ∧
      active (chan (grouped .starting .shadow 2 [(0, group0 1)]) 0).state = true ∧ (rec0 false).intact = false ∧
      (rec0 true).intact = true ∧ group? (grouped .starting .shadow 2 [(0, group0 1)]) 0 = some (group0 1) ∧
      (group0 0).role ≠ 1) ∧
    ({ group0 1 with source := 1 }.source = 1 ∧ (group0 1).source ≠ 1) ∧
    ((lmsg 1 0 1).shadowCh = 0 ∧ { group0 1 with state := 4 }.state = 4 ∧
      { group0 0 with newWitness := some 3 }.newWitness = some (lmsg 0 1 2).witness ∧ (lmsg 0 1 2).epoch = (group0 0).epoch + 1 ∧
      (lmsg 0 1 2).reason = 0) ∧
    ((lmsg 1 0 1).epoch = shadowCodes.epoch ∧ (lmsg 1 0 1).witness = shadowCodes.witness ∧ shadowCodes.reencoding = true ∧
      sourceHolds (grouped .running .shadow 2 [(0, shadowCodes)]) 0 shadowCodes { cfg0 with role := .shadow } = true ∧
      (chan (grouped .running .shadow 2 [(0, shadowCodes)]) 0).handoverPeer = none) ∧
    (groupOfMsg (grouped .running .encode 1 [(0, group0 0)]) 1 (lmsg 0 1 1) = none ∧ (group0 0).yielded = false) ∧
    (witness? (grouped .running .shadow 2 [(0, group0 1)]) 1 1 = none) ∧
    ((witnessing (wit 0)).prt.groups = [] ∧ witness? (witnessing (wit 0)) 1 0 = some (wit 0) ∧ (wit 0).granted = false) ∧
    ((chan (continuing 0) 0).state = .starting ∧ (chan (continuing 0) 0).continueDue = true ∧
      (chan (continuing 0) 0).handoverPeer = some 2 ∧ cfg0.outputs = [5] ∧ (outputOf (continuing 0) 5).isSome = true ∧
      ns 0 + ns cfg0.delayNs ≤ (continuing 0).tim.now ∧ (continuing 0).tim.now < ns 1000000000 + ns cfg0.delayNs) := by
  (repeat' apply And.intro) <;> decide +kernel
/-! ### Hypotheses that can be met: audio -/

/-- Serial audio port 7 as given, a second after reset. -/
def withSap (x : Sap) : State := { later with aud := { up.aud with ports := [(7, x)] } }

/-- A configured input port; with a slave's loop in a state. -/
def sapIn : Sap := { Sap.reset with configured := true }
def sapLoop (out : Bool) (l : Nat) : Sap := { sapIn with slave := true, started := true, lock := l, output := out }

def sapTlv (v : List (Nat × Nat)) : Tlv := tlvF 0x0A02 v
def sapOkTlv : Tlv := sapTlv [(1, 0), (1, 0), (1, 2), (1, 24), (1, 32), (1, 2), (1, 0), (1, 0), (8, 2)]

/-- AUD.ROUTE from channel 0 of port 7's input to output channel 0 of port 6. -/
def routeMap (k : Nat) : Tlv := tlvF 0x0A06 [(1, 1), (1, 7), (1, 0), (1, 0), (1, k), (1, 6), (1, 0), (1, 0)]

/-- Ports 6 (output) and 7 (input), and a route between them that has taken effect. -/
def audioOk (x6 x7 : Sap) (rings : Tab (List (Nat × Nat × Bool))) : State :=
  { later with aud := { up.aud with
      ports := [(6, x6), (7, x7)], rings := rings
      routes := [{ src := endpoint 1 7 0 0, sink := endpoint 1 6 0 0, effectAt := none, old := none, slips := 0, secSlips := 0,
                   underruns := 0, secUnder := 0, lastPlayed := 0 }] } }
def sapOut : Sap := { sapIn with output := true, started := true, lock := 2, delta := 64 }
def playing (rings : Tab (List (Nat × Nat × Bool))) : State := audioOk sapOut sapIn rings
def ring0 : Tab (List (Nat × Nat × Bool)) := [((endpoint 1 7 0 0).toNat, [(9, 5, true)])]

/-- 257 routes from other sources. -/
def manyRoutes : State :=
  { playing [] with aud := { (playing []).aud with routes := (List.range 257).map fun n =>
      { src := endpoint 1 n 0 1, sink := endpoint 1 n 1 1, effectAt := none, old := none, slips := 0, secSlips := 0,
        underruns := 0, secUnder := 0, lastPlayed := 0 } } }

/-- AUD.ROUTE from channel 0 of port 7 to embedded channel 0 of output 5. -/
def routeOut5 : Req := rq0 [tlvF 0x0A06 [(1, 1), (1, 7), (1, 0), (1, 0), (1, 4), (1, 5), (1, 0), (1, 0)]]
def audioBusy : State := { chanIn .running with aud := (playing []).aud }

/-- AUD.ROUTE to an output of ST 2110-30 whose media port is in port-off. -/
def routeOff : Tlv := tlvF 0x0A06 [(1, 1), (1, 7), (1, 0), (1, 0), (1, 3), (1, 5), (1, 0), (1, 0)]
def audioOut : Req :=
  rq0 [tlv 0x0401 2 5, tlv 0x0402 1 8, outReq.tlvs.getD 2 (tlv 0 0 0),
    tlvF 0x0406 [(4, 10000), (4, 6152), (8, 0)],
    tlvF 0x040A [(1, 0), (1, 2), (1, 2), (1, 24), (1, 0), (1, 0), (2, 4800)]]
def offOut : State :=
  { run1 (execOutConfigure audioOut) linked with aud := (playing []).aud, modes := { up.modes with portsOff := [.media 0] } }

theorem meets_AudioPortsRoutesAndPlay_ports :
    accepted sAudPort (rq0 [tlv 0x0A01 1 8, sapOkTlv]) up ∧
    (accepted sAudPort (rq0 [tlv 0x0A01 1 7, sapOkTlv]) (withSap (sapLoop false 2)) ∧
      sapStopped (sapOf (withSap (sapLoop false 2)) 7) = false ∧ (sapLoop false 2).lock ≠ 4) ∧
    (accepted sAudPort (rq0 [tlv 0x0A01 1 7, sapTlv [(1, 2), (8, 0), (7, 0)]]) up ∧ sapStopped (sapOf up 7) = true ∧
      sapBad (sapTlv [(1, 2), (8, 0), (7, 0)]).val = true ∧ sapBad sapOkTlv.val = false) ∧
    (accepted sAudStart (rq0 [tlv 0x0A03 1 128]) up ∧ (sapOf up 7).configured = false) ∧
    (accepted sAudStart (rq0 [tlv 0x0A03 1 128, tlv 0x0A04 8 1000999999]) (withSap sapIn) ∧
      ((bitList 8 128).all fun n => sapOn (withSap sapIn) n && (sapOf (withSap sapIn) n).configured &&
        sapStopped (sapOf (withSap sapIn) n)) = true ∧
      1000999999 < acceptedAt (rq0 []) (withSap sapIn) + 1000000 ∧ acceptedAt (rq0 []) (withSap sapIn) + 1000000 ≤ 1001000000) ∧
    (accepted sAudStart (rq0 [tlv 0x0A03 1 128, tlv 0x0A04 8 1001000000]) (withSap sapIn) ∧
      accepted sAudStart (rq0 [tlv 0x0A03 1 128, tlv 0x0A05 1 31]) (withSap sapIn) ∧ up.gpio.dir.getLsbD 31 = false) ∧
    accepted sAudStop (rq0 [tlv 0x0A03 1 128]) (withSap sapIn) ∧
    (accepted sAudStatus (rq0 [tlv 0x0A01 1 7]) up ∧ (sapOf up 7).loudness = 0) := by
  unfold accepted; (repeat' apply And.intro) <;> decide +kernel

theorem meets_AudioPortsRoutesAndPlay_routes :
    (accepted sAudRoute (rq0 [routeMap 9]) (playing []) ∧ mapBad (playing []) (mapOf (routeMap 9).val) = true) ∧
    (accepted sAudRoute (rq0 [routeMap 1]) (playing []) ∧ mapBad (playing []) (mapOf (routeMap 1).val) = false ∧
      sinkBusy (playing []) (mapOf (routeMap 1).val).2 = none) ∧
    (accepted sAudRoute (rq0 [routeMap 1]) manyRoutes ∧ mapBad manyRoutes (mapOf (routeMap 1).val) = false ∧
      256 < (manyRoutes.aud.routes.filter fun x => epKind x.src ≠ 0).length) ∧
    (sinkBusy audioBusy (endpoint 4 5 0 0) = some 0) ∧
    (accepted sAudRoute (rq0 [routeOff]) offOut ∧ mapBad offOut (mapOf routeOff.val) = false ∧
      sinkBusy offOut (mapOf routeOff.val).2 = none ∧ epKind (mapOf routeOff.val).1 ≠ 0 ∧
      sinkOff offOut (mapOf routeOff.val).2 = true) ∧
    ((sapOf up 7).startAt = none ∧ nowNs later < 1000000001 ∧
      (sapOf (withSap { sapIn with startAt := some 1000000000 }) 7).startAt = some 1000000000) ∧
    ((sapOf (withSap (sapLoop false 1)) 7).started = true ∧ (sapLoop false 1).output = false ∧ (sapLoop false 1).lock = 1 ∧
      sapIn.started = false ∧ 1 ≤ (sapLoop false 1).slots) ∧
    (sinkPlays up (endpoint 1 6 0 0) = false ∧ sinkPlays (playing ring0) (endpoint 1 6 0 0) = true ∧
      playDue (playing ring0) (endpoint 1 6 0 0) 9 = true ∧ playDue (playing ring0) (endpoint 1 6 0 0) 48000 = false ∧ epKind (endpoint 1 6 0 0) = 1 ∧
      (((playing ring0).aud.routes.find? fun y => y.sink = endpoint 1 6 0 0).bind (routeSrc (nowNs (playing ring0)))) =
        some (endpoint 1 7 0 0) ∧
      audDomain (playing ring0) (endpoint 1 7 0 0) = audDomain (playing ring0) (endpoint 1 6 0 0) ∧
      readFrame (playing ring0) (endpoint 1 7 0 0) 9 = some (5, true) ∧ readFrame (playing []) (endpoint 1 7 0 0) 9 = none) ∧
    (loopRuns sapIn = false ∧ loopRuns (sapLoop true 2) = true ∧ (sapLoop true 2).ignoreMs = false ∧
      { sapLoop true 1 with ignoreMs := true }.ignoreMs = true ∧ (sapLoop true 1).lock = 1) ∧
    ((-1000000 : Int).natAbs ≤ 1000000 ∧ 1000000 < (1000001 : Int).natAbs ∧ (sapLoop false 3).lock = 3 ∧
      (sapLoop false 3).slave = true ∧ (sapLoop false 3).started = true) := by
  unfold accepted; (repeat' apply And.intro) <;> decide +kernel
/-! ### Hypotheses that can be met: health and firmware images -/

/-- `up` in SERVICE with fault fields. -/
def testState (f : Flt) : State := { inMode .service with flt := f }
/-- A log of n entries. -/
def logOf (n : Nat) : List LogEntry :=
  (List.range n).map fun i => { index := i + 1, code := 1, unitType := 1, unit := 0, count := 0, channel := 255, powerOn := 1, time := 0, address := 0, detail := [], fwVersion := 0 }
def withLog (n : Nat) : State := { up with flt := { up.flt with log := logOf n } }
def flt0 : Flt := up.flt
/-- Fabric port 7 is UP. -/
def fab7Up (s : State) : State := setFport 7 { FPort.reset with state := 4 } s

theorem meets_HealthAndSelftest_commands :
    accepted sHlthStatus (rq0 []) up ∧
    (accepted sHlthThresh (rq0 [tlv 0x0B30 8 0x3269696969696932]) up ∧
      ((List.range 8).all fun i => decide (50 ≤ tlvD (rq0 [tlv 0x0B30 8 0x3269696969696932]) 0x0B30 0 / 256 ^ i % 256 ∧
        tlvD (rq0 [tlv 0x0B30 8 0x3269696969696932]) 0x0B30 0 / 256 ^ i % 256 ≤ 105)) = true) ∧
    (accepted sHlthThresh (rq0 [tlv 0x0B30 8 0x5050505050505031]) up ∧ (0x5050505050505031 / 256 ^ 0 % 256 < 50)) ∧
    (accepted sHlthThresh (rq0 [tlv 0x0B30 8 0x6A50505050505050]) up ∧ (105 < 0x6A50505050505050 / 256 ^ 7 % 256)) ∧
    (accepted sHlthFaults (rq0 []) (withLog 59) ∧ ((withLog 59).flt.log.filter fun e => decide (0 ≤ e.index)).length ≤ 59) ∧
    (accepted sHlthFaults (rq0 [tlv 0x0B10 4 1]) (withLog 60) ∧
      (((withLog 60).flt.log.filter fun e => decide (1 ≤ e.index))[59]?).isSome = true) ∧
    (accepted sHlthSelftest (rq0 [tlv 0x0B20 4 0x80000000]) (inMode .service) ∧ 0x80000000 / 256 % 8388608 = 0 ∧
      bitAt 0x80000000 3 = false) ∧
    (accepted sHlthSelftest (rq0 [tlv 0x0B20 4 0x100]) (inMode .service) ∧ 0x100 / 256 % 8388608 ≠ 0) ∧
    (accepted sHlthSelftest (rq0 [tlv 0x0B20 4 8]) (fab7Up (inMode .service)) ∧ 8 / 256 % 8388608 = 0 ∧ bitAt 8 3 = true ∧
      linkUp (fab7Up (inMode .service)) 7 = true) := by
  unfold accepted; (repeat' apply And.intro) <;> decide +kernel

theorem meets_HealthAndSelftest_ends :
    up.flt.selftest = none ∧
    ((testState { flt0 with selftest := some 1 }).flt.selftest = some 1 ∧ (testState flt0).ctl.fwRunning = true ∧
      bitAt 1 31 = false ∧ (testState flt0).evt.fifo = [] ∧ inService (testState flt0) (.cell 1023) = true ∧
      covers 1 (.cell 1023) = true) ∧
    (bitAt 0x80000001 31 = true ∧ 0x80000001 < 4294967296 ∧
      isRetired (testState { flt0 with selftest := some 0x80000001, retired := [.cell 1023] }) (.cell 1023) = true ∧
      absentUnit (testState flt0) (.cell 1023) = false ∧ covers 0x80000001 (.cell 1023) = true ∧
      flt0.passedOnce.contains (UnitRef.cell 1023) = false ∧
      { flt0 with passedOnce := [.cell 1023] }.passedOnce.contains (UnitRef.cell 1023) = true) := by
  (repeat' apply And.intro) <;> decide +kernel

/-- A state in SERVICE that runs from slot 0, with flash as given and an image in a buffer of 8 KiB at 4 GiB. -/
def fwState (f : Flash) (image : List Byte) : State :=
  { inMode .service with
    flash := f, fuses := testFuses, ctl := { up.ctl with boot := { up.ctl.boot with source := 0 } }
    mem := { up.mem with bufs := [(9, { addr := 0x100000000, size := 8192 })], dram := imageAt 0x100000000 image } }
def flashGood : Flash := flashOf testImage testImage
def fwGood : State := fwState flashGood testImage

theorem meets_FirmwareCommands :
    accepted sFwInfo (rq0 []) up ∧
    accepted sFwWrite (rq0 [tlv 0x0C10 1 2, tlv 0x0C11 4 9]) fwGood ∧
    (accepted sFwWrite (rq0 [tlv 0x0C10 1 0, tlv 0x0C11 4 9]) fwGood ∧ 0 = fwGood.ctl.boot.source) ∧
    (accepted sFwWrite (rq0 [tlv 0x0C10 1 1, tlv 0x0C11 4 8]) fwGood ∧ 1 ≠ fwGood.ctl.boot.source ∧
      tabGet? fwGood.mem.bufs 8 = none) ∧
    (accepted sFwWrite (rq0 [tlv 0x0C10 1 1, tlv 0x0C11 4 9]) fwGood ∧ fwGood.flash.writing = none ∧
      tabGet? fwGood.mem.bufs 9 = some { addr := 0x100000000, size := 8192 }) ∧
    ({ flashGood with writing := some 1 }.writing ≠ none ∧
      accepted sFwWrite (rq0 [tlv 0x0C10 1 1, tlv 0x0C11 4 9]) (fwState { flashGood with writing := some 1 } testImage)) ∧
    (up.flash.writing ≠ some 1 ∧ { flashGood with writing := some 1 }.broken = false) ∧
    accepted sFwActivate (rq0 [tlv 0x0C10 1 2]) up ∧
    (accepted sFwActivate (rq0 [tlv 0x0C10 1 1]) (fwState { flashGood with unverified := [1] } []) ∧
      verifiedSlot (fwState { flashGood with unverified := [1] } []) 1 = false) ∧
    (accepted sFwActivate (rq0 [tlv 0x0C10 1 1]) fwGood ∧ verifiedSlot fwGood 1 = true ∧
      (bootRecord fwGood.flash).seq + 2 < 4294967296) ∧
    (accepted sFwRollback (rq0 [tlv 0x0C02 1 63]) fwGood ∧ fwGood.fuses.rollback ≤ 63 ∧
      63 ≤ (slotHeader fwGood 0).rollback ∧ 63 ≤ (slotHeader fwGood 1).rollback) ∧
    (accepted sFwRollback (rq0 [tlv 0x0C02 1 64]) fwGood ∧ (slotHeader fwGood 0).rollback < 64) ∧
    accepted sFwBootflag (rq0 [tlv 0x0C20 1 2]) up ∧ accepted sFwBootflag (rq0 [tlv 0x0C20 1 1]) up := by
  unfold accepted; (repeat' apply And.intro) <;> decide +kernel

/-- Memories hold an image in the form that the statement asks for, and its checks pass, or fail at the body. -/
theorem meets_FirmwareCommands_images :
    memWf fwGood.flash.bytes = true ∧ memWf fwGood.mem.dram = true ∧
    imageFail fwGood fwGood.mem.dram 0x100000000 8192 = 0 ∧
    imageFail fwGood (fwState flashGood otherImage).mem.dram 0x100000000 8192 = 7 := by
  (repeat' apply And.intro) <;> decide +kernel
/-! ### Hypotheses that can be met: boot and control restart -/

/-- `up` with control fields, a second after reset. -/
def ctlState (c : Ctl) : State := { later with ctl := c }
def restarting (st cause : Nat) : Ctl :=
  { up.ctl with restart := { up.ctl.restart with active := true, cause := cause }, boot := { up.ctl.boot with stage := st, source := 2 }, imgDigest := bodyDigest [] 0 }
def armed (d : Nat) : Ctl := { up.ctl with wdogArmed := true, wdogPeriod := 1000, wdogLast := d }

theorem meets_ControlRestartStartsAndEnds_triggers :
    ((Instr.watchdogExpiry, 2) ∈ [(Instr.lockstepMismatch, 1), (.watchdogExpiry, 2), (.ctlSramUncorrectable, 3), (.fwFatalException, 4)] ∧
      (ctlState (armed 0)).ctl.wdogLast + (ctlState (armed 0)).ctl.wdogPeriod * 1000000 ≤ nowNs (ctlState (armed 0)) ∧
      (ctlState (armed 0)).ctl.wdogArmed = true ∧ (ctlState (armed 0)).modes.mode ≠ .boot ∧
      (ctlState (armed 0)).ctl.restart.lockstepPerm = false ∧ (ctlState (armed 0)).ctl.restart.permPending = none ∧
      (ctlState (armed 0)).flt.testPorts = []) ∧
    ((restarting 6 4).restart.active = true ∧ (restarting 6 4).boot.stage = 6 ∧ (restarting 7 4).boot.stage ≠ 6 ∧
      { up.ctl.restart with permPending := some 2 }.permPending ≠ none) ∧
    (nowNs (ctlState (armed 1)) < (ctlState (armed 1)).ctl.wdogLast + (ctlState (armed 1)).ctl.wdogPeriod * 1000000) ∧
    (State.reset.modes.mode = .boot ∧ State.reset.ctl.fwRunning = false ∧ up.ctl.fwRunning = true ∧ State.reset.ctl.wdogArmed = false) ∧
    ({ up.ctl.restart with lockstepPerm := true }.lockstepPerm = true) ∧
    (Master.pcie ≠ Master.cpuData ∧ (10 ≤ (0x8000000A : Word32).toNat % 1024 ∧ (0x8000000A : Word32).toNat % 1024 ≤ 1000)) := by
  (repeat' apply And.intro) <;> decide +kernel

theorem meets_ControlRestartStartsAndEnds_ends :
    (up.ctl.restart.active = false) ∧
    ((ctlState (restarting 7 1)).ctl.restart.active = true ∧ (ctlState (restarting 7 1)).ctl.boot.stage = 7 ∧
      bodyDigest (ctlState (restarting 7 1)).mem.dram 0 = (ctlState (restarting 7 1)).ctl.imgDigest ∧
      bodyDigest (ctlState (restarting 7 1)).mem.dram 0 ≠ ({ restarting 7 1 with imgDigest := 7 } : Ctl).imgDigest ∧
      { (restarting 7 1).restart with recopy := true }.recopy = true ∧ memWf up.mem.dram = true ∧
      memWf up.flash.bytes = true ∧
      (ctlState (restarting 7 1)).ctl.boot.source = 2 ∧
      ({ restarting 7 1 with boot := { up.ctl.boot with stage := 7, source := 1 } } : Ctl).boot.source ≠ 2) ∧
    (regPath up .debug = false ∧ regPath up .pcie = true) ∧
    ((2 : Word32).getLsbD 1 = true ∧ (restarting 6 4).restart.active = true ∧ (restarting 6 4).boot.stage = 6) ∧
    ({ (restarting 6 1).restart with permPending := some 2 }.permPending = some 2 ∧ (restarting 6 1).restart.permPending = none ∧
      (restarting 6 1).restart.lockstepPerm = false ∧
      testing { up with flt := { up.flt with selftest := some 1 } } = true ∧ up.evt.fifo = [] ∧
      { up.flash with writing := some 0, broken := true }.writing = some 0 ∧ { up.flash with broken := true }.broken = true) ∧
    ({ later with tim := { later.tim with now := 2 * later.tim.now } }.tim.now = 131072000000000 ∧
      (restarting 6 1).restart.startedAt + 2000000000 ≤ nowNs { later with tim := { later.tim with now := 131072000000000 } } ∧
      nowNs { later with tim := { later.tim with now := 131071999934464 } } < (restarting 6 1).restart.startedAt + 2000000000) := by
  (repeat' apply And.intro) <;> decide +kernel

/-- In reset before boot, with a boot record of a trial state that prefers slot 1, and images in the slots. -/
def bootState (trial : Nat) (a b : List Byte) : State :=
  { State.reset with
    fuses := testFuses
    flash := { Flash.reset with bytes := imageAt 0 a ++ imageAt 0x2000000 b ++ imageAt 0x4000000 (natBytes (recordBytes16
      { ok := true, seq := 3, preferred := 1, trial := trial, bootToService := true })) } }
/-- At a stage of the boot, with a code for slot 0. -/
def atStage (st failA : Nat) (s : State) : State :=
  { s with ctl := { s.ctl with boot := { s.ctl.boot with stage := st, failA := failA } } }
/-- A host image was named by GO, of two units of 4 KiB. -/
def hosted (image : List Byte) : State :=
  { State.reset with
    fuses := testFuses
    mem := { State.reset.mem with dram := imageAt 0x04000000 image }
    ctl := { State.reset.ctl with boot := { State.reset.ctl.boot with stage := 5, length4k := 2 } } }

theorem meets_BootTriesImages :
    (State.reset.pwr.phase = 2 ∧ State.reset.pwr.resetN = true ∧
      { State.reset.pwr with phase := 1 }.phase = 1 ∧ { State.reset.pwr with phase := 1 }.railIdx = 6 ∧
      { State.reset.pwr with resetN := false }.resetN = false) ∧
    ((bootRecord (bootState 0 [] []).flash).trial = 0 ∧ (bootRecord (bootState 1 [] []).flash).trial = 1 ∧
      (bootRecord (bootState 2 [] []).flash).trial = 2 ∧ (bootRecord (bootState 2 [] []).flash).preferred = 1 ∧
      (bootRecord (bootState 2 [] []).flash).seq + 1 < 4294967296 ∧ memWf (bootState 2 [] []).flash.bytes = true) ∧
    ((atStage 2 0 (bootState 0 [] [])).pending = [] ∧ (atStage 2 0 (bootState 0 [] [])).ctl.boot.stage = 2 ∧
      failOf 1 (atStage 2 0 (bootState 0 [] [])).ctl.boot = 0 ∧ failOf 0 (atStage 2 4 (bootState 0 [] [])).ctl.boot ≠ 0 ∧
      headerFail (bootState 0 [] []) (slotHeader (bootState 0 [] []) 1) slotBytes ≠ 0 ∧
      imageFail (bootState 0 [] []) (bootState 0 [] []).flash.bytes (slotAt 1) slotBytes = 1) ∧
    (up.pwr.phase ≠ 2 ∧ up.pwr.phase ≠ 1) ∧
    ((atStage 3 0 (bootState 0 [] [])).ctl.boot.stage = 3 ∧ (atStage 3 0 (bootState 0 [] [])).ctl.fwRunning = false ∧
      bootSlot (atStage 3 0 (bootState 0 [] [])) = 1 ∧ State.reset.ctl.boot.stage ≠ 3) ∧
    (regPath up .debug = false ∧ regPath up .pcie = true ∧ (0x80000002 : Word32).getLsbD 31 = true ∧
      (waitHost State.reset).ctl.boot.stage = 4) ∧
    ((hosted testImage).ctl.boot.stage = 5 ∧ memWf (hosted testImage).mem.dram = true) := by
  (repeat' apply And.intro) <;> decide +kernel

/-- Headers and bodies that pass their checks, and that fail one. -/
theorem meets_BootTriesImages_images :
    headerFail (bootState 0 testImage otherImage) (slotHeader (bootState 0 testImage otherImage) 0) slotBytes = 0 ∧
    revisionBad (slotHeader (bootState 0 testImage otherImage) 0) = false ∧
    bodyDigest (bootState 0 testImage otherImage).flash.bytes (slotAt 0) =
      (slotHeader (bootState 0 testImage otherImage) 0).digest ∧
    bodyDigest (bootState 0 testImage otherImage).flash.bytes (slotAt 1) ≠
      (slotHeader (bootState 0 testImage otherImage) 1).digest ∧
    imageFail (hosted testImage) (hosted testImage).mem.dram 0x04000000 (4096 * 2) = 0 ∧
    imageFail (hosted []) (hosted []).mem.dram 0x04000000 (4096 * 2) ≠ 0 := by
  (repeat' apply And.intro) <;> decide +kernel
/-! ### Hypotheses that can be met: the bus matrix, registers, debug, windows -/

theorem meets_BusErrorsAndRcFields :
    (up.ctl.errLog.valid = false ∧ { up.ctl.errLog with valid := true }.valid = true) ∧
    ((0 : BitVec 21).toNat < 0x100000 ∧ (0xFFFFF : BitVec 21).toNat < 0x100000 ∧ 0x100000 ≤ (0x100000 : BitVec 21).toNat) ∧
    (regPath up .debug = false ∧ regPath { up with ctl := { up.ctl with debugUnlocked := true } } .debug = true ∧ regPath up .pcie = true) ∧
    ((0x100000000000 : Word64).getLsbD 44 = true ∧ (0xEFFFFFFFFFFF : Word64).getLsbD 44 = false ∧ (1 : Word32).getLsbD 0 = true) ∧
    (FPort.reset.lanes.length = 4) ∧
    (busTarget up .cpuData false 0x70000000 = none ∧ busTarget up .cpuData true 0x20000000 ≠ none ∧
      busTarget up .pcie false 0x40010030 ≠ none) ∧
    (up.ctl.remap = false ∧ { up.ctl with remap := true }.remap = true ∧ 0 < memTop up) := by
  (repeat' apply And.intro) <;> decide +kernel

theorem meets_BusErrorsAndRcFields_ports : ∀ p, (fport up p).lanes.length = 4 := fun _ => rfl

theorem meets_RegisterWritesFollowTheMap :
    (regPath up .cpuData = true ∧ regPath up .cpuInstr = false) ∧
    ((0xC0000 ≤ (0xFFFFF : BitVec 21).toNat ∧ (0xFFFFF : BitVec 21).toNat < 0x100000) ∧
      (0x120000 ≤ (0x120000 : BitVec 21).toNat)) ∧
    ((2 : BitVec 21).toNat < 0xC0000 ∧ (2 : BitVec 21).toNat % 4 ≠ 0) ∧
    ((0xBFFF8 : BitVec 21).toNat < 0xC0000 ∧ (0xBFFF8 : BitVec 21).toNat % 8 = 0 ∧
      regSpan (0xBFFF8 : BitVec 21).toNat = none ∧ regPath up .mirror = false) ∧
    ((0x11FFFF : BitVec 21).toNat = 0x100000 + (131071 : Fin 131072).val) := by
  (repeat' apply And.intro) <;> decide +kernel

/-- A challenge is out, or a lockout runs. -/
def dbgState (ch : Option (BitVec 256)) (lock : Option Nat) : State :=
  { later with
    ctl := { up.ctl with challenge := ch, lockout := lock }
    fuses := { up.fuses with debugKeyHash := BitVec.ofNat 384 (testFuses.keyHashes.getD 0 0) } }

/-- A read of the control DMA and a write of the control processor. -/
def busReq (reader : MemReader) (data : Option (List Byte)) : MemReq :=
  { addr := 0, len := 64, data := data, activity := 257, cls := .bulk, port := 68, reader := reader }

theorem meets_DebugMastersAndWindows :
    ((dbgState none (some 1)).ctl.lockout = some 1 ∧ nowNs (dbgState none (some 1)) < 1 + 1000000000 ∧
      ¬ nowNs (dbgState none (some 0)) < 0 + 1000000000 ∧ (dbgState none none).ctl.lockout = none ∧
      (dbgState none none).ctl.challenge = none) ∧
    ((dbgState (some 7) none).ctl.challenge = some 7 ∧
      sha384 (testKey.map BitVec.toNat) = le 48 (dbgState (some 7) none).fuses.debugKeyHash.toNat ∧
      ecdsaOk (testKey.map BitVec.toNat) (dbgSig.map BitVec.toNat)
        (le 32 (7 : BitVec 256).toNat ++ le 8 (dbgState (some 7) none).fuses.uid) = true ∧
      sha384 (([] : List Byte).map BitVec.toNat) ≠ le 48 (dbgState (some 7) none).fuses.debugKeyHash.toNat) ∧
    (busMaster (busReq .dma none).reader = some .dma ∧ busMaster (busReq .dma none).reader ≠ some .pcie ∧
      (busReq .dma none).data = none ∧ busMaster (busReq .firmware (some [1])).reader = some .cpuData ∧
      (busReq .firmware (some [1])).data.isSome = true) ∧
    (Instr.pcieReset, Master.pcie) ∈ [(Instr.debugDisconnect, Master.debug), (.pcieReset, .pcie), (.ctlDmaAbort, .dma)] ∧
    (group? (grouped .running .shadow 2 [(0, group0 1)]) 0 = some (group0 1) ∧ (group0 1).role = 1) ∧
    (regPath up .mirror = false ∧ (tabGet Win.reset up.ctl.wins 15).hostOwn = false) ∧
    ((tabGet Win.reset [(15, { Win.reset with hostOwn := true })] 15).hostOwn = true ∧
      (0x3C000000 : Word64).toNat / 67108864 % 2048 < 16 ∧ 16 ≤ (0x40000000 : Word64).toNat / 67108864 % 2048) ∧
    ((tabGet Win.reset up.ctl.wins 0).en = false) ∧
    ((waitHost up).ctl.wins = [(0, { base := 1, hostOwn := false, wrEn := true, rdEn := true, en := true })] ∧
      1 * 67108864 + 0 + 64 ≤ memTop up) ∧
    (memTop { up with mem := { up.mem with topGib := 1 } } < 16 * 67108864 + 0 + 1) := by
  (repeat' apply And.intro) <;> decide +kernel

/-! ### Hypotheses that can be met: power and sensors -/

def pwrState (p : Pwr) : State := { up with pwr := p }
def hot (coolMs : Nat) : State := { State.reset with hlth := { up.hlth with thermal := true, coolMs := coolMs }, pwr := { up.pwr with phase := 0 } }

theorem meets_PowerSequencingAndResets :
    ((pwrState { up.pwr with phase := 0 }).pwr.phase = 0 ∧ up.pwr.failed = false ∧ up.hlth.thermal = false ∧ up.pwr.phase ≠ 0) ∧
    ((pwrState { up.pwr with phase := 1, railIdx := 5 }).pwr.railIdx < 6 ∧ 6 ≤ up.pwr.railIdx ∧ up.pwr.phase ≠ 1) ∧
    ((pwrState { up.pwr with phase := 4 }).pwr.phase = 4 ∧ up.pwr.phase ≠ 4) ∧
    ((hot 10000).hlth.thermal = true ∧ (hot 10000).pwr.phase = 0 ∧ 10000 ≤ (hot 10000).hlth.coolMs ∧ (hot 10000).pwr.en = true ∧
      (hot 9999).hlth.coolMs < 10000) ∧
    (Rail.serdesIo ∈ up.pwr.rails ∧ { up.pwr with phase := 1, attempts := 2 }.phase = 1 ∧ ¬ 2 ≤ ({ up.pwr with attempts := 1 } : Pwr).attempts ∧
      Rail.core ∉ { up.pwr with rails := [.aux] }.rails) ∧
    (20 < 21 ∧ up.flash.writing = none ∧ { up.flash with writing := some 1 }.writing = some 1) ∧
    (999 < 1000 ∧ 9999 < 10000 ∧ up.pwr.phase = 3 ∧ State.reset.pwr.phase ≠ 3) ∧
    ({ up.pwr with phase := 2, resetN := false }.phase = 2 ∧ { up.pwr with phase := 2, resetN := false }.resetN = false ∧ up.pwr.resetN = true) := by
  (repeat' apply And.intro) <;> decide +kernel

theorem meets_SensorsAndThermalShutdown :
    (up.pwr.phase = 3 ∧ up.hlth.thermal = false ∧ up.evt.fifo = [] ∧
      ((List.range 4).all fun k => decide (([1099, 1099, 1099, 1099, 2000] : List Int).getD k 0 < 1100)) = true) ∧
    ((up.hlth.above.getD 7 false = false) ∧ ((up.hlth.warn.getD 7 95 * 10 : Nat) < (951 : Int)) ∧
      { up.hlth with above := List.replicate 8 true }.above.getD 7 false = true ∧ ((930 : Int) ≤ (up.hlth.warn.getD 7 95 * 10 : Nat) - 20)) ∧
    (1100 ≤ ([0, 0, 0, 1100] : List Int).getD 3 0 ∧ up.flt.flashed ≤ up.flt.log.length ∧ up.flt.log.length < 61440) ∧
    ({ hot 0 with pwr := up.pwr }.pwr.phase = 3 ∧ (hot 0).hlth.thermal = true ∧ (hot 0).pwr.phase ≠ 3 ∧ (hot 0).pwr.phase ≠ 2 ∧
      State.reset.pwr.phase ≠ 3) := by
  (repeat' apply And.intro) <;> decide +kernel

theorem meets_SmbusTargetAnswers :
    up.pwr.rails.contains .aux = true ∧ up.pwr.phase = 3 ∧ State.reset.pwr.phase ≠ 3 ∧ (0xA4 : Byte) ≠ 0xA5 ∧
    ((6 : Byte).toNat ≤ 6 ∧ (8 ≤ (8 : Byte).toNat ∧ (0x11 : Byte).toNat ≤ 0x11) ∧ (7 : Byte).toNat = 7 ∧ 0x11 < (0x12 : Byte).toNat) ∧
    up.pwr.alertN = true ∧ { up.pwr with alertN := false }.alertN = false := by
  (repeat' apply And.intro) <;> decide +kernel

/-! ### Hypotheses that can be met: the event ring, a period's end and a second's end -/

def evt0 (code : Nat) : Event := { code := code, channel := 0xFFFF, seq := 0, time := 0, data := [] }
/-- The ring enabled, with one event waiting and fields as given. -/
def ringing (code : Nat) (f : Evt → Evt) : State :=
  { later with evt := f { up.evt with en := true, busMaster := true, msixEn := true, fifo := [evt0 code] } }
def plainRing : State := ringing 1 fun e => e
def unmasked (code : Nat) : State := ringing code fun e => { e with masked := [] }
/-- VECTOR is due; it was last sent a given time after reset. -/
def vecDue (t : Nat) : State := ringing 1 fun e => { e with lastVector := some t, holdoffUs := 255, vectorDue := true, masked := [] }

theorem meets_EventRingDelivers :
    (up.evt.en = false ∧ up.evt.fifo = [] ∧ (256 + 512 - 0) % 512 = 256) ∧
    (plainRing.ctl.fwRunning = true ∧ plainRing.evt.en = true ∧ plainRing.evt.busMaster = true ∧
      plainRing.evt.fifo = evt0 1 :: [] ∧ (plainRing.evt.prod + 512 - plainRing.evt.cons) % 512 ≠ 256 ∧
      plainRing.evt.lostPending = 0 ∧ plainRing.mbx.evtDest = none) ∧
    ((ringing 1 fun e => { e with prod := 511, cons := 256 }).evt.fifo = evt0 1 :: [] ∧ (511 + 512 - 256) % 512 ≠ 256 ∧
      (ringing 1 fun e => { e with lostPending := 1 }).evt.lostPending = 1 ∧
      { up.mbx with evtDest := some (7, 8) }.evtDest = some (7, 8)) ∧
    (bitAt (evt0 128).code 7 = true ∧ (ringing 128 fun e => e).evt.urgVector ∈ (ringing 128 fun e => e).evt.masked ∧
      (unmasked 128).evt.urgVector ∉ (unmasked 128).evt.masked) ∧
    (bitAt (evt0 1).code 7 = false ∧ holdoffOver (vecDue 999745001) = false ∧ holdoffOver (vecDue 999745000) = true ∧
      (vecDue 999745000).evt.vector ∉ (vecDue 999745000).evt.masked ∧ (vecDue 999745000).evt.vectorDue = true) ∧
    ((0x01FF0000 : Word32).toNat / 65536 % 512 = 511 ∧ (511 + 512 - 511) % 512 ≤ (0 + 512 - 511) % 512 ∧
      (0 + 512 - 511) % 512 < (1 + 512 - 511) % 512) ∧
    ((0x80000000 : Word32).getLsbD 31 = true) ∧
    (31 ∈ (ringing 1 fun e => { e with pba := [31] }).evt.pba) := by
  (repeat' apply And.intro) <;> decide +kernel

/-- Cell 5 is idle and free, queue 0 is on, pipeline 7 has a record and region 7 a dispatcher. -/
def periodEnd : State :=
  { chanIn .running with
    tim := { up.tim with now := 65536 * 100000 }
    pipes := [(7, Pipe.reset)]
    tsk := { up.tsk with regions := [(7, { Dispatcher.reset with curDepths := [1, 2, 3, 4] })], cells := [(5, Cell.reset)] }
    tmg := { up.tmg with queues := [(0, Queue.reset)] } }

theorem meets_LedgerPeriodAndSecond_period :
    (nowNs up / 100000 * 100000 = up.ledger.periodStart ∧
      nowNs { up with tim := { up.tim with now := 65536 * 100000 - 1 } } / 100000 * 100000 = up.ledger.periodStart) ∧
    (nowNs periodEnd / 100000 * 100000 ≠ periodEnd.ledger.periodStart) ∧
    (tabGet? periodEnd.pipes 7 = some Pipe.reset ∧ (tabGet? periodEnd.tsk.regions 7).isSome = true ∧
      tabGet? periodEnd.tsk.cells 5 = some Cell.reset ∧ Cell.reset.task = none ∧
      tabGet? periodEnd.tmg.queues 0 = some Queue.reset) := by
  (repeat' apply And.intro) <;> decide +kernel

theorem meets_LedgerPeriodAndSecond_pictures : ∀ h q, q ∈ (chan periodEnd h).pics → q.sdiDue = false :=
  fun h q => chan_of_listed (fun x => q ∈ x.pics → q.sdiDue = false) periodEnd (by simp [Chan.idle])
    (by simp [periodEnd, chanIn, Chan.idle]) h

/-- Input 3 is used, absent, and lost packets in the second. -/
def lossy : State :=
  { chanIn .running with
    tim := later.tim
    inputs := (chanIn .running).inputs.map fun e => (e.1, { e.2 with present := false, sec0 := 1, secM := 4294967295 }) }

/-- Every other count of the second is not 0. -/
def counted : State :=
  { lossy with
    policers := [(5, { policerOf 0 0 with redDropped := 1 })]
    outputs := lossy.outputs.map fun e => (e.1, { e.2 with legs := e.2.legs.map fun l => { l with secLate := 1 } })
    chans := [(0, { chan lossy 0 with concealSec := 1 })]
    mem := { lossy.mem with mcs := [(7, { Mc.reset with secCorrected := 1 })] }
    fab := { lossy.fab with ports := [(7, { FPort.reset with secResends := 1 })], secUnroutable := 1 }
    prt := { lossy.prt with groups := [(0, { group0 0 with digestSec := 1 })] }
    aud := { lossy.aud with ports := [(7, { Sap.reset with secUnder := 1 })] } }

theorem meets_LedgerPeriodAndSecond_second :
    (nowNs up / 1000000000 = up.tim.second ∧
      nowNs { later with tim := { up.tim with now := 65535999999999 } } / 1000000000 = up.tim.second) ∧
    (nowNs lossy / 1000000000 ≠ lossy.tim.second) ∧
    (((next? (execSecondBoundary lossy)).map fun t => t.evt.lostTotal) = some lossy.evt.lostTotal) ∧
    ((tabGet? lossy.inputs 3).map (fun x => (x.present, x.sec0, x.secM)) = some (false, 1, 4294967295) ∧ inputUsers lossy 3 ≠ []) := by
  (repeat' apply And.intro) <;> decide +kernel

theorem meets_LedgerPeriodAndSecond_counts :
    (((next? (execSecondBoundary counted)).map fun t => t.evt.lostTotal) = some counted.evt.lostTotal) ∧
    (counted.policers.any fun e => decide (0 < e.2.yellowDropped + e.2.redDropped)) = true ∧
    (counted.outputs.any fun e => e.2.legs.any fun l => decide (0 < l.secLate)) = true ∧
    (counted.chans.any fun e => decide (0 < e.2.concealSec + e.2.deriveSec)) = true ∧
    0 < (counted.mem.mcs.map fun e => e.2.secCorrected).sum ∧
    (counted.fab.ports.any fun e => decide (0 < e.2.secResends)) = true ∧ 0 < counted.fab.secUnroutable ∧
    (counted.prt.groups.any fun e => decide (0 < e.2.digestSec)) = true ∧
    (counted.aud.ports.any fun e => decide (0 < e.2.secUnder)) = true := by
  (repeat' apply And.intro) <;> decide +kernel

/-! ### Hypotheses that can be met: memory -/

/-- A request of an activity to an address: a read, or a write of bytes. -/
def mreq (addr len a : Nat) (d : Option (List Byte)) (r : MemReader) : MemReq :=
  { addr := addr, len := len, data := d, activity := a, cls := .bulk, port := 3, reader := r }
/-- The last sector below T on controller 7 (T is 128 GiB). -/
def topSector : Nat := 128 * 1073741824 - 64
def poisoned : State := { up with mem := { up.mem with poison := [topSector / 64] } }
def queuedMc : State :=
  { later with mem := { up.mem with mcs := [(7, { Mc.reset with queue :=
      [{ req := mreq topSector 64 257 (some (List.replicate 64 1)) .bar2, arrived := 0, admitted := some 0 },
       { req := mreq topSector 64 257 none .bar2, arrived := 1, admitted := some 1 }] })] } }

theorem meets_MemoryRequestsAreServed :
    ((mreq topSector 64 257 none .bar2).addr < memTop up ∧ (mcAt up (homeOf up topSector).1).queue = [] ∧
      (homeOf up topSector).1 < 8) ∧
    (mcUsed up (homeOf up topSector).1 257 + 64 ≤ mcLimit up 257 ∧
      (mreq topSector 64 257 none .bar2).data = none ∧ (mreq topSector 64 257 none .bar2).reader = .bar2) ∧
    (mcLimit up 257 < mcUsed up (homeOf up topSector).1 257 + (mreq topSector (mcLimit up 257 + 1) 257 none .other).len) ∧
    (poisoned.mem.poison.contains (topSector / 64) = true ∧ up.mem.poison.contains (topSector / 64) = false ∧
      mcUsed poisoned (homeOf poisoned topSector).1 258 + 64 ≤ mcLimit poisoned 258) ∧
    ({ Mc.reset with logValid := true }.logValid = true ∧ (mcAt up 7).logValid = false ∧ up.evt.fifo = []) ∧
    ((mcAt queuedMc 7).queue ≠ [] ∧ ((mcAt queuedMc 7).queue.all fun e => e.admitted.isSome) = true ∧
      (firstOfSectors [] (mcAt queuedMc 7).queue).length = 1) ∧
    (memTop up ≤ (mreq (topSector + 64) 64 257 none .bar2).addr ∧ memTop up ≤ (mreq (2 ^ 40 - 64) 64 257 none .other).addr) := by
  (repeat' apply And.intro) <;> decide +kernel

/-- Pipeline 7 codes slice 2 of a frame of channel 63, its region's cache holding a sector or not. -/
def reading (held : List Nat) : State :=
  { up with pipes := [(7, { Pipe.reset with frame := some (63, 0, 0, 0), slicesLeft := [2] })], mem := { up.mem with caches := [(7, held)] } }
/-- Activity a has used up its budget at every controller. -/
def spentAt (a : Nat) : State :=
  { up with ledger := { up.ledger with mcUsed := (List.range 8).map fun n => (n * 1024 + a, 4294967296) } }

theorem meets_MemoryRequestsAreServed_readers :
    ((homeOf up topSector).1 = 7 ∧ readsPoison up (mreq topSector 64 257 none .bar2) = false ∧
      cacheHit up (issued up (mreq topSector 64 257 none .bar2)) = false ∧ (mcAt up 7).queue = []) ∧
    (pipeOfSlice (reading []) 63 2 = some 7 ∧
      (homeOf (reading []) topSector).1 = 7 ∧
      cacheHit (reading []) (issued (reading []) (mreq topSector 64 0 none (.pipeline 63 2 false))) = false ∧
      cacheHit (reading [topSector / 64]) (issued (reading [topSector / 64]) (mreq topSector 64 0 none (.pipeline 63 2 false))) = true ∧
      topSector < memTop (reading [topSector / 64]) ∧ (mcAt (reading [topSector / 64]) 7).queue = []) ∧
    (readsPoison up (mreq topSector 64 0 none (.blockDma 63 7 0 (.block 1048575))) = false ∧
      mcUsed up 7 (issued up (mreq topSector 64 0 none (.blockDma 63 7 0 (.block 1048575)))).activity + 64 ≤
        mcLimit up (issued up (mreq topSector 64 0 none (.blockDma 63 7 0 (.block 1048575)))).activity) ∧
    ([MemReader.firmware, .dma, .monitor 3].all fun r => let q := issued poisoned (mreq topSector 64 0 none r)
      decide ((homeOf poisoned topSector).1 = 7) && !cacheHit poisoned q && !readsPoison poisoned q &&
        decide (mcUsed poisoned 7 q.activity + 64 ≤ mcLimit poisoned q.activity)) = true ∧
    ([MemReader.audio, .ingest 63, .egress 63, .mirror 63, .bar2].all fun r =>
      (mreq topSector 64 0 none r).data.isNone) = true ∧
    (readsPoison up (mreq (topSector + 64) 64 0 none (.monitor 3)) = false ∧ memTop up ≤ topSector + 64 ∧
      (mcAt up 0).queue = [] ∧ (mreq (topSector + 64) 64 0 (some []) .other).data.isSome = true) ∧
    ([mreq topSector 64 0 none .bar2, mreq topSector 32 0 none .dma].all fun r =>
      decide (r.addr < memTop (spentAt 257)) && decide ((homeOf (spentAt 257) r.addr).1 = 7) && !readsPoison (spentAt 257) r &&
      !cacheHit (spentAt 257) (issued (spentAt 257) r) &&
      decide (mcLimit (spentAt 257) (issued (spentAt 257) r).activity <
        mcUsed (spentAt 257) 7 (issued (spentAt 257) r).activity + r.len)) = true := by
  (repeat' apply And.intro) <;> decide +kernel

/-- Tasks 0 and 1 of region 0 run in cells 5 and 0 of block 0, whose arbiter's pointer stands at 3. -/
def contending : State :=
  { up with tsk := { up.tsk with regions := [(0, { Dispatcher.reset with tasks :=
      [(0, { Task.free with running := some 5 }), (1, { Task.free with running := some 0 })] })] }
            mem := { up.mem with blockPtr := [(0, 3)] } }
def fromTask (n : Nat) : MemReq := mreq topSector 64 257 none (.task 0 n)

theorem meets_MemoryArbiters :
    (blockOfReq up (mreq topSector 64 257 none .bar2) = none ∧
      classCode { mreq topSector 64 257 none .bar2 with cls := .iso }.cls < classCode (mreq topSector 64 257 none .bar2).cls ∧
      { mreq topSector 64 257 none .bar2 with port := 2 }.port < (mreq topSector 64 257 none .bar2).port) ∧
    (blockOfReq contending (fromTask 0) = some (0, 5) ∧ blockOfReq contending (fromTask 1) = some (0, 0) ∧
      tabGet 0 contending.mem.blockPtr 0 < 17 ∧ (5 + 17 - 3) % 17 < (0 + 17 - 3) % 17) ∧
    (rrGrant 16 17 (fun k => decide (k = 15)) = some 15 ∧ rrGrant 16 17 (fun _ => false) = none) := by
  (repeat' apply And.intro) <;> decide +kernel

/-- The example of R41: pointer 5 and requests of C2 and C7. -/
theorem test_round_robin : rrGrant 5 17 (fun k => decide (k = 2 ∨ k = 7)) = some 7 ∧
    rrGrant 8 17 (fun k => decide (k = 2)) = some 2 := by decide

/-- Stack 3's state of refresh and the threshold of 95 degrees. -/
def warm (d : Bool) : State := { up with mem := { up.mem with threshC := 95, doubled := [false, false, false, d] } }
/-- Controller 7 is evacuated, up to a granule. -/
def evacuating (next : Nat) : State := { up with mem := { up.mem with evac := true, evacMc := 7, evacNext := next } }
def lastGranule : Nat := 2 * 7 * 1073741824 / 256

theorem meets_MemoryUpkeepAndEvacuation :
    (mcOn State.reset 7 = false ∧ mcOn up 7 = true ∧ up.mem.poison.contains (patrolSector up 7) = false) ∧
    (stackOn { up with fuses := { up.fuses with orderCode := 1 } } 3 = false ∧ stackOn (warm false) 3 = true ∧
      (warm false).mem.temps.length = 4 ∧ (warm false).mem.doubled.length = 4 ∧ (warm false).mem.threshC ≤ 95 ∧
      (warm true).mem.doubled.getD 3 false = true ∧ 90 + 5 ≤ (warm true).mem.threshC ∧ (warm false).mem.threshC < 96) ∧
    (7 ≤ tabGet 0 { Mc.reset with postponed := [(1023, 7)] }.postponed 1023 ∧ tabGet 0 { Mc.reset with postponed := [(1023, 6)] }.postponed 1023 < 7) ∧
    ((inMode .service).modes.mode = .service ∧ up.modes.mode ≠ .service) ∧
    ((0x8000000000000000 : Word64).getLsbD 63 = true ∧ (0x7FFFFFFFFFFFFFFF : Word64).getLsbD 63 = false) ∧
    (7 ∉ State.reset.mem.trained ∧ 7 ∈ up.mem.trained) ∧ ([0] ≠ ([] : List Nat)) ∧
    (2 * (up.mem.trained.length - 1) * 1073741824 / 256 = lastGranule ∧ up.mem.evac = false ∧ lastGranule ≤ (evacuating lastGranule).mem.evacNext ∧
      (evacuating (lastGranule - 1)).mem.evacNext < lastGranule) ∧
    (mcUsed (evacuating 0) (homeIn (evacuating 0) ((evacuating 0).mem.trained.filter (· ≠ 7)) (physOf (evacuating 0) 7 0)).1 259 + 256 ≤
      mcLimit (evacuating 0) 259) ∧
    (mcLimit up 259 < mcUsed { evacuating 0 with ledger := { up.ledger with mcUsed := (List.range 8).map fun n => (n * 1024 + 259, 4294967296) } }
      (homeIn (evacuating 0) ((evacuating 0).mem.trained.filter (· ≠ 7)) (physOf (evacuating 0) 7 0)).1 259 + 256) := by
  (repeat' apply And.intro) <;> decide +kernel

/-! ### Hypotheses that can be met: tasks and cells -/

/-- A task in use, submitted, of generation 5, with a counter and a descriptor. -/
def task5 (counter : Nat) (d : TaskDesc) : Task := { Task.free with gen := 5, inUse := true, submitted := true, counter := counter, desc := d }
/-- Region 7 with tasks, and cell 1023 as given. -/
def tasked (ts : Tab Task) (c : Cell) : State :=
  { later with tsk := { up.tsk with
      regions := [(0, { Dispatcher.reset with en := true, lendEn := true }), (7, { Dispatcher.reset with tasks := ts, en := true, lendEn := true })]
      cells := [(1023, c)] } }
/-- The handle of slot k of region 7, of generation 5. -/
def handle7 (k : Nat) : Nat := 5 * 524288 + 7 * 65536 + k
def onCell (k : Nat) : Cell := { Cell.reset with task := some (7, k, 5), state := 0 }
/-- Cell 1023 runs the task of slot 0, whose successor is the task of slot 65535. -/
def twoTasks (counter : Nat) : State :=
  tasked [(0, task5 0 { taskBlank with succ := [handle7 65535] }), (65535, task5 counter { taskBlank with affinity := 0xFFFF })] (onCell 0)
/-- The same with a join counter of region 7 in place of the successor. -/
def joined (counter : Nat) (tg : JoinTarget) : State :=
  let s := tasked [(0, task5 0 { taskBlank with join := handle7 4095 })] (onCell 0)
  setJoin 7 4095 { gen := 5, inUse := true, counter := counter, target := tg, channel := 0xFF, cancelled := false } s

theorem meets_DispatcherOperations :
    (((regionOf up 0).tasks.filter fun e => e.2.inUse).length < 65536 ∧ ((regionOf up 0).joins.filter fun e => e.2.inUse).length < 4096) ∧
    ((taskAt (twoTasks 0) 7 65535).gen = handle7 65535 / 524288 % 8192 ∧ (taskAt (twoTasks 0) 7 65535).inUse = true ∧
      handle7 65535 ≠ 0xFFFFFFFF ∧ handle7 65535 / 65536 % 8 = 7 ∧ handle7 65535 % 65536 = 65535 ∧
      (taskAt (twoTasks 0) 7 65535).counter = 0 ∧ (taskAt (twoTasks 0) 7 65535).inList = false ∧
      (taskAt (twoTasks 0) 7 65535).running = none ∧ (taskAt (twoTasks 0) 7 65535).held = false ∧
      (taskAt (twoTasks 1) 7 65535).counter ≠ 0) ∧
    ((taskAt up 7 65535).gen ≠ handle7 65535 / 524288 % 8192 ∧ (taskAt up 7 65535).inUse = false ∧
      issuerChannel up (.firmware 7) = 0xFF) ∧
    ((cellAt (twoTasks 0) 1023).task.isSome = true ∧ (cellAt up 1023).task = none ∧ (cellAt up 1023).state ≠ 1 ∧
      (cellAt up 1023).state ≠ 2 ∧ cellOn up 1023 = true) ∧
    ((cellAt (twoTasks 2) 1023).task = some (7, 0, (taskAt (twoTasks 2) 7 0).gen) ∧ (taskAt (twoTasks 2) 7 0).inUse = true ∧
      (taskAt (twoTasks 2) 7 0).desc.join = 0xFFFFFFFF ∧ (taskAt (twoTasks 2) 7 0).desc.succ = [handle7 65535] ∧
      (handle7 65535 / 65536 % 8 ≠ 7 ∨ handle7 65535 % 65536 ≠ 0) ∧ 2 ≤ (taskAt (twoTasks 2) 7 65535).counter ∧
      (taskAt (twoTasks 1) 7 65535).counter = 1 ∧ (taskAt (twoTasks 1) 7 65535).submitted = true ∧
      (taskAt (twoTasks 0) 7 65535).counter = 0 ∧ (taskAt (twoTasks 0) 7 0).desc.channel = 0xFF) ∧
    ((∀ h ∈ (taskAt (tasked [(0, task5 0 taskBlank)] (onCell 0)) 7 0).desc.succ, h = 0xFFFFFFFF) ∧
      (taskAt (tasked [(0, task5 0 taskBlank)] (onCell 0)) 7 0).inUse = true ∧
      (cellAt (tasked [(0, task5 0 taskBlank)] (onCell 0)) 1023).task = some (7, 0, 5)) ∧
    ((taskAt (joined 2 .firmware) 7 0).desc.succ = [] ∧ (taskAt (joined 2 .firmware) 7 0).desc.join = handle7 4095 ∧
      handle7 4095 ≠ 0xFFFFFFFF ∧ handle7 4095 / 65536 % 8 = 7 ∧ handle7 4095 % 4096 = 4095 ∧
      (joinAt (joined 2 .firmware) 7 4095).gen = handle7 4095 / 524288 % 8192 ∧ (joinAt (joined 2 .firmware) 7 4095).inUse = true ∧
      2 ≤ (joinAt (joined 2 .firmware) 7 4095).counter ∧ (joinAt (joined 1 .firmware) 7 4095).counter = 1 ∧
      (joinAt (joined 1 (.band 5 0 3)) 7 4095).target = .band 5 0 3 ∧
      (cellAt (joined 1 .firmware) 1023).task = some (7, 0, 5) ∧ (taskAt (joined 1 .firmware) 7 0).inUse = true) ∧
    ((taskAt (twoTasks 0) 7 0).desc.channel ≠ 63 ∧ (task5 0 { taskBlank with channel := 63 }).desc.channel = 63 ∧
      (joinAt (joined 2 .firmware) 7 4095).channel ≠ 63) := by
  (repeat' apply And.intro) <;> decide +kernel

/-- A table of n entries that all pass a test has n that pass. -/
theorem all_pass {α : Type} (n : Nat) (x : α) (p : Nat × α → Bool) (h : ∀ k, p (k, x) = true) :
    n ≤ (((List.range n).map fun k => (k, x)).filter p).length := by
  rw [List.filter_eq_self.mpr (by intro e he; obtain ⟨k, -, rfl⟩ := List.mem_map.mp he; exact h k)]
  simp

/-- Every slot and every join counter of region 0 is in use. -/
def fullRegion (n m : Nat) : State :=
  { up with tsk := { up.tsk with regions := [(0, { Dispatcher.reset with
      tasks := (List.range n).map fun k => (k, task5 0 taskBlank), joins := (List.range m).map fun k => (k, { Join.free with inUse := true }) })] } }

theorem meets_DispatcherOperations_full :
    65536 ≤ ((regionOf (fullRegion 65536 4096) 0).tasks.filter fun e => e.2.inUse).length ∧
    4096 ≤ ((regionOf (fullRegion 65536 4096) 0).joins.filter fun e => e.2.inUse).length :=
  have h (n m : Nat) : n ≤ ((regionOf (fullRegion n m) 0).tasks.filter fun e => e.2.inUse).length ∧
      m ≤ ((regionOf (fullRegion n m) 0).joins.filter fun e => e.2.inUse).length :=
    ⟨all_pass n (task5 0 taskBlank) (fun e => e.2.inUse) fun _ => rfl,
     all_pass m { Join.free with inUse := true } (fun e => e.2.inUse) fun _ => rfl⟩
  h 65536 4096

def ready5 (a : Nat) : Task := { task5 0 { taskBlank with affinity := a } with inList := true, ready := some 3 }
def waitCell : Cell := { Cell.reset with state := 1 }
/-- Region 7 has two ready tasks; its cell 1023 waits; or cell 0 of region 0 does. -/
def granting : State := tasked [(0, ready5 1023), (65535, ready5 0xFFFF)] waitCell
def lending : State := { granting with tsk := { granting.tsk with cells := [(0, waitCell)] } }
/-- A task of an attempt on cell 1023, started at reset. -/
def attempt (n : Nat) : State := tasked [(0, { task5 0 { taskBlank with attempt := n } with ready := some 3, running := some 1023 })] (onCell 0)
def changing : State := { up with tsk := { up.tsk with blocks := [(63, { Block.reset with newMhz := 1600, changing := true })] } }

theorem meets_GrantsRetriesAndBlockClocks :
    ((regionOf up 7).en = false ∧ (regionOf granting 7).en = true ∧ regionOn granting 7 = true ∧
      1023 ∈ waitingCells granting 7 ∧ (bestTask granting 1023).isSome = true ∧ waitingCells lending 7 = []) ∧
    ((List.range 8).filter (borrower up) = [] ∧ (List.range 8).filter (borrower lending) = [0] ∧ lends lending 7 = true ∧
      1 ≤ lending.tsk.minReady ∧ lending.tsk.minReady ≤ (lendable lending 7).length ∧
      ((List.range 8).all fun q => decide (q = 7 ∨ q = 0 ∨ lends lending q = false)) = true ∧ (lendable lending 7).length ≤ 65536) ∧
    ((cellAt (attempt 1) 1023).startedAt + ns ((regionOf (attempt 1) (1023 / 128)).limitUs * 1000) < (attempt 1).tim.now ∧
      up.tim.now ≤ (cellAt up 1023).startedAt + ns ((regionOf up (1023 / 128)).limitUs * 1000)) ∧
    ((cellAt up 1023).task = none ∧ (cellAt (attempt 1) 1023).task = some (7, 0, (taskAt (attempt 1) 7 0).gen) ∧
      (taskAt (attempt 1) 7 0).inUse = true ∧ (taskAt (attempt 1) 7 0).desc.attempt < 2 ∧
      2 ≤ (taskAt (attempt 2) 7 0).desc.attempt ∧ (taskAt (attempt 2) 7 0).desc.channel = 0xFF ∧
      (cellAt (attempt 2) 1023).task = some (7, 0, (taskAt (attempt 2) 7 0).gen) ∧ (attempt 2).evt.fifo = []) ∧
    (799 < 800 ∧ 1600 < 1650 ∧ 825 % 50 ≠ 0 ∧ blockOn up 63 = true ∧ 800 % 50 = 0 ∧ 1600 % 50 = 0 ∧
      blockOn { up with fuses := { up.fuses with orderCode := 1 } } 63 = false) ∧
    ((blockAt up 63).changing = false ∧ (blockAt changing 63).changing = true) := by
  (repeat' apply And.intro) <;> decide +kernel

/-! ### Hypotheses that can be met: the coding pipelines -/

def run0 (work cost : Nat) : BandRun :=
  { work := work, band := 0, pipe := 7, share := 256, frameCost := cost, firstSlice := 0, nSlices := 4, whole := true }
def pic0 : Picture := { Picture.new 0 with ordered := true, begun := true, key := true }
def res0 (n : Nat) : SliceRes :=
  { capture := 0, slice := n, ctus := [], headBits := 0, sceneChange := false, concealed := false, derived := false, cleanPoint := true, formatDiff := 0,
    motion := [], anc := [] }
/-- Channel 0 in a role with a picture and its run on pipeline 7, which runs a frame of it or not, with credit. -/
def coding (role : Role) (work : Nat) (q : Picture) (frame : Bool) (left : List Nat) (par : Tab Nat) : State :=
  { chanAs .running role with
    tim := later.tim
    chans := [(0, { Chan.idle with state := .running, cfg := some { cfg0 with role := role }, runs := [run0 work 1000], begun := [0], pics := [q] })]
    pipes := [(7, { Pipe.reset with credits := [(work, 256000)], parity := par, slicesLeft := left
                                    frame := if frame then some (0, work, 0, 0) else none })] }
def issuing : State := coding .encode 0 pic0 false [] []
def slicing (n : Nat) : State := coding .encode 0 { pic0 with slicesDone := n } true [0, 1, 2, 3] []
def decoding (n : Nat) : State := coding .gateway 1 { pic0 with decoded := n } true [0, 1, 2, 3] []

theorem meets_PipelinesIssueCodeAndDecode_issue :
    ((pipeOf (slicing 0) 7).frame.isSome = true ∧ (pipeOf issuing 7).frame = none ∧ regionOn issuing 7 = true) ∧
    ((candidates (orderAll 7 issuing) 7).length = 1) ∧ (candidates (orderAll 7 up) 7 = []) ∧
    ((candidates (orderAll 7 issuing) 7).map fun c => (c.2.1, c.2.2.1.work, c.2.2.2.issued, c.2.2.2.key)) = [(0, 0, [], true)] := by
  (repeat' apply And.intro) <;> decide +kernel

theorem meets_PipelinesIssueCodeAndDecode_slices :
    ((chan (slicing 0) 0).handoverPeer = none ∧ (chan (slicing 0) 0).cfg = some cfg0 ∧ cfg0.slices = 4 ∧
      (pipeOf issuing 7).frame = none ∧ 4 ∉ (pipeOf (slicing 0) 7).slicesLeft) ∧
    ((pipeOf (slicing 0) 7).frame = some (0, 0, 0, (res0 3).capture) ∧ (res0 3).slice ∈ (pipeOf (slicing 0) 7).slicesLeft ∧
      (chan (slicing 0) 0).pics = [{ pic0 with slicesDone := 0 }] ∧ pic0.capture = (res0 3).capture ∧
      (res0 3).sceneChange = false ∧ 0 < (res0 3).slice ∧ pic0.results = []) ∧
    ((chan (slicing 3) 0).pics = [{ pic0 with slicesDone := 3 }] ∧ (res0 3).slice = 3 ∧ 3 < cfg0.slices ∧
      pic0.ordered = true ∧ 3 + 1 = cfg0.slices ∧ pic0.begun = true ∧ 2 + 1 < cfg0.slices) ∧
    ((pipeOf (decoding 0) 7).frame = some (0, 1, 0, (res0 3).capture) ∧ 0 + 1 ≠ decodeSlices (decoding 0) { cfg0 with role := .gateway } ∧
      3 + 1 = decodeSlices (decoding 3) { cfg0 with role := .gateway } ∧ (decoding 3).evt.fifo = [] ∧
      (decodeOne { res0 3 with formatDiff := 1 } pic0).decFmt ≠ 0 ∧ (chan (decoding 3) 0).decFmt = 0 ∧
      flagOf { Chan.idle with flag := 1 } (decodeOne (res0 3) pic0) = 0) := by
  (repeat' apply And.intro) <;> decide +kernel

/-- The same with the tokens of every slice released, and a codec. -/
def released (s : State) (k : Codec) (a : Nat) : State :=
  let c := chan s 0
  { s with
    chans := [(0, { c with cfg := c.cfg.map fun f => { f with codec := k } })]
    tsk := { s.tsk with tokens := match c.cfg with
      | some f => (List.range a).flatMap fun i => sliceTokens { f with codec := k } 0 0 i
      | none => [] } }
/-- A search candidate at a distance, and a motion vector at it. -/
def motionAt (d : Int) : Motion := { x := 0, y := 0, dx := d, dy := 0, cands := [(0, d, 0)] }

theorem meets_PipelinesIssueCodeAndDecode_more :
    ((candidates (coding .encode 0 pic0 false [] []) 7).length = 1 ∧
      (let s := { coding .encode 0 pic0 false [] [] with pipes := [] }
       candidates (orderAll 7 s) 7 = [] ∧ (readyFrames (orderAll 7 s) 7).length = 1) ∧
      (pipeOf issuing 7).context = none) ∧
    ((sliceTokens { cfg0 with codec := .hevc } 0 0 3).length ≠ 0 ∧
      (∃ k ∈ sliceTokens { cfg0 with codec := .hevc } 0 0 3, k ∉ (released (slicing 3) .hevc 3).tsk.tokens)) ∧
    ([3, 0].all fun n => mayCode (released (slicing n) .hevc 4) { cfg0 with codec := .hevc } 0 0 0 { res0 3 with slice := n }) = true ∧
    ((chan (released (slicing 3) .hevc 4) 0).cfg = some { cfg0 with codec := .hevc } ∧
      (chan (released (slicing 3) .hevc 4) 0).pics = [{ pic0 with slicesDone := 3 }] ∧ cfg0.codec = .jpegxs) ∧
    ((∃ m ∈ [{ motionAt 0 with dx := 2000 }], motionOk up 0 { cfg0 with codec := .hevc } pic0 m = false) ∧
      motionOk up 0 { cfg0 with codec := .hevc } pic0 (motionAt 64) = true) ∧
    (mayCode (decoding 0) { cfg0 with role := .gateway } 0 1 0 (res0 3) = true ∧ (res0 3).slice ∈ (pipeOf (decoding 0) 7).slicesLeft ∧
      mayCode (released (slicing 0) .jpegxs 4) cfg0 0 0 0 (res0 3) = true) := by
  (repeat' apply And.intro) <;> decide +kernel

theorem meets_PipelinesIssueCodeAndDecode_flags :
    ({ pic0 with decFmt := 1 }.decFmt ≠ 0 ∧ { pic0 with flag := 1 }.flag = 1 ∧ { pic0 with flag := 2 }.flag = 2 ∧
      pic0.decFmt = 0 ∧ Chan.idle.decFmt = 0 ∧ pic0.flag = 0 ∧ Chan.idle.flag = 0 ∧ { Chan.idle with flag := 2 }.flag ≠ 0) ∧
    (1 ≤ 1 ∧ 16 ≤ skipBits cfg0.codec ∧ 0 ≤ (allowances cfg0 { pic0 with hi := 16 } 1 1 0 0).1 ∧
      0 ≤ (allowances cfg0 { pic0 with hi := 16 } 1 1 0 0).2) ∧
    ((pipeOf (slicing 0) 7).frame = some (0, 0, 0, 0) ∧ (pipeOf (slicing 0) 7).slicesLeft = [0, 1, 2, 3] ∧
      (pipeOf (slicing 0) 7).slicesLeft.Nodup ∧ (∀ i ∈ (pipeOf (slicing 0) 7).slicesLeft, tabGet 0 (pipeOf (slicing 0) 7).parity i < 2)) ∧
    ((pipeOf (coding .encode 0 pic0 true [3] [(3, 2)]) 7).slicesLeft = 3 :: [] ∧
      2 ≤ tabGet 0 (pipeOf (coding .encode 0 pic0 true [3] [(3, 2)]) 7).parity 3 ∧
      active (chan (coding .encode 0 pic0 true [3] [(3, 2)]) 0).state = true ∧
      isProtected (coding .encode 0 pic0 true [3] [(3, 2)]) 0 = false ∧ (slicing 0).modes.mode ≠ .drain) := by
  (repeat' apply And.intro) <;> decide +kernel

def gateCfg : ChanCfg := { cfg0 with role := .gateway }

theorem meets_PipelinesIssueCodeAndDecode_deadline :
    ((chan (slicing 0) 0).pics.find? (fun p => decide (p.capture = 0)) = some pic0 ∧ cfg0.role = .encode) ∧
    ((chan (decoding 0) 0).cfg = some gateCfg ∧ gateCfg.role = .gateway ∧ auDeadline (decoding 0) gateCfg 0 ≤ (decoding 0).tim.now ∧
      0 < decodeSlices (decoding 0) gateCfg ∧ decodeSlices (decoding 4) gateCfg ≤ 4 ∧ (∀ i ∈ pic0.issued, i < 256) ∧
      auReady (decoding 0) gateCfg 0 = false ∧ (chan (decoding 0) 0).pics = [pic0] ∧ (tabGet? (decoding 0).inputs gateCfg.input).isSome = true ∧
      0 < auDeadline (decoding 0) gateCfg 0) ∧
    (({ up.gpio with dir := 0x80000000 } : Gpio).dir.getLsbD 31 = true ∧ up.gpio.dir.getLsbD 31 = false ∧
      { cfg0 with keyGpi := 31 }.keyGpi = 31 ∧ cfg0.keyGpi ≠ 31 ∧ active (chan (chanIn .running) 0).state = true ∧
      { sapIn with startGpi := some 31 }.startGpi = some 31) := by
  (repeat' apply And.intro) <;> decide +kernel

/-! ### Hypotheses that can be met: retirement and faults -/

def dueState (u : UnitRef) : State := { up with flt := { up.flt with due := [(u, 1, 0)] } }
def ranked : State := { up with chans := [(3, { Chan.idle with shedRank := 5 }), (63, { Chan.idle with shedRank := 5 })] }
def faultedTwice (u : UnitRef) : State := { later with flt := { up.flt with counts := [(u, 0), (u, 5)] } }

theorem meets_RetirementsAndFaults_retire :
    (up.flt.due = [] ∧ up.ctl.fwRunning = true ∧ State.reset.ctl.fwRunning = false ∧ up.ctl.restart.active = false) ∧
    ((dueState (.block 63)).flt.due = (.block 63, 1, 0) :: [] ∧ UnitRef.block 63 ≠ .block 62 ∧
      (dueState (.cell 1023)).flt.due = (.cell 1023, 1, 0) :: [] ∧ (dueState (.fabPort 7)).flt.due = (.fabPort 7, 1, 0) :: []) ∧
    ((dueState (.audioPort 7)).flt.due = (.audioPort 7, 1, 0) :: [] ∧
      ((next? (execUnitRetire (.audioPort 7) 0 (dueState (.audioPort 7)))).map fun t => t.evt.lostTotal) = some 0 ∧ up.evt.lostTotal = 0) ∧
    ((dueState (.controller 7)).flt.due = (.controller 7, 1, 0) :: [] ∧ (7 : Fin 8).val ∈ (dueState (.controller 7)).mem.trained ∧
      (dueState (.controller 7)).modes.mode ≠ .boot ∧ isRetired (dueState (.controller 7)) (.controller 7) = false ∧
      ((List.range 8).all fun i => decide (i = 7) || absentUnit (dueState (.controller 7)) (.controller (Fin.ofNat 8 i)) || mcOn (dueState (.controller 7)) i) = true ∧
      (dueState (.controller 7)).fuses.orderCode = 0 ∧ up.evt.fifo = []) ∧
    (((List.range 8).all fun i => decide (i = 7) || absentUnit up (.controller (Fin.ofNat 8 i)) ||
        mcOn { up with mem := { up.mem with trained := [6, 7] } } i) = false) ∧
    ([3, 63].Pairwise (· < ·) ∧ shedNext ranked [3, 63] = some 63) ∧
    (up.flash.mapDue = false ∧ { up.flash with mapDue := true }.mapDue = true ∧
      mapCopy { up.flash with map0 := { MapCopy.blank with ok := true } } = some { MapCopy.blank with ok := true }) := by
  (repeat' apply And.intro) <;> decide +kernel

theorem meets_RetirementsAndFaults_retire_kinds : ∀ n, UnitRef.block 63 ≠ .controller n := by decide

theorem meets_RetirementsAndFaults_ports :
    (inService up (.sdiPort 7) = true ∧ inService { up with flt := { up.flt with retired := [.sdiPort 7] } } (.sdiPort 7) = false ∧
      inService up (.mediaPort 1) = true ∧ inService up (.audioPort 7) = true) ∧
    (windowCount up (.sdiPort 7) < 2 ∧ 2 ≤ windowCount (faultedTwice (.sdiPort 7)) (.sdiPort 7) ∧ up.evt.fifo = []) ∧
    (tabGet? linked.mni 0 ≠ none ∧ 0 / 4 = (0 : Fin 2).val) ∧
    (up.flt.log.length ≤ up.flt.flashed ∧ (withLog 1).flt.flashed < (withLog 1).flt.log.length) := by
  (repeat' apply And.intro) <;> decide +kernel

/-- A log whose flash area is full. -/
def fullLog (n : Nat) : State := { up with flt := { up.flt with log := logOf (n + 1), flashed := n } }

theorem meets_RetirementsAndFaults_fullLog :
    61440 ≤ (fullLog 61440).flt.flashed ∧ (fullLog 61440).flt.flashed < (fullLog 61440).flt.log.length :=
  have h (n : Nat) : n ≤ (fullLog n).flt.flashed ∧ (fullLog n).flt.flashed < (fullLog n).flt.log.length := by simp [fullLog, logOf]
  h 61440

/-! ### The spec's worked figures -/

/-- The 8K120 HEVC channel of the worked examples: 4:2:2 10-bit, 16 slices. -/
def cfg8k (codec : Codec) (lat : Latency) : ChanCfg :=
  { cfg0 with codec := codec, width := 7680, height := 4320, rateNum := 120, rateDen := 1, slices := 16, groupSize := 0, latency := lat, lookahead := 8,
              bitrate := 480000000, maxBitrate := 480000000, cpbBits := 4000000, hashSearch := false }

/-- R22's worked example (chapter 00): 8K120 costs 1,991 LU and 1080p60 63 LU. -/
theorem test_costs :
    workCost 4 7680 4320 120 1 = 1991 ∧ workCost 4 1920 1080 60 1 = 63 ∧ encodeCost (cfg8k .hevc .slice) = 1991 := by decide +kernel

/-- R26's table: 9,600 LU and a limit of 8,400 on a VX9-H128, 7,200 and 6,300 on a VX9-L064. -/
theorem test_lu :
    (luTotal up, luLimit up) = (9600, 8400) ∧
    (let l := { up with fuses := { up.fuses with orderCode := 1 } }; (luTotal l, luLimit l) = (7200, 6300)) := by decide +kernel

/-- R36's table: the memory left for channels is 230,162,432 bytes per period. -/
theorem test_memory_left : memBookable up = 230162432 := by decide +kernel

/-- R286's table of minimum D, in ns. -/
theorem test_min_delay :
    minDelay (cfg8k .hevc .ripple) none = 600000 ∧ minDelay (cfg8k .hevc .slice) none = 2100000 ∧
    minDelay (cfg8k .hevc .frame) none = 12500000 ∧ minDelay (cfg8k .hevc .lookahead) none = 79200000 ∧
    minDelay (cfg8k .vvc .slice) none = 3100000 ∧ minDelay (cfg8k .vvc .ripple) none = 900000 := by decide +kernel

/-- Chapter 12's worked example: slot 7, bank 45, pseudo-channel 10, row 582, local address 0x246B_6A80. -/
theorem test_one_address :
    homeOf up 0x123456780 = (7, 0x246B6A80) ∧ rowOf 0x246B6A80 = 582 ∧ bankKey 0x246B6A80 = 10 * 64 + 45 ∧ physOf up 7 0x246B6A80 = 0x123456780 := by
  decide +kernel

/-- R380: CRC-32C of "123456789". -/
theorem test_crc32c : cvResult (cvFeed { Cv.boundLink with value := 0xFFFFFFFF } [0x31, 0x32, 0x33, 0x34, 0x35, 0x36, 0x37, 0x38, 0x39]) = 0xE3069283 := by
  decide +kernel

/-- Chapter 06's worked example of R159: RTP timestamp 172,077,056 that arrives 40 us after 1,900,000,000 s. -/
theorem test_rtp_capture : rtpCapture 172077056 (4 * 1900000000000040000) / 65536 = 1900000000000000000 := by decide +kernel

/-- Chapter 02's worked example: the mirror books 64,320 bytes per period. -/
theorem test_mirror_budget : mirrorBudgetOf (cfg8k .hevc .slice) = 64320 := by decide +kernel

/-- R239's example: 67 and a half CTU rows in two bands, slices of 5, 5 and 4 rows. -/
theorem test_slice_rows : sliceRows (encodeWork (cfg8k .hevc .slice)) 2 = [[5, 5, 4, 4, 4, 4, 4, 4], [5, 5, 4, 4, 4, 4, 4, 4]] := by decide +kernel

/-- R550's example of addresses: slot 3's register and memory, node 300's entry. -/
theorem test_register_places :
    ((next? (execRegisterWrite .pcie 0x1018 0 false up)).map fun t => (decide (t = slotRegWrite 3 .pcie 0 0 up))) = some true ∧
    ((next? (execRegisterWrite .cpuData 0x82258 0x8003 false up)).map fun t => tabGet? t.fab.ucast 300) = some (some 3) ∧
    ((next? (execMbxSlotMemoryWrite .pcie 0 0x3000 [7] (withSlot 3 (claimed .host)))).map fun t => (memRead t.mbx.mem 0x3000)) = some 7 := by
  decide +kernel

/-- One cycle of the time base passes on an empty queue in power phase 3 (assumption log 6). -/
theorem test_idle_step : (next? (step later)).map (fun t => decide (later.tim.now < t.tim.now)) = some true := by decide +kernel

/-! ### The checks of WellFormed and the words -/

theorem test_no_word : decodeTableWord 32 0xFFFFFFFF = none := rfl
theorem test_withFetchWord (s : State) (n w : Nat) : s.withFetchWord n w = s := rfl

theorem test_wf_tlv : (tlv 65536 1 0).wf = false ∧ (tlv 1 65536 0).wf = false ∧ (tlv 1 1 256).wf = false ∧ (tlv 0x0B30 8 5).wf = true := by
  decide +kernel
theorem test_wf_req :
    { rq0 [] with rev := 65536 }.wf = false ∧ (rq 65536 []).wf = false ∧ { rq0 [] with node := 512 }.wf = false ∧
    (rq0 [tlv 65536 1 0]).wf = false ∧ (rq0 [tlv 1 4061 0]).wf = false ∧ (rq0 [tlv 1 4060 0]).wf = true := by decide +kernel
theorem test_wf_slot_memory :
    (Instr.mbxSlotMemoryWrite .pcie 0 4095 [0, 0]).wf = false ∧ (Instr.mbxSlotMemoryWrite .pcie 0 0 []).wf = false ∧
    (Instr.mbxSlotMemoryWrite .pcie 0 4095 [0]).wf = true := by decide +kernel
theorem test_wf_memory :
    (mreq 64 0 0 none .other).wf = false ∧ (mreq 65 64 0 none .other).wf = false ∧ (mreq 64 64 260 none .other).wf = false ∧
    { mreq 64 64 0 none .other with port := 75 }.wf = false ∧ (mreq 64 64 0 (some [0]) .other).wf = false ∧
    (mreq 64 64 259 none .other).wf = true := by decide +kernel
theorem test_wf_packet :
    (fpkt 512).wf = false ∧ { fpkt 1 with src := 512 }.wf = false ∧ { fpkt 1 with type := 64 }.wf = false ∧
    { fpkt 1 with length := 1025 }.wf = false ∧ { fpkt 1 with hops := 32 }.wf = false ∧ { fpkt 1 with group := 512 }.wf = false ∧
    { fpkt 1 with route := [256] }.wf = false ∧ (fpkt 511).wf = true := by decide +kernel
theorem test_wf_commands :
    (Instr.memRequest 0 [mreq 64 0 0 none .other] .clean).wf = false ∧ (Instr.routerForward none (fpkt 512)).wf = false ∧
    (Instr.healthSensorUpdate 0 [] [] 0).wf = false ∧ (Instr.refreshDue 0 1024 true).wf = false ∧
    (Instr.blockClockChange 0 750).wf = false ∧ (Instr.blockClockChange 0 1650).wf = false ∧ (Instr.blockClockChange 0 825).wf = false ∧
    (Instr.blockClockChange 0 1600).wf = true := by decide +kernel

end Sys2Proof.Tests
end

section
/-! Debug unlock, the resets of masters and the BAR2 windows (R81 to R87): what the shared operations do, one lemma for
each case of a command, then the statement. -/

namespace Sys2Proof.Machine

/-! ### Tables and register values -/

theorem tabGet?_map {α β : Type} (f : α → β) (t : Tab α) (k : Nat) :
    tabGet? (t.map fun e => (e.1, f e.2)) k = (tabGet? t k).map f := by
  induction t with
  | nil => rfl
  | cons e t ih =>
    simp only [List.map_cons, tabGet?]
    split
    · rfl
    · exact ih

/-- A map over a table that fixes the default acts on every entry that is read. -/
theorem tabGet_map {α : Type} {d : α} {f : α → α} (hd : f d = d) (t : Tab α) (k : Nat) :
    tabGet d (t.map fun e => (e.1, f e.2)) k = f (tabGet d t k) := by
  rw [tabGet, tabGet?_map, tabGet]
  cases tabGet? t k with
  | none => exact hd.symm
  | some a => rfl

/-- A flag of a register value, read by the model as a digit and by the statements as a bit. -/
theorem bitAt_toNat {w : Nat} (v : BitVec w) (i : Nat) : bitAt v.toNat i = v.getLsbD i := by
  simp [bitAt, BitVec.getLsbD, Nat.testBit_eq_decide_div_mod_eq]

/-! ### The reset of a master (R85 to R87) -/

/-- The controllers with the bursts of a master closed. -/
def closedMem (m : Master) (x : MemSys) : MemSys :=
  { x with mcs := x.mcs.map fun e =>
      (e.1, { e.2 with queue := e.2.queue.map fun q => { q with req := closeReq m q.req } }) }

/-- The mailboxes with the claims of a master's path released. -/
def releasedMbx (m : Master) (b : Mbx) : Mbx :=
  match masterPath m with
  | some p => { b with slots := b.slots.map fun e => (e.1, if e.2.owner = some p then releaseSlot e.2 else e.2) }
  | none => b

/-- All that the reset of a master changes: waiting bursts, reservations and claims. -/
theorem resetMaster_eq (m : Master) (s : State) : resetMaster m s =
    { s with mem := closedMem m s.mem
             ctl := { s.ctl with reservations := s.ctl.reservations.filter (· ≠ m) }
             mbx := releasedMbx m s.mbx } := by
  cases m <;> simp [resetMaster, masterPath, releaseClaims, releasedMbx, closedMem, closeBursts]

theorem releasedMbx_noPath {m : Master} (h : masterPath m = none) (b : Mbx) : releasedMbx m b = b := by
  simp [releasedMbx, h]

theorem releasedMbx_bells (m : Master) (b : Mbx) : (releasedMbx m b).bells = b.bells := by
  unfold releasedMbx; split <;> rfl

theorem releasedMbx_inWork (m : Master) (b : Mbx) : (releasedMbx m b).inWork = b.inWork := by
  unfold releasedMbx; split <;> rfl

theorem releaseSlot_owner (x : Slot) : (releaseSlot x).owner = none := by
  unfold releaseSlot; split <;> rfl

/-- No claim of the path that the master carries is left. -/
theorem releasedMbx_owner {m : Master} {p : Path} (h : masterPath m = some p) (b : Mbx) :
    ∀ e ∈ (releasedMbx m b).slots, e.2.owner ≠ some p := by
  simp only [releasedMbx, h, List.mem_map]
  rintro _ ⟨e, -, rfl⟩
  by_cases ho : e.2.owner = some p
  · simp [ho, releaseSlot_owner]
  · simp [ho]

theorem closeReq_of_ne {m : Master} {r : MemReq} (h : busMaster r.reader ≠ some m) : closeReq m r = r := by
  simp [closeReq, h]

/-- A write goes on with every byte strobe off. -/
theorem closeReq_write {m : Master} {r : MemReq} (h : busMaster r.reader = some m) (hd : r.data.isSome = true) :
    closeReq m r = { r with data := some [] } := by
  obtain ⟨d, hd⟩ := Option.isSome_iff_exists.mp hd
  simp [closeReq, h, hd]

/-- A read goes on with its data discarded. -/
theorem closeReq_read {m : Master} {r : MemReq} (h : busMaster r.reader = some m) (hd : r.data = none) :
    closeReq m r = { r with reader := .closed } := by
  simp [closeReq, h, hd]

theorem mcAt_closedMem (m : Master) (s t : State) (n : Nat) (ht : t.mem = closedMem m s.mem) :
    (mcAt t n).queue = (mcAt s n).queue.map fun q => { q with req := closeReq m q.req } := by
  have h := tabGet_map (d := Mc.reset) (f := fun x : Mc => { x with
    queue := x.queue.map fun q => { q with req := closeReq m q.req } }) rfl s.mem.mcs n
  simp only [mcAt, ht, closedMem, h]

/-- The mirror engine issues no request over the bus matrix, so its reset closes no burst. -/
theorem closedMem_mirror (x : MemSys) : closedMem .mirror x = x := by
  have hne (r : MemReq) : busMaster r.reader ≠ some .mirror := by cases r.reader <;> simp [busMaster]
  simp [closedMem, closeReq_of_ne (hne _)]

/-! ### Debug unlock (R81) -/

theorem lockoutOver_iff (s : State) :
    lockoutOver s = true ↔ ¬ ∃ t, s.ctl.lockout = some t ∧ nowNs s < t + 1000000000 := by
  unfold lockoutOver
  cases s.ctl.lockout with
  | none => simp
  | some t => simp

theorem exec_dbgAuth (c : BitVec 256) (s : State) : exec (.dbgAuth c) s = execDbgAuth c s := rfl
theorem exec_dbgLockoutExpiry (s : State) : exec .dbgLockoutExpiry s = execDbgLockoutExpiry s := rfl
theorem exec_dbgAuthVerify (k g : List Byte) (s : State) :
    exec (.dbgAuthVerify k g) s = execDbgAuthVerify k g s := rfl

/-- While the second after a failed unlock runs, no challenge is drawn and the lockout stays. -/
theorem dbgAuth_waits {s : State} (h : ∃ t, s.ctl.lockout = some t ∧ nowNs s < t + 1000000000) (c : BitVec 256) :
    exec (.dbgAuth c) s = .next s ∧ exec .dbgLockoutExpiry s = .next s := by
  have ho : lockoutOver s ≠ true := fun ho => (lockoutOver_iff s).mp ho h
  rw [exec_dbgAuth, exec_dbgLockoutExpiry]
  simp [execDbgAuth, execDbgLockoutExpiry, ho]

theorem dbgAuth_draws {s : State} (h : ¬ ∃ t, s.ctl.lockout = some t ∧ nowNs s < t + 1000000000) (c : BitVec 256) :
    exec (.dbgAuth c) s = .next { s with ctl := { s.ctl with challenge := some c } } ∧
      exec .dbgLockoutExpiry s = .next { s with ctl := { s.ctl with lockout := none } } := by
  have ho : lockoutOver s = true := (lockoutOver_iff s).mpr h
  rw [exec_dbgAuth, exec_dbgLockoutExpiry]
  simp [execDbgAuth, execDbgLockoutExpiry, ho]

/-- A key of the fused hash whose signature covers challenge and UID: what a debugger has to send. -/
def rightKey (k g : List Byte) (s : State) (c : BitVec 256) : Prop :=
  sha384 (k.map BitVec.toNat) = le 48 s.fuses.debugKeyHash.toNat ∧
    ecdsaOk (k.map BitVec.toNat) (g.map BitVec.toNat) (le 32 c.toNat ++ le 8 s.fuses.uid) = true

theorem dbgAuthVerify_none {s : State} (h : s.ctl.challenge = none) (k g : List Byte) :
    exec (.dbgAuthVerify k g) s = .next s := by
  simp [exec_dbgAuthVerify, execDbgAuthVerify, h]

theorem dbgAuthVerify_right {s : State} {c : BitVec 256} {k g : List Byte} (h : s.ctl.challenge = some c)
    (hr : rightKey k g s c) : exec (.dbgAuthVerify k g) s = .next { s with
      ctl := { s.ctl with challenge := none, debugUnlocked := s.ctl.debugUnlocked || !s.fuses.debugDisable } } := by
  rw [exec_dbgAuthVerify, execDbgAuthVerify, h]
  exact if_pos hr

theorem dbgAuthVerify_wrong {s : State} {c : BitVec 256} {k g : List Byte} (h : s.ctl.challenge = some c)
    (hr : ¬ rightKey k g s c) : exec (.dbgAuthVerify k g) s = .next { s with
      ctl := { s.ctl with challenge := none, lockout := some (nowNs s) } } := by
  rw [exec_dbgAuthVerify, execDbgAuthVerify, h]
  exact if_neg hr

/-! ### The commands that reset one master (R86, R87, R549) -/

theorem exec_debugDisconnect (s : State) : exec .debugDisconnect s = .next (resetMaster .debug s) := rfl
theorem exec_pcieReset (s : State) : exec .pcieReset s = .next { resetMaster .pcie s with
    evt := { (resetMaster .pcie s).evt with
      busMaster := false, msixEn := false, masked := List.range 32, pba := [] } } := rfl
theorem exec_ctlDmaAbort (s : State) : exec .ctlDmaAbort s = .next { resetMaster .dma s with
    ctl := { (resetMaster .dma s).ctl with dmaBusy := false } } := rfl
theorem exec_mirrorStreamRecovery (n : Fin 64) (s : State) : exec (.mirrorStreamRecovery n) s =
    .next (modGroup n.val (fun g => { g with mirrorBad := g.mirrorBad || decide (g.role = 1) })
      (resetMaster .mirror s)) := rfl

theorem modGroup_eq (h : Nat) (f : Group → Group) (s : State) :
    ∃ gs, modGroup h f s = { s with prt := { s.prt with groups := gs } } ∧
      (∀ g, group? s h = some g → tabGet? gs h = some (f g)) ∧
      ∀ k, k ≠ h → tabGet? gs k = group? s k := by
  cases hg : group? s h with
  | none => exact ⟨s.prt.groups, by simp [modGroup, hg], by simp, fun k _ => rfl⟩
  | some g =>
    refine ⟨tabSet s.prt.groups h (f g), by simp [modGroup, hg, setGroup], ?_, fun k hk => tabGet?_tabSet_ne _ _ hk⟩
    intro g' hg'
    obtain rfl : g = g' := by simpa using hg'
    exact tabGet?_tabSet_self _ _ _

/-! ### DRAM windows and BAR2 (R82 to R84) -/

theorem exec_ctlWinWrite (n : Fin 16) (m : Master) (v : Word64) (s : State) :
    exec (.ctlWinWrite n m v) s = execCtlWinWrite n m v s := rfl

/-- The bus address of CTL_WINn. -/
theorem regAddr_win (n : Nat) : regAddr (0x100 + 8 * n) = BitVec.ofNat 40 (0x40000100 + 8 * n) := by
  rw [regAddr, ← Nat.add_assoc]

theorem ctlWinWrite_noPath {m : Master} {s : State} (h : regPath s m = false) (n : Fin 16) (v : Word64) :
    exec (.ctlWinWrite n m v) s = .next (busError m true (BitVec.ofNat 40 (0x40000100 + 8 * n.val)) s) := by
  simp [exec_ctlWinWrite, execCtlWinWrite, h, regAddr_win]

theorem ctlWinWrite_pcie_refused {n : Fin 16} {v : Word64} {s : State}
    (h : (winOf s n.val).hostOwn = false ∨ v.toNat / 67108864 % 2048 < 16) :
    exec (.ctlWinWrite n .pcie v) s =
      .next (busError .pcie true (BitVec.ofNat 40 (0x40000100 + 8 * n.val)) s) := by
  have hb : (winOf s n.val).hostOwn = false ∨ bitsAt v.toNat 26 11 < 16 := h
  simp [exec_ctlWinWrite, execCtlWinWrite, regPath, hb, regAddr_win]

/-- The window that a value of CTL_WINn stands for. -/
def writtenWin (v : Word64) (own : Bool) : Win :=
  { base := BitVec.ofNat 11 (v.toNat / 67108864 % 2048), hostOwn := own, wrEn := v.getLsbD 2, rdEn := v.getLsbD 1,
    en := v.getLsbD 0 }

theorem winFields_eq (v : Word64) (own : Bool) : winFields v.toNat own = writtenWin v own := by
  simp [winFields, writtenWin, bitAt_toNat, bitsAt]

theorem ctlWinWrite_taken {n : Fin 16} {m : Master} {v : Word64} {s : State} (hp : regPath s m = true)
    (hm : m ≠ .pcie ∨ ((winOf s n.val).hostOwn = true ∧ 16 ≤ v.toNat / 67108864 % 2048)) :
    let w := writtenWin v (if m = .cpuData then v.getLsbD 3 else (winOf s n.val).hostOwn)
    exec (.ctlWinWrite n m v) s = .next { s with ctl := { s.ctl with wins := tabSet s.ctl.wins n.val w } } := by
  have hb : ¬ (m = .pcie ∧ ((winOf s n.val).hostOwn = false ∨ bitsAt v.toNat 26 11 < 16)) := by
    rintro ⟨rfl, h⟩
    obtain h1 | ⟨h1, h2⟩ := hm
    · exact h1 rfl
    · rcases h with h | h
      · simp [h] at h1
      · exact Nat.not_lt.mpr h2 h
  simp [exec_ctlWinWrite, execCtlWinWrite, hp, hb, winFields_eq]

/-- Requests that enter the controllers change their queues alone. -/
theorem enqueueReqs_frame (rs : List MemReq) (s : State) :
    ∃ q, enqueueReqs rs s = { s with mem := { s.mem with mcs := q } } := by
  induction rs generalizing s with
  | nil => exact ⟨s.mem.mcs, rfl⟩
  | cons r rs ih =>
    obtain ⟨q, hq⟩ := ih (enqueueReqs [r] s)
    exact ⟨q, hq⟩

/-- The default target captures the access of an error when none is held. -/
theorem busError_captures {s : State} (h : s.ctl.errLog.valid = false) (m : Master) (w : Bool) (a : BitVec 40) :
    (busError m w a s).ctl.errLog.master = masterCode m ∧ (busError m w a s).ctl.errLog.write = w ∧
      (busError m w a s).ctl.errLog.addr = a := by
  simp [busError_errLog, h]

theorem busError_counts (m : Master) (w : Bool) (a : BitVec 40) (s : State) :
    (busError m w a s).ctl.errLog.count = rcAdd 65535 1 s.ctl.errLog.count := by
  rw [busError_errLog]; split <;> rfl

section
variable (o : BitVec 30) (len : Nat) (data : Option (List Byte)) (s : State)

/-- The window that a BAR2 access falls in, its DRAM address, its size, and whether the window takes its kind. -/
def bar2Win : Win := winOf s (o.toNat / 67108864)
def bar2Addr : Nat := (bar2Win o s).base.toNat * 67108864 + o.toNat % 67108864
def bar2Size : Nat := match data with | some d => d.length | none => len
def bar2May : Bool := if data.isSome then (bar2Win o s).wrEn else (bar2Win o s).rdEn

theorem bar2WindowAccess_enters (he : (bar2Win o s).en = true) (hm : bar2May o data s = true)
    (ht : bar2Addr o s + bar2Size len data ≤ memTop s) : exec (.bar2WindowAccess o len data) s =
      .next (enqueueReqs (splitSectors (bar2Size len data + 1) (bar2Addr o s) (bar2Size len data) data) s) :=
  if_pos ⟨he, hm, ht⟩

theorem bar2WindowAccess_refused (h : (bar2Win o s).en = false ∨ bar2May o data s = false ∨
    memTop s < bar2Addr o s + bar2Size len data) : exec (.bar2WindowAccess o len data) s =
      .next (let t := busError .pcie data.isSome (BitVec.ofNat 40 (0x80000000 + o.toNat)) s
        if data.isSome then t else aborted t) := by
  refine if_neg ?_
  rintro ⟨he, hm, ht⟩
  rcases h with h | h | h
  · exact Bool.false_ne_true (h.symm.trans he)
  · exact Bool.false_ne_true (h.symm.trans hm)
  · exact Nat.not_le.mpr h ht

end

end Sys2Proof.Machine
end

section
open Sys2Proof Sys2Proof.Machine

/-- Settles O49: the cases of the lockout and the challenge, the reset of a master field by field, and the tests of a
window write and of a BAR2 access. -/
theorem debugMastersAndWindows : Obligations.DebugMastersAndWindows := by
  unfold Obligations.DebugMastersAndWindows
  refine ⟨⟨?auth, ?verify, ?reset, ?burst, ?mirror⟩, ?window, ?bar2⟩
  case auth => exact fun c s => ⟨fun h => dbgAuth_waits h c, fun h => dbgAuth_draws h c⟩
  case verify =>
    exact fun k g s => ⟨fun h => dbgAuthVerify_none h k g, fun c h hr => dbgAuthVerify_right h hr,
      fun c h hr => dbgAuthVerify_wrong h hr⟩
  case reset =>
    intro i m s hi
    simp only [List.mem_cons, Prod.mk.injEq, List.not_mem_nil, or_false] at hi
    rcases hi with ⟨rfl, rfl⟩ | ⟨rfl, rfl⟩ | ⟨rfl, rfl⟩
    · refine ⟨_, exec_debugDisconnect s, ?_⟩
      rw [resetMaster_eq, releasedMbx_noPath rfl]
      exact ⟨rfl, fun n => mcAt_closedMem _ _ _ _ rfl, rfl, rfl, rfl, rfl, by simp, fun _ => ⟨rfl, rfl⟩,
        rfl, rfl, rfl, rfl⟩
    · refine ⟨_, exec_pcieReset s, ?_⟩
      rw [resetMaster_eq]
      exact ⟨rfl, fun n => mcAt_closedMem _ _ _ _ rfl, rfl, rfl, rfl, rfl,
        fun _ => ⟨releasedMbx_owner rfl _, rfl, rfl, rfl, rfl⟩, fun h => absurd rfl h,
        releasedMbx_bells _ _, releasedMbx_inWork _ _, rfl, rfl⟩
    · refine ⟨_, exec_ctlDmaAbort s, ?_⟩
      rw [resetMaster_eq, releasedMbx_noPath rfl]
      exact ⟨rfl, fun n => mcAt_closedMem _ _ _ _ rfl, rfl, rfl, rfl, rfl, by simp, fun _ => ⟨rfl, rfl⟩,
        rfl, rfl, rfl, rfl⟩
  case burst => exact fun m r => ⟨closeReq_of_ne, closeReq_write, closeReq_read⟩
  case mirror =>
    intro n s
    refine ⟨_, exec_mirrorStreamRecovery n s, ?_⟩
    rw [resetMaster_eq, closedMem_mirror]
    obtain ⟨gs, ht, hself, hother⟩ := modGroup_eq n.val
      (fun g => { g with mirrorBad := g.mirrorBad || decide (g.role = 1) })
      { s with ctl := { s.ctl with reservations := s.ctl.reservations.filter (· ≠ .mirror) }
               mbx := releasedMbx .mirror s.mbx }
    rw [ht]
    exact ⟨by simp, releasedMbx_owner rfl _, hself, hother, rfl⟩
  case window =>
    intro n m v s
    refine ⟨fun h => ctlWinWrite_noPath h n v, ?_, ?_⟩
    · rintro rfl h; exact ctlWinWrite_pcie_refused h
    · intro hp hm
      refine ⟨_, ctlWinWrite_taken hp hm, tabGet_tabSet_self _ _ _ _, fun k hk => tabGet_tabSet_ne _ _ _ hk, rfl⟩
  case bar2 =>
    intro o len data s
    constructor
    · intro h
      refine ⟨_, bar2WindowAccess_refused o len data s h, ?_⟩
      cases data with
      | some d => exact ⟨busError_counts _ _ _ s, fun hv => busError_captures hv _ _ _, by simp, rfl⟩
      | none => exact ⟨busError_counts _ _ _ s, fun hv => busError_captures hv _ _ _, fun _ => rfl, rfl⟩
    · intro he hm ht
      obtain ⟨q, hq⟩ := enqueueReqs_frame (splitSectors _ _ _ data) s
      refine ⟨_, bar2WindowAccess_enters o len data s he hm ht, ?_, ?_, rfl⟩ <;> rw [hq]

end

section
/-! The hitless control restart: what its triggers, its parts and its end do to the state. -/

namespace Sys2Proof.Machine

/-! ### Sending on the fabric (R375, R396 to R399) -/

/-- The two states differ in the fabric ports and the ledger at most. -/
def SameButFabric (s t : State) : Prop := ∃ f l, t = { s with fab := f, ledger := l }

theorem SameButFabric.refl (s : State) : SameButFabric s s := ⟨s.fab, s.ledger, rfl⟩

theorem SameButFabric.trans {s t u : State} (h : SameButFabric s t) (k : SameButFabric t u) : SameButFabric s u := by
  obtain ⟨_, _, rfl⟩ := h
  obtain ⟨f, l, rfl⟩ := k
  exact ⟨f, l, rfl⟩

theorem modFport_sameButFabric (p : Nat) (f : FPort → FPort) (s : State) : SameButFabric s (modFport p f s) :=
  ⟨_, _, rfl⟩

theorem modRec_sameButFabric (a : Nat) (f : LedgerRec → LedgerRec) (s : State) : SameButFabric s (modRec a f s) :=
  ⟨_, _, rfl⟩

theorem freeBuffer_sameButFabric (inp : Option Nat) (cls : Nat) (k : FabPkt) (s : State) :
    SameButFabric s (freeBuffer inp cls k s) := by
  cases inp with
  | none => exact .refl s
  | some q => exact ⟨_, _, rfl⟩

theorem transmit_sameButFabric (p : Nat) (e : VcEntry) (s : State) : SameButFabric s (transmit p e s) := by
  have useLine_frame (k : FabPkt) (t : State) : SameButFabric t (useLine p k t) := ⟨_, _, rfl⟩
  unfold transmit
  refine .trans ?_ ((useLine_frame _ _).trans (freeBuffer_sameButFabric _ _ _ _))
  split
  · exact ⟨_, _, rfl⟩
  · exact ⟨_, _, rfl⟩

theorem pumpN_sameButFabric (p fuel : Nat) (s : State) : SameButFabric s (pumpN p fuel s) := by
  induction fuel generalizing s with
  | zero => exact .refl s
  | succ fuel ih =>
    rw [pumpN]
    split
    case h_1 t ht =>
      have hst : SameButFabric s t := by
        simp only [pumpOne] at ht
        split at ht
        · cases ht; exact transmit_sameButFabric _ _ _
        · split at ht
          · cases ht; exact transmit_sameButFabric _ _ _
          · cases ht
      exact hst.trans (ih t)
    case h_2 => exact .refl s

theorem noteHeld_sameButFabric (p : Nat) (s : State) : SameButFabric s (noteHeld p s) := by
  simp only [noteHeld]
  split
  · exact .refl s
  · exact .trans (List.foldlRecOn _ _ (motive := SameButFabric s) (.refl s)
      fun t ht a _ => ht.trans (modRec_sameButFabric a _ t)) (modFport_sameButFabric _ _ _)

/-- Sending what may go changes the ports and the ledger alone. -/
theorem pump_sameButFabric (p : Nat) (s : State) : SameButFabric s (pump p s) :=
  (pumpN_sameButFabric _ _ s).trans (noteHeld_sameButFabric _ _)

theorem testedPort_sameButFabric (s : State) (e : Nat × FPort) : SameButFabric s (testedPort s e) := by
  simp only [testedPort]
  split
  · refine .trans ?_ (modFport_sameButFabric _ _ _)
    refine .trans ?_ (pump_sameButFabric _ _)
    exact ⟨_, _, rfl⟩
  · exact .refl s

/-- A self-test broken off gives its ports back to their links, and changes nothing where it held none (R102). -/
theorem abortTest_eq (s : State) : ∃ f l,
    abortTest s = { s with flt := { s.flt with testPorts := [] }, fab := f, ledger := l } ∧
      (s.flt.testPorts = [] → f = s.fab ∧ l = s.ledger) := by
  cases hp : s.flt.testPorts with
  | nil => exact ⟨s.fab, s.ledger, by simp [abortTest, hp], fun _ => ⟨rfl, rfl⟩⟩
  | cons e es =>
    obtain ⟨f, l, h⟩ : SameButFabric { s with flt := { s.flt with testPorts := [] } } (abortTest s) :=
      List.foldlRecOn _ _ (.refl _) fun t ht e _ => ht.trans (testedPort_sameButFabric t e)
    exact ⟨f, l, h, by simp⟩

/-! ### The steps of R98 -/

/-- CTL_RESTART as a trigger of a hitless restart leaves it: a further trigger keeps the start and the count. -/
def restartBegun (cause : Nat) (s : State) : Restart :=
  let r := s.ctl.restart
  if r.active then { r with cause := cause, recopy := false }
  else { r with cause := cause, active := true, startedAt := nowNs s, elapsed := 0, recopy := false,
                restarts := satAdd 255 r.restarts 1, lostBefore := s.evt.lostTotal }

/-- The control domain as the steps of R98 leave it. -/
def ctlBegun (cause : Nat) (s : State) : Ctl :=
  { s.ctl with
    reservations := ((s.ctl.reservations.filter (· ≠ .cpuInstr)).filter (· ≠ .cpuData)).filter (· ≠ .dma)
    remap := false, wdogPeriod := 100, wdogArmed := false, dmaBusy := false, fwRunning := false
    restart := restartBegun cause s, boot := { s.ctl.boot with stage := 7 } }

/-- All that the steps of R98 change; the fabric ports and the ledger only where a self-test held ports. -/
theorem beginRestart_eq (cause : Nat) (s : State) : ∃ f l, beginRestart cause s =
    { s with mem := closedMem .dma (closedMem .cpuData (closedMem .cpuInstr s.mem))
             mbx := releasedMbx .cpuData s.mbx
             flash := { s.flash with broken := s.flash.broken || s.flash.writing.isSome }
             flt := { s.flt with testPorts := [] }
             ctl := ctlBegun cause s, fab := f, ledger := l } ∧
      (s.flt.testPorts = [] → f = s.fab ∧ l = s.ledger) := by
  simp only [beginRestart, resetMaster_eq, releasedMbx_noPath (m := .cpuInstr) rfl, releasedMbx_noPath (m := .dma) rfl]
  obtain ⟨f, l, h, hfl⟩ := abortTest_eq (abortWrite { s with
    mem := closedMem .dma (closedMem .cpuData (closedMem .cpuInstr s.mem))
    mbx := releasedMbx .cpuData s.mbx
    ctl := { s.ctl with
      reservations := ((s.ctl.reservations.filter (· ≠ .cpuInstr)).filter (· ≠ .cpuData)).filter (· ≠ .dma) } })
  exact ⟨f, l, by rw [h]; rfl, hfl⟩

/-! ### Bursts that are closed (R86) -/

/-- A request of a master carries no byte strobe: what is left of its burst writes nothing. -/
def BurstClosed (m : Master) (r : MemReq) : Prop := busMaster r.reader = some m → r.data = some []

theorem closeReq_closes (m : Master) (r : MemReq) : BurstClosed m (closeReq m r) := by
  intro h
  by_cases hr : busMaster r.reader = some m
  · cases hd : r.data with
    | some d => rw [closeReq_write hr (by simp [hd])]
    | none => simp [closeReq_read hr hd, busMaster] at h
  · rw [closeReq_of_ne hr] at h
    exact absurd h hr

theorem closeReq_keepsClosed {m : Master} {r : MemReq} (h : BurstClosed m r) (k : Master) :
    BurstClosed m (closeReq k r) := by
  by_cases hr : busMaster r.reader = some k
  · cases hd : r.data with
    | some d => rw [closeReq_write hr (by simp [hd])]; exact fun _ => rfl
    | none => rw [closeReq_read hr hd]; simp [BurstClosed, busMaster]
  · rwa [closeReq_of_ne hr]

/-- Every request of a master that waits in the controllers is closed. -/
def BurstsClosed (m : Master) (x : MemSys) : Prop := ∀ e ∈ x.mcs, ∀ q ∈ e.2.queue, BurstClosed m q.req

theorem mem_closedMem {m : Master} {x : MemSys} {e : Nat × Mc} {q : McEntry} (he : e ∈ (closedMem m x).mcs)
    (hq : q ∈ e.2.queue) : ∃ e' ∈ x.mcs, ∃ q' ∈ e'.2.queue, q.req = closeReq m q'.req := by
  obtain ⟨e', he', rfl⟩ := List.mem_map.mp he
  obtain ⟨q', hq', rfl⟩ := List.mem_map.mp hq
  exact ⟨e', he', q', hq', rfl⟩

theorem closedMem_closes (m : Master) (x : MemSys) : BurstsClosed m (closedMem m x) := by
  intro e he q hq
  obtain ⟨_, _, q', _, h⟩ := mem_closedMem he hq
  rw [h]
  exact closeReq_closes m q'.req

theorem closedMem_keepsClosed {m : Master} {x : MemSys} (h : BurstsClosed m x) (k : Master) :
    BurstsClosed m (closedMem k x) := by
  intro e he q hq
  obtain ⟨e', he', q', hq', hr⟩ := mem_closedMem he hq
  rw [hr]
  exact closeReq_keepsClosed (h e' he' q' hq') k

/-- After the resets of both masters, in their order, the bursts of each are closed. -/
theorem coresAndDma_closed (x : MemSys) :
    ∀ m ∈ [Master.cpuData, .dma], BurstsClosed m (closedMem .dma (closedMem .cpuData x)) := by
  simp only [List.forall_mem_cons]
  exact ⟨closedMem_keepsClosed (closedMem_closes _ _) _, closedMem_closes _ _, by simp⟩

/-! ### Events and the fault log -/

/-- Raising an event changes the event block alone. -/
theorem raise_eq (code ch : Nat) (d : List Nat) (s : State) :
    raise code ch d s = { s with evt := (raise code ch d s).evt } := by
  unfold raise raiseAt
  dsimp only
  split <;> rfl

/-- What a trigger of a restart changes before the restart begins: an entry is logged, and the event block, the counts
of faults and the lockstep mismatches of CTL_RESTART may change. -/
def LoggedAs (code : Nat) (s t : State) : Prop :=
  ∃ e counts next ev times perm, e.code = code ∧ t = { s with
    flt := { s.flt with log := s.flt.log ++ [e], counts := counts, nextIndex := next }
    evt := ev
    ctl := { s.ctl with restart := { s.ctl.restart with mismatchTimes := times, permPending := perm } } }

theorem logFault_loggedAs (code uType unit count ch addr : Nat) (detail : List Nat) (s : State) :
    LoggedAs code s (logFault code uType unit count ch addr detail s).2 :=
  ⟨_, s.flt.counts, _, s.evt, _, _, rfl, rfl⟩

/-- A counted fault of the control system never makes a unit permanent: it logs and reports. -/
theorem countFault_control (code ch addr : Nat) (s : State) : ∃ e counts next ev, e.code = code ∧
    countFault .control code ch addr s = { s with
      flt := { s.flt with log := s.flt.log ++ [e], counts := counts, nextIndex := next }, evt := ev } := by
  simp only [countFault, countsToThree, Bool.false_eq_true, false_and, if_false]
  rw [raise_eq]
  exact ⟨_, _, _, _, rfl, rfl⟩

/-! ### Resets into BOOT (R74, R103, R549) -/

/-- CTL_RESTART once a lockstep fault that waited for the end of its restart has become permanent. -/
def permRestart (r : Restart) : Restart :=
  { r with lockstepPerm := r.lockstepPerm || r.permPending.isSome, permPending := none }

theorem lockstepPermanent_eq (s : State) : ∃ ev pw, lockstepPermanent s =
    { s with ctl := { s.ctl with restart := permRestart s.ctl.restart }, evt := ev, pwr := pw } := by
  cases hp : s.ctl.restart.permPending with
  | none =>
    have hr : permRestart s.ctl.restart = s.ctl.restart := by
      rw [permRestart, hp, Option.isSome_none, Bool.or_false, ← hp]
    simp only [lockstepPermanent, hp]
    exact ⟨s.evt, s.pwr, by rw [hr]⟩
  | some n =>
    simp only [lockstepPermanent, permRestart, hp, Option.isSome_some, Bool.or_true]
    split
    · exact ⟨s.evt, s.pwr, rfl⟩
    · rw [raise_eq]; exact ⟨_, _, rfl⟩

/-- What a reset into BOOT leaves of the modes, the channels, DRAM, firmware and CTL_RESTART. -/
structure ResetInBoot (r : Restart) (dram : Mem) (t : State) : Prop where
  mode : t.modes.mode = .boot
  chans : t.chans = []
  dram : t.mem.dram = dram
  stopped : t.ctl.fwRunning = false
  restart : t.ctl.restart = r

theorem resetBoot_resets (s : State) :
    ResetInBoot (permRestart (keptRestart s.ctl.restart)) s.mem.dram (resetBoot s) := by
  unfold resetBoot bootStart
  dsimp only
  obtain ⟨ev, pw, h⟩ := lockstepPermanent_eq (trainMemory (loadMasks (setBoot _ { deviceReset s with flash := _ })))
  rw [h]
  exact ⟨rfl, rfl, rfl, rfl, rfl⟩

/-- A trigger in BOOT, or once the lockstep fault is permanent: a reset with the trigger's cause. In BOOT it keeps the
mismatches of the last hour. -/
theorem triggerRestart_resets {s : State} (h : s.modes.mode = .boot ∨ s.ctl.restart.lockstepPerm = true) (cause : Nat) :
    ResetInBoot { permRestart (keptRestart { s.ctl.restart with cause := cause }) with
      mismatchTimes := if s.modes.mode = .boot then s.ctl.restart.mismatchTimes else [] } s.mem.dram
      (triggerRestart cause s) := by
  obtain ⟨mode, chans, dram, stopped, restart⟩ :=
    resetBoot_resets { s with ctl := { s.ctl with restart := { s.ctl.restart with cause := cause } } }
  unfold triggerRestart
  dsimp only
  by_cases hm : s.modes.mode = .boot
  · rw [if_pos hm, if_pos hm]
    exact ⟨mode, chans, dram, stopped, by rw [restart]⟩
  · rw [if_neg hm, if_neg hm, if_pos (h.resolve_left hm)]
    exact ⟨mode, chans, dram, stopped, restart⟩

/-- A trigger elsewhere begins a hitless restart; one of a cause other than 1 is logged first. -/
theorem triggerRestart_begins {s : State} (hm : s.modes.mode ≠ .boot) (hp : s.ctl.restart.lockstepPerm = false)
    (cause : Nat) : triggerRestart cause s =
      beginRestart cause (if cause = 1 then s else (logFault 15 0 0 0 0xFF 0 [cause] s).2) := by
  simp [triggerRestart, hm, hp]

/-! ### The recopy of an image (R98) -/

theorem memWfFrom_le {lo : Nat} {m : Mem} (h : memWfFrom lo m = true) {c : Nat × Byte} (hc : c ∈ m) : lo ≤ c.1 := by
  induction m generalizing lo with
  | nil => simp at hc
  | cons e t ih =>
    simp only [memWfFrom, Bool.and_eq_true, decide_eq_true_eq] at h
    obtain ⟨⟨hlo, -⟩, htail⟩ := h
    rcases List.mem_cons.mp hc with rfl | ht
    · exact hlo
    · have := ih htail ht
      omega

theorem memWfFrom_filter {lo : Nat} {m : Mem} (h : memWfFrom lo m = true) (p : Nat × Byte → Bool) :
    memWfFrom lo (m.filter p) = true := by
  induction m generalizing lo with
  | nil => rfl
  | cons e t ih =>
    simp only [memWfFrom, Bool.and_eq_true, decide_eq_true_eq] at h
    obtain ⟨⟨hlo, hne⟩, htail⟩ := h
    rw [List.filter_cons]
    split
    · simp [memWfFrom, hlo, hne, ih htail]
    · exact memWfFrom_mono (ih htail) (by omega)

/-- A filter that keeps an address keeps what stands there. -/
theorem memRead_filter_in {p : Nat × Byte → Bool} {a : Nat} (h : ∀ b, p (a, b) = true) (m : Mem) :
    memRead (m.filter p) a = memRead m a := by
  induction m with
  | nil => rfl
  | cons e t ih =>
    obtain ⟨i, c⟩ := e
    by_cases hi : i = a
    · subst hi; simp [memRead, h]
    · rw [List.filter_cons]
      split <;> simp [memRead, hi, ih]

/-- A filter that drops an address leaves the default there. -/
theorem memRead_filter_out {p : Nat × Byte → Bool} {a : Nat} (h : ∀ b, p (a, b) = false) (m : Mem) :
    memRead (m.filter p) a = memDefault := by
  induction m with
  | nil => rfl
  | cons e t ih =>
    obtain ⟨i, c⟩ := e
    by_cases hi : i = a
    · subst hi; simpa [h] using ih
    · rw [List.filter_cons]
      split <;> simp [memRead, hi, ih]

/-- Moving entries to another place leaves an address alone that none of them goes to. -/
theorem memRead_move_out {l : Mem} {a b i : Nat} (h : ∀ c ∈ l, a ≤ c.1 ∧ c.1 ≠ a + i) (m : Mem) :
    memRead (l.foldl (fun m c => memWrite m (c.1 - a + b) c.2) m) (b + i) = memRead m (b + i) := by
  induction l generalizing m with
  | nil => rfl
  | cons c l ih =>
    obtain ⟨hle, hne⟩ := h c List.mem_cons_self
    rw [List.foldl_cons, ih (fun x hx => h x (List.mem_cons_of_mem c hx)), memRead_memWrite_ne _ _ (by omega)]

/-- Moving the entries of a memory over bytes that read as the default gives the memory's bytes. -/
theorem memRead_move {l m : Mem} {lo a b i : Nat} (hl : memWfFrom lo l = true) (hge : ∀ c ∈ l, a ≤ c.1)
    (hm : memWf m = true) (h0 : memRead m (b + i) = memDefault) :
    memRead (l.foldl (fun m c => memWrite m (c.1 - a + b) c.2) m) (b + i) = memRead l (a + i) := by
  induction l generalizing m lo with
  | nil => exact h0
  | cons c l ih =>
    obtain ⟨j, x⟩ := c
    simp only [memWfFrom, Bool.and_eq_true, decide_eq_true_eq] at hl
    obtain ⟨-, htail⟩ := hl
    have haj : a ≤ j := hge (j, x) List.mem_cons_self
    rw [List.foldl_cons]
    by_cases hj : j = a + i
    · have hrest : ∀ c ∈ l, a ≤ c.1 ∧ c.1 ≠ a + i := fun c hc => by
        have := memWfFrom_le htail hc
        exact ⟨hge c (List.mem_cons_of_mem _ hc), by omega⟩
      rw [memRead_move_out hrest, show j - a + b = b + i by omega, memRead_memWrite_self hm]
      simp [memRead, hj]
    · rw [ih htail (fun c hc => hge c (List.mem_cons_of_mem _ hc)) (memWf_memWrite hm _ _)
        (by rw [memRead_memWrite_ne _ _ (by omega), h0])]
      simp [memRead, hj]

/-- A copied range reads as it did at its source. -/
theorem memRead_memCopy {src dst : Mem} (hs : memWf src = true) (hd : memWf dst = true) (a b : Nat) {i n : Nat}
    (hi : i < n) : memRead (memCopy src a n dst b) (b + i) = memRead src (a + i) := by
  unfold memCopy
  rw [memRead_move (memWfFrom_filter hs _) (fun c hc => ?_) (memWfFrom_filter hd _)
    (memRead_filter_out (fun _ => by simp; omega) _), memRead_filter_in (fun _ => by simp; omega)]
  simp only [List.mem_filter, decide_eq_true_eq] at hc
  exact hc.2.1

/-! ### Events that enter the FIFO (R127) -/

/-- A raised event enters the FIFO at its end, or is lost. -/
theorem raise_grows (code ch : Nat) (d : List Nat) (s : State) : s.evt.fifo <+: (raise code ch d s).evt.fifo := by
  rcases raiseAt_cases (nowNs s) code ch d s with ⟨_, h⟩ | ⟨_, h, _⟩
  · rw [raise, h]; exact List.prefix_append _ _
  · rw [raise, h]

/-- An event of a code and data stands in the FIFO. -/
def Reported (code : Nat) (d : List Nat) (s : State) : Prop :=
  ∃ e ∈ s.evt.fifo, e.code = code ∧ e.data = eventData d

theorem Reported.mono {code : Nat} {d : List Nat} {s t : State} (h : Reported code d s)
    (hst : s.evt.fifo <+: t.evt.fifo) : Reported code d t := by
  obtain ⟨e, he, hcd⟩ := h
  exact ⟨e, hst.subset he, hcd⟩

theorem raise_reported {s : State} (h : s.evt.fifo.length < 512) (code ch : Nat) (d : List Nat) :
    Reported code d (raise code ch d s) := by
  rcases raiseAt_cases (nowNs s) code ch d s with ⟨_, hr⟩ | ⟨hf, _⟩
  · rw [raise, hr]
    exact ⟨_, List.mem_append_right _ (List.mem_singleton_self _), rfl, rfl⟩
  · omega

/-- At most `n` events are raised from one state to the other: the FIFO grows by so many, and none is lost where it had
room for them. -/
structure Raises (n : Nat) (s t : State) : Prop where
  grows : s.evt.fifo <+: t.evt.fifo
  atMost : t.evt.fifo.length ≤ s.evt.fifo.length + n
  noneLost : s.evt.fifo.length + n ≤ 512 → t.evt.lostTotal = s.evt.lostTotal

theorem Raises.of_eq {s t : State} (h : t.evt = s.evt) (n : Nat) : Raises n s t :=
  ⟨by rw [h], by rw [h]; omega, fun _ => by rw [h]⟩

theorem Raises.raise (code ch : Nat) (d : List Nat) (s : State) : Raises 1 s (raise code ch d s) := by
  refine ⟨raise_grows code ch d s, ?_, fun hr => ?_⟩ <;>
    rcases raiseAt_cases (nowNs s) code ch d s with ⟨_, h⟩ | ⟨hf, h, _⟩ <;> rw [Machine.raise]
  · simp [h]
  · rw [h]; omega
  · rw [h]
  · omega

/-! ### What follows a change of channel states (R49, R55, R177) leaves the control domain alone -/

/-- The control domain, the mailboxes, the flash and the fault records stay, and no event leaves the FIFO. -/
structure KeepsControl (s t : State) : Prop where
  ctl : t.ctl = s.ctl
  mbx : t.mbx = s.mbx
  flash : t.flash = s.flash
  flt : t.flt = s.flt
  events : s.evt.fifo <+: t.evt.fifo

namespace KeepsControl

theorem of_eq {s t : State} (hctl : t.ctl = s.ctl) (hmbx : t.mbx = s.mbx) (hflash : t.flash = s.flash)
    (hflt : t.flt = s.flt) (hevt : t.evt = s.evt) : KeepsControl s t :=
  ⟨hctl, hmbx, hflash, hflt, by rw [hevt]⟩

theorem refl (s : State) : KeepsControl s s := of_eq rfl rfl rfl rfl rfl

theorem trans {s t u : State} (h : KeepsControl s t) (k : KeepsControl t u) : KeepsControl s u :=
  ⟨k.ctl.trans h.ctl, k.mbx.trans h.mbx, k.flash.trans h.flash, k.flt.trans h.flt, h.events.trans k.events⟩

theorem ite {c : Prop} [Decidable c] {s t u : State} (ht : KeepsControl s t) (hu : KeepsControl s u) :
    KeepsControl s (if c then t else u) := by
  split
  exacts [ht, hu]

theorem raise (code ch : Nat) (d : List Nat) (s : State) : KeepsControl s (raise code ch d s) :=
  ⟨raise_ctl .., raise_mbx .., raise_flash .., raise_flt .., raise_grows code ch d s⟩

theorem hifSync (s : State) : KeepsControl s (hifSync s) := by
  refine ite ?_ (refl s)
  exact of_eq rfl rfl rfl rfl rfl

theorem toState (h : Nat) (st : ChanState) (s : State) : KeepsControl s (toState h st s) := by
  have hmod : KeepsControl s (modChan h (enterState st) s) := of_eq rfl rfl rfl rfl rfl
  exact (hmod.trans (raise _ _ _ _)).trans (hifSync _)

theorem dropCommit (h : Nat) (s : State) : KeepsControl s (dropCommit h s) := by
  unfold Machine.dropCommit
  split
  · exact of_eq rfl rfl rfl rfl rfl
  · exact refl s

theorem toIdle (h : Nat) (s : State) : KeepsControl s (toIdle h s) := by
  have hflush : KeepsControl s (flushWaiting h (fun _ => true) s) := of_eq rfl rfl rfl rfl rfl
  have hdrop (t : State) : KeepsControl t (dropShown h t) := of_eq rfl rfl rfl rfl rfl
  exact ((hflush.trans (dropCommit h _)).trans (hdrop _)).trans (toState h .idle _)

theorem clearAll (s : State) : KeepsControl s (clearAll s) := by
  refine List.foldlRecOn _ _ (motive := KeepsControl s) (refl s) fun t ht h _ => ht.trans (ite (refl t) (toIdle h t))

theorem setModeNow (m : Mode) (s : State) : KeepsControl s (setModeNow m s) := by
  have hmode : KeepsControl s { s with modes := { s.modes with mode := m } } :=
    of_eq rfl rfl rfl rfl rfl
  exact (hmode.trans (raise _ _ _ _)).trans (hifSync _)

theorem beginMode (m : Mode) (s : State) : KeepsControl s (beginMode m s) := by
  refine .trans ?_ (hifSync _)
  exact of_eq rfl rfl rfl rfl rfl

theorem autoMode (s : State) : KeepsControl s (autoMode s) := by
  unfold Machine.autoMode
  split
  case h_1 => exact ite (setModeNow _ s) (refl s)
  case h_2 => exact ite (setModeNow _ s) (refl s)
  case h_3 => exact ite (.trans (ite (clearAll s) (refl s)) (beginMode _ _)) (refl s)
  case h_4 => exact refl s

theorem settle (s : State) : KeepsControl s (settle s) := by
  have hsync : KeepsControl s (syncInputs s) := of_eq rfl rfl rfl rfl rfl
  exact hsync.trans (autoMode _)

theorem holdover (on : Bool) (s : State) : KeepsControl s (holdover on s) := by
  refine .trans ?_ (raise _ _ _ _)
  exact of_eq rfl rfl rfl rfl rfl

theorem follow (k : Nat) (s : State) : KeepsControl s (follow k s) := of_eq rfl rfl rfl rfl rfl

/-- A change of device time alone. -/
theorem setTim (x : Tim) (s : State) : KeepsControl s { s with tim := x } := of_eq rfl rfl rfl rfl rfl

theorem reselect (cause : Nat) (s : State) : KeepsControl s (reselect cause s) := by
  refine ite (refl s) (ite (ite (holdover true s) (refl s)) ?_)
  dsimp only
  generalize Option.or _ _ = choice
  cases choice with
  | none => exact ite (setTim _ s) ((setTim _ s).trans (holdover true _))
  | some k =>
    have hend (x : Tim) : KeepsControl s (if s.tim.state = 2 then Machine.holdover false { s with tim := x }
        else { s with tim := x }) := ite ((setTim x s).trans (holdover false _)) (setTim x s)
    exact ite (ite ((hend _).trans (follow k _)) (hend _)) (((hend _).trans (follow k _)).trans (raise ..))

end KeepsControl

/-! ### The reports at the end of a restart (R74, R101, R102) -/

/-- The flash once a write that the restart broke off has been reported. -/
def reportedFlash (f : Flash) : Flash :=
  if f.writing.isSome && f.broken then { f with writing := none, broken := false } else f

/-- A write that was broken off is reported as faulty. -/
theorem reportWrite_broken {s : State} {k : Nat} (hw : s.flash.writing = some k) (hb : s.flash.broken = true) :
    reportWrite s = raise evFwWritten noChan (u8 k ++ [0] ++ u16 9) { s with flash := reportedFlash s.flash } := by
  simp [reportWrite, reportedFlash, hw, hb]

theorem reportWrite_other {s : State} (h : ¬ (s.flash.writing.isSome && s.flash.broken) = true) :
    reportWrite s = s := by
  unfold reportWrite
  split
  case h_1 hw hb => simp [hw, hb] at h
  case h_2 => rfl

theorem reportWrite_eq (s : State) : Raises 1 s (reportWrite s) ∧
    ∃ ev, reportWrite s = { s with flash := reportedFlash s.flash, evt := ev } := by
  by_cases h : (s.flash.writing.isSome && s.flash.broken) = true
  · obtain ⟨hs, hb⟩ := Bool.and_eq_true_iff.mp h
    obtain ⟨k, hw⟩ := Option.isSome_iff_exists.mp hs
    have hr := Raises.raise evFwWritten noChan (u8 k ++ [0] ++ u16 9) { s with flash := reportedFlash s.flash }
    rw [reportWrite_broken hw hb]
    exact ⟨⟨hr.grows, hr.atMost, hr.noneLost⟩, _, raise_eq ..⟩
  · rw [reportWrite_other h]
    exact ⟨.of_eq rfl 1, s.evt, by rw [reportedFlash, if_neg h]⟩

/-- A self-test that was broken off is reported with result 2. -/
theorem reportTest_testing {s : State} (h : testing s = true) : ∃ i log next, reportTest s =
    raise evSelftest noChan (u8 2 ++ u32 i)
      { s with flt := { s.flt with log := log, nextIndex := next, selftest := none } } := by
  simp only [reportTest, h, if_true]
  exact ⟨_, _, _, rfl⟩

theorem reportTest_eq (s : State) : Raises 1 s (reportTest s) ∧
    ∃ ev fl, reportTest s = { s with flt := fl, evt := ev } ∧ (testing s = true → fl.selftest = none) := by
  by_cases h : testing s = true
  · obtain ⟨i, log, next, ht⟩ := reportTest_testing h
    have hr := Raises.raise evSelftest noChan (u8 2 ++ u32 i)
      { s with flt := { s.flt with log := log, nextIndex := next, selftest := none } }
    rw [ht]
    exact ⟨⟨hr.grows, hr.atMost, hr.noneLost⟩, _, _, raise_eq .., fun _ => rfl⟩
  · simp only [reportTest, h]
    exact ⟨.of_eq rfl 1, s.evt, s.flt, rfl, fun h' => absurd h' Bool.false_ne_true⟩

theorem lockstepPermanent_grows (s : State) : s.evt.fifo <+: (lockstepPermanent s).evt.fifo := by
  unfold lockstepPermanent
  dsimp only
  split
  · exact List.prefix_refl _
  · split
    · exact List.prefix_refl _
    · refine .trans ?_ (raise_grows _ _ _ _)
      exact List.prefix_refl _

/-- A lockstep fault that becomes permanent is reported with its count. -/
theorem lockstepPermanent_reported {s : State} {n : Nat} (hroom : s.evt.fifo.length < 512)
    (hn : s.ctl.restart.permPending = some n) (hp : s.ctl.restart.lockstepPerm = false) :
    Reported evCtlFault (u8 n) (lockstepPermanent s) := by
  simp only [lockstepPermanent, hn, hp, Bool.false_eq_true, if_false]
  refine raise_reported ?_ _ _ _
  exact hroom

/-- What EV_CTL_RESTARTED carries: cause, duration in ms and the events lost since the trigger (R101). -/
def restartedData (s : State) (lost : Nat) : List Nat :=
  u8 s.ctl.restart.cause ++ [0, 0, 0] ++ u32 ((nowNs s - s.ctl.restart.startedAt) / 1000000) ++
    u32 (lost - s.ctl.restart.lostBefore)

/-- Where the reports of R101 and R102 are made from: a broken write, then a broken self-test, have been reported. -/
theorem restartEvents_eq (s : State) : ∃ w x, w = reportWrite s ∧ x = reportTest w ∧
    restartEvents s = lockstepPermanent (raise evCtlRestarted noChan (restartedData s x.evt.lostTotal) x) :=
  ⟨_, _, rfl, rfl, rfl⟩

/-- The end of a restart changes CTL_RESTART, events, flash, fault records and ALERT_N alone. -/
theorem restartEvents_frame (s : State) : ∃ ev fl pw, restartEvents s =
    { s with flash := reportedFlash s.flash, flt := fl, evt := ev, pwr := pw
             ctl := { s.ctl with restart := permRestart s.ctl.restart } } ∧
      (testing s = true → fl.selftest = none) := by
  obtain ⟨w, x, hw, hx, h⟩ := restartEvents_eq s
  obtain ⟨_, evw, hwe⟩ := reportWrite_eq s
  obtain ⟨_, evx, fl, hxe, hfl⟩ := reportTest_eq w
  obtain ⟨ev, pw, hl⟩ := lockstepPermanent_eq (raise evCtlRestarted noChan (restartedData s x.evt.lostTotal) x)
  subst hw hx
  refine ⟨ev, fl, pw, ?_, fun ht => hfl (by rw [hwe]; exact ht)⟩
  rw [h, hl, raise_eq, hxe, hwe]

/-- With an empty FIFO every report of the end of a restart enters it. -/
theorem restartEvents_reported {s : State} (hs : s.evt.fifo = []) :
    Reported evCtlRestarted (restartedData s s.evt.lostTotal) (restartEvents s) ∧
      (∀ k, s.flash.writing = some k → s.flash.broken = true →
        Reported evFwWritten (u8 k ++ [0] ++ u16 9) (restartEvents s)) ∧
      (testing s = true → ∃ i, Reported evSelftest (u8 2 ++ u32 i) (restartEvents s)) ∧
      ∀ n, s.ctl.restart.permPending = some n → s.ctl.restart.lockstepPerm = false →
        Reported evCtlFault (u8 n) (restartEvents s) := by
  obtain ⟨w, x, hw, hx, h⟩ := restartEvents_eq s
  obtain ⟨hsw, evw, hwe⟩ := reportWrite_eq s
  obtain ⟨hwx, evx, fl, hxe, -⟩ := reportTest_eq w
  rw [← hw] at hsw hwe
  rw [← hx] at hwx hxe
  have hlen : s.evt.fifo.length = 0 := by rw [hs]; rfl
  have hw1 := hsw.atMost
  have hx1 := hwx.atMost
  have hlost : x.evt.lostTotal = s.evt.lostTotal := (hwx.noneLost (by omega)).trans (hsw.noneLost (by omega))
  rw [h, hlost]
  have hxy := Raises.raise evCtlRestarted noChan (restartedData s s.evt.lostTotal) x
  have hyz := lockstepPermanent_grows (raise evCtlRestarted noChan (restartedData s s.evt.lostTotal) x)
  have hxz := hxy.grows.trans hyz
  refine ⟨(raise_reported (by omega) _ _ _).mono hyz, fun k hk hb => ?_, fun ht => ?_, fun n hn hp => ?_⟩
  · refine Reported.mono ?_ (hwx.grows.trans hxz)
    rw [hw, reportWrite_broken hk hb]
    exact raise_reported (by simp [hs]) _ _ _
  · obtain ⟨i, log, next, htest⟩ := reportTest_testing (s := w) (by rw [hwe]; exact ht)
    refine ⟨i, Reported.mono ?_ hxz⟩
    rw [hx, htest]
    exact raise_reported (by show w.evt.fifo.length < 512; omega) _ _ _
  · have hctl : x.ctl = s.ctl := by rw [hxe, hwe]
    have hy1 := hxy.atMost
    exact lockstepPermanent_reported (by omega) (by rw [raise_ctl, hctl, hn]) (by rw [raise_ctl, hctl, hp])

/-! ### The triggers of R97 -/

theorem restartBegun_active (cause : Nat) (s : State) : (restartBegun cause s).active = true := by
  unfold restartBegun; dsimp only; split <;> simp_all
theorem restartBegun_cause (cause : Nat) (s : State) : (restartBegun cause s).cause = cause := by
  unfold restartBegun; dsimp only; split <;> rfl
theorem restartBegun_recopy (cause : Nat) (s : State) : (restartBegun cause s).recopy = false := by
  unfold restartBegun; dsimp only; split <;> rfl
theorem restartBegun_startedAt (cause : Nat) (s : State) : (restartBegun cause s).startedAt =
    if s.ctl.restart.active then s.ctl.restart.startedAt else nowNs s := by
  unfold restartBegun; dsimp only; split <;> rfl
theorem restartBegun_restarts (cause : Nat) (s : State) : (restartBegun cause s).restarts =
    if s.ctl.restart.active then s.ctl.restart.restarts else min 255 (s.ctl.restart.restarts + 1) := by
  unfold restartBegun; dsimp only; split <;> rfl
/-- A restart keeps what CTL_RESTART says of lockstep mismatches. -/
theorem restartBegun_lockstep (cause : Nat) (s : State) :
    (restartBegun cause s).mismatchTimes = s.ctl.restart.mismatchTimes ∧
      (restartBegun cause s).permPending = s.ctl.restart.permPending ∧
      (restartBegun cause s).lockstepPerm = s.ctl.restart.lockstepPerm := by
  unfold restartBegun; dsimp only; split <;> exact ⟨rfl, rfl, rfl⟩

theorem elapsedNow_of_active {s : State} (h : s.ctl.restart.active = true) :
    elapsedNow s = min 255 ((nowNs s - s.ctl.restart.startedAt) / 10000000) := by
  simp [elapsedNow, h]

/-- CTL_RESTART with a lockstep mismatch counted (R74). -/
def mismatchRestart (s : State) : Restart :=
  let ts := mismatches s ++ [nowNs s]
  { s.ctl.restart with
    mismatchTimes := ts
    permPending := if 2 ≤ ts.length then some (min 255 ts.length) else s.ctl.restart.permPending }

/-- A lockstep mismatch before its trigger acts: counted, logged and reported. -/
def mismatched (s : State) : State :=
  countFault .control 14 0xFF 0 { s with ctl := { s.ctl with restart := mismatchRestart s } }

theorem exec_lockstepMismatch (s : State) :
    exec .lockstepMismatch s = .next (triggerRestart 1 (mismatched s)) := rfl

theorem mismatched_eq (s : State) : ∃ e counts next ev, e.code = 14 ∧ mismatched s = { s with
    flt := { s.flt with log := s.flt.log ++ [e], counts := counts, nextIndex := next }, evt := ev
    ctl := { s.ctl with restart := mismatchRestart s } } :=
  countFault_control 14 0xFF 0 _

theorem mismatched_restart (s : State) : (mismatched s).ctl.restart = mismatchRestart s := by
  obtain ⟨_, _, _, _, _, h⟩ := mismatched_eq s
  rw [h]

theorem mismatched_modes (s : State) : (mismatched s).modes = s.modes := by
  obtain ⟨_, _, _, _, _, h⟩ := mismatched_eq s
  rw [h]

theorem nowNs_mismatched (s : State) : nowNs (mismatched s) = nowNs s := by
  obtain ⟨_, _, _, _, _, h⟩ := mismatched_eq s
  rw [h]; rfl

theorem mismatched_loggedAs (s : State) : LoggedAs 14 s (mismatched s) := by
  obtain ⟨e, counts, next, ev, hc, h⟩ := mismatched_eq s
  exact ⟨e, counts, next, ev, _, _, hc, h⟩

/-- What CTL_RESTART holds as a trigger acts: a lockstep mismatch is counted in it. -/
def triggeredRestart (cause : Nat) (s : State) : Restart :=
  if cause = 1 then mismatchRestart s else s.ctl.restart

theorem triggeredRestart_restarts (cause : Nat) (s : State) :
    (triggeredRestart cause s).restarts = s.ctl.restart.restarts := by
  unfold triggeredRestart; split <;> rfl

/-- A trigger leaves a lockstep fault waiting that waits already. -/
theorem triggeredRestart_pending {s : State} (h : s.ctl.restart.permPending ≠ none) (cause : Nat) :
    (triggeredRestart cause s).permPending.isSome = true := by
  have hs := Option.isSome_iff_ne_none.mpr h
  unfold triggeredRestart mismatchRestart
  split
  · dsimp only
    split
    · rfl
    · exact hs
  · exact hs

/-- Outside BOOT a lockstep mismatch begins a hitless restart. -/
theorem mismatched_begins {s : State} (hm : s.modes.mode ≠ .boot) (hp : s.ctl.restart.lockstepPerm = false) :
    triggerRestart 1 (mismatched s) = beginRestart 1 (mismatched s) := by
  have h := triggerRestart_begins (s := mismatched s) (by rwa [mismatched_modes])
    (by rw [mismatched_restart]; exact hp) 1
  rwa [if_pos rfl] at h

/-- The mismatches of the last hour, with the present one, all count again at the same device time. -/
theorem mismatches_counted {s t : State} (ht : t.ctl.restart.mismatchTimes = mismatches s ++ [nowNs s])
    (hn : nowNs t = nowNs s) : mismatches t = mismatches s ++ [nowNs s] := by
  rw [mismatches, ht, hn, List.filter_append]
  simp [mismatches, List.filter_filter]

section
variable {s : State} (hn : s.ctl.restart.permPending = none)
include hn

/-- Outside BOOT the second mismatch of an hour waits for the end of the restart that it triggers. -/
theorem mismatched_restarts (hm : s.modes.mode ≠ .boot) (hp : s.ctl.restart.lockstepPerm = false) :
    let ts := mismatches s ++ [nowNs s]
    let t := triggerRestart 1 (mismatched s)
    t.ctl.restart.mismatchTimes = ts ∧ mismatch1h t = min 255 ts.length ∧ t.ctl.restart.lockstepPerm = false ∧
      t.ctl.restart.permPending = if 2 ≤ ts.length then some (min 255 ts.length) else none := by
  intro ts t
  obtain ⟨f, l, ht, -⟩ := beginRestart_eq 1 (mismatched s)
  rw [← mismatched_begins hm hp] at ht
  have hr : t.ctl.restart = restartBegun 1 (mismatched s) := congrArg (·.ctl.restart) ht
  have hnow : nowNs t = nowNs s := (congrArg nowNs ht).trans (nowNs_mismatched s)
  obtain ⟨htimes, hpend, hperm⟩ := restartBegun_lockstep 1 (mismatched s)
  rw [← hr, mismatched_restart] at htimes hpend hperm
  refine ⟨htimes, by rw [mismatch1h, mismatches_counted htimes hnow], hperm.trans hp, ?_⟩
  rw [hpend, mismatchRestart, hn]

/-- In BOOT the second mismatch of an hour is permanent at once. -/
theorem mismatched_resets (hm : s.modes.mode = .boot) :
    let ts := mismatches s ++ [nowNs s]
    let t := triggerRestart 1 (mismatched s)
    t.ctl.restart.mismatchTimes = ts ∧ t.ctl.restart.permPending = none ∧
      t.ctl.restart.lockstepPerm = (s.ctl.restart.lockstepPerm || decide (2 ≤ ts.length)) := by
  intro ts t
  have hr : t.ctl.restart = _ :=
    (triggerRestart_resets (s := mismatched s) (.inl (by rw [mismatched_modes]; exact hm)) 1).restart
  rw [hr, mismatched_restart, mismatched_modes, if_pos hm]
  refine ⟨rfl, rfl, congrArg (s.ctl.restart.lockstepPerm || ·) ?_⟩
  simp only [mismatchRestart, keptRestart, hn]
  by_cases h2 : 2 ≤ ts.length
  · rw [if_pos h2]; exact (decide_eq_true h2).symm
  · rw [if_neg h2]; exact (decide_eq_false h2).symm

end

/-- The events that trigger a hitless restart, with the cause of each. -/
def triggers : List (Instr × Nat) :=
  [(.lockstepMismatch, 1), (.watchdogExpiry, 2), (.ctlSramUncorrectable, 3), (.fwFatalException, 4)]

theorem exec_ctlSramUncorrectable (s : State) : exec .ctlSramUncorrectable s = .next (triggerRestart 3 s) := rfl
theorem exec_fwFatalException (s : State) : exec .fwFatalException s = execFwFatalException s := rfl

theorem fwEntered_iff (s : State) : fwEntered s = true ↔
    s.ctl.fwRunning = true ∨ (s.ctl.restart.active = true ∧ s.ctl.boot.stage = 6) := by
  simp [fwEntered]

section
variable {i : Instr} {cause : Nat} {s : State} (hi : (i, cause) ∈ triggers)
  (hw : cause = 2 → s.ctl.wdogArmed = true ∧ s.ctl.wdogLast + s.ctl.wdogPeriod * 1000000 ≤ nowNs s)
  (hf : cause = 4 → s.ctl.fwRunning = true ∨ (s.ctl.restart.active = true ∧ s.ctl.boot.stage = 6))
include hi hw hf

/-- Each of these events triggers, a lockstep mismatch once it is counted. -/
theorem exec_trigger : exec i s = .next (triggerRestart cause (if cause = 1 then mismatched s else s)) := by
  simp only [triggers, List.mem_cons, Prod.mk.injEq, List.not_mem_nil, or_false] at hi
  rcases hi with ⟨rfl, rfl⟩ | ⟨rfl, rfl⟩ | ⟨rfl, rfl⟩ | ⟨rfl, rfl⟩
  · exact exec_lockstepMismatch s
  · exact if_pos (hw rfl)
  · exact exec_ctlSramUncorrectable s
  · rw [exec_fwFatalException, execFwFatalException, if_pos ((fwEntered_iff s).mpr (hf rfl))]
    rfl

/-- Outside BOOT a trigger is logged and begins a hitless restart. -/
theorem exec_trigger_begins (hm : s.modes.mode ≠ .boot) (hp : s.ctl.restart.lockstepPerm = false) :
    ∃ s', LoggedAs (if cause = 1 then 14 else 15) s s' ∧ exec i s = .next (beginRestart cause s') := by
  rw [exec_trigger hi hw hf]
  by_cases hc : cause = 1
  · subst hc
    refine ⟨mismatched s, mismatched_loggedAs s, ?_⟩
    rw [if_pos rfl, mismatched_begins hm hp]
  · refine ⟨_, ?_, by rw [if_neg hc, triggerRestart_begins hm hp, if_neg hc]⟩
    rw [if_neg hc]
    exact logFault_loggedAs _ _ _ _ _ _ _ s

/-- In BOOT, or once the lockstep fault is permanent, a trigger resets the device into BOOT. -/
theorem exec_trigger_resets (h : s.modes.mode = .boot ∨ s.ctl.restart.lockstepPerm = true) :
    ∃ t, exec i s = .next t ∧ ResetInBoot { permRestart (keptRestart { triggeredRestart cause s with cause := cause })
      with mismatchTimes := if s.modes.mode = .boot then (triggeredRestart cause s).mismatchTimes else [] }
      s.mem.dram t := by
  refine ⟨_, exec_trigger hi hw hf, ?_⟩
  by_cases hc : cause = 1
  · obtain ⟨e, counts, next, ev, _, hs⟩ := mismatched_eq s
    have hr := triggerRestart_resets (s := mismatched s) (by rw [hs]; exact h) cause
    rw [if_pos hc, triggeredRestart, if_pos hc]
    rw [hs] at hr ⊢
    exact hr
  · rw [if_neg hc, triggeredRestart, if_neg hc]
    exact triggerRestart_resets h cause

end

/-! ### What triggers nothing, and KICK (R76) -/

theorem watchdogExpiry_quiet {s : State}
    (h : s.ctl.wdogArmed = false ∨ nowNs s < s.ctl.wdogLast + s.ctl.wdogPeriod * 1000000) :
    exec .watchdogExpiry s = .next s := by
  refine if_neg ?_
  rintro ⟨ha, ht⟩
  rcases h with h | h
  · exact Bool.false_ne_true (h.symm.trans ha)
  · omega

theorem fwFatalException_quiet {s : State} (hrun : s.ctl.fwRunning = false)
    (h : s.ctl.restart.active = false ∨ s.ctl.boot.stage ≠ 6) : exec .fwFatalException s = .next s := by
  have hne : fwEntered s ≠ true := by
    rw [ne_eq, fwEntered_iff]
    rintro (h' | ⟨ha, hs⟩)
    · exact Bool.false_ne_true (hrun.symm.trans h')
    · exact h.elim (fun h => Bool.false_ne_true (h.symm.trans ha)) (fun h => h hs)
  rw [exec_fwFatalException, execFwFatalException, if_neg hne]

theorem exec_kick (m : Master) (v : Word32) (s : State) : exec (.kick m v) s = execKick m v s := rfl

theorem kick_other {m : Master} (h : m ≠ .cpuData) (v : Word32) (s : State) :
    exec (.kick m v) s = .next (busError m true 0x40000028 s) := by
  rw [exec_kick, execKick, if_pos h]
  rfl

theorem kick_cpuData (v : Word32) (s : State) : exec (.kick .cpuData v) s = .next { s with ctl := { s.ctl with
    wdogPeriod := if 10 ≤ v.toNat % 1024 ∧ v.toNat % 1024 ≤ 1000 then v.toNat % 1024 else s.ctl.wdogPeriod
    wdogLast := if v.getLsbD 31 then nowNs s else s.ctl.wdogLast } } := by
  have hp : bitsAt v.toNat 0 10 = v.toNat % 1024 := by simp [bitsAt]
  rw [exec_kick, execKick, if_neg (not_not_intro rfl)]
  simp only [hp]

/-! ### The image of a restart (R98) -/

/-- A restart that is to enter firmware: in progress, at STAGE 7. -/
def atImage (s : State) : Prop := s.ctl.restart.active = true ∧ s.ctl.boot.stage = 7

theorem imageCheck_ignored {digest : Nat} {s : State}
    (h : ¬ atImage s ∨ digest ≠ bodyDigest s.mem.dram 0) : exec (.restartImageCheckDone digest) s = .next s := by
  refine if_pos ?_
  rcases h with h | h
  · by_cases ha : s.ctl.restart.active = true
    · exact .inr (.inl fun hs => h ⟨ha, hs⟩)
    · simp [ha]
  · exact .inr (.inr h)

section
variable {digest : Nat} {s : State} (hd : digest = bodyDigest s.mem.dram 0) (hi : atImage s)
include hd hi

theorem imageCheck_checked : exec (.restartImageCheckDone digest) s =
    if digest = s.ctl.imgDigest then .next (enterFirmware s)
    else if s.ctl.boot.source = 2 then .next (failRestart s)
    else .next { s with ctl := { s.ctl with restart := { s.ctl.restart with recopy := true } } } := by
  refine if_neg ?_
  rintro (h | h | h)
  · simp [hi.1] at h
  · exact h hi.2
  · exact h hd

theorem imageCheck_enters (hm : bodyDigest s.mem.dram 0 = s.ctl.imgDigest) :
    exec (.restartImageCheckDone digest) s = .next (enterFirmware s) := by
  rw [imageCheck_checked hd hi, if_pos (hd.trans hm)]

theorem imageCheck_recopies (hm : bodyDigest s.mem.dram 0 ≠ s.ctl.imgDigest) (hs : s.ctl.boot.source ≠ 2) :
    exec (.restartImageCheckDone digest) s =
      .next { s with ctl := { s.ctl with restart := { s.ctl.restart with recopy := true } } } := by
  rw [imageCheck_checked hd hi, if_neg (by rwa [hd]), if_neg hs]

theorem imageCheck_fails (hm : bodyDigest s.mem.dram 0 ≠ s.ctl.imgDigest) (hs : s.ctl.boot.source = 2) :
    exec (.restartImageCheckDone digest) s = .next (failRestart s) := by
  rw [imageCheck_checked hd hi, if_neg (by rwa [hd]), if_pos hs]

end

theorem recopyDone_ignored {s : State} (h : ¬ (atImage s ∧ s.ctl.restart.recopy = true)) :
    exec .restartRecopyDone s = .next s :=
  if_neg fun ⟨ha, hs, hr⟩ => h ⟨⟨ha, hs⟩, hr⟩

theorem recopyDone_enters {s : State} (hi : atImage s) (hr : s.ctl.restart.recopy = true) :
    exec .restartRecopyDone s = .next (enterFirmware (copyImage s.flash.bytes (slotAt s.ctl.boot.source) s)) :=
  if_pos ⟨hi.1, hi.2, hr⟩

/-- The copy in the firmware region reads as the image at its source. -/
theorem copyImage_reads {s : State} {m : Mem} (hm : memWf m = true) (hd : memWf s.mem.dram = true) (a : Nat) {i : Nat}
    (hi : i < 4096 + (headerOf m a).bodyLen) : memRead (copyImage m a s).mem.dram i = memRead m (a + i) := by
  have h := memRead_memCopy hm hd a 0 hi
  rwa [Nat.zero_add] at h

/-- A restart that fails resets the device, with the restart's duration in ELAPSED (R103). -/
theorem failRestart_resets (s : State) :
    ResetInBoot (permRestart (keptRestart { s.ctl.restart with elapsed := elapsedNow s })) s.mem.dram (failRestart s) :=
  resetBoot_resets (stopLaunches { s with ctl := { s.ctl with
    restart := { s.ctl.restart with elapsed := elapsedNow s } } })

/-! ### DONE and the limit of 2 s (R101 to R103) -/

theorem exec_done (m : Master) (v : Word32) (s : State) : exec (.done m v) s = execDone m v s := rfl

theorem done_noPath {m : Master} {s : State} (h : regPath s m = false) (v : Word32) :
    exec (.done m v) s = .next (busError m true 0x40000020 s) := by
  rw [exec_done, execDone, h]
  rfl

theorem done_ignored {m : Master} {v : Word32} {s : State} (hp : regPath s m = true)
    (h : m ≠ .cpuData ∨ v.getLsbD 1 = false ∨ s.ctl.restart.active = false ∨ s.ctl.boot.stage ≠ 6) :
    exec (.done m v) s = .next s := by
  rw [exec_done, execDone, hp, if_neg (by simp), if_neg]
  rintro ⟨hm, hv, ha, hs⟩
  rcases h with h | h | h | h
  · exact h hm
  · exact Bool.false_ne_true (h.symm.trans hv)
  · exact Bool.false_ne_true (h.symm.trans ha)
  · exact h hs

theorem done_ends {v : Word32} {s : State} (hv : v.getLsbD 1 = true) (ha : s.ctl.restart.active = true)
    (hs : s.ctl.boot.stage = 6) : exec (.done .cpuData v) s = .next (endRestart s) := by
  rw [exec_done, execDone, if_neg (by simp [regPath]), if_pos ⟨rfl, hv, ha, hs⟩]

/-- The state from which the end of a restart is reported. -/
def restartEnded (s : State) : State :=
  { s with mbx := redoWork s.mbx
           ctl := { s.ctl with fwRunning := true
                               restart := { s.ctl.restart with active := false, elapsed := elapsedNow s } } }

/-- What follows the reports of the end of a restart keeps them, the control domain and the mailboxes. -/
theorem endRestart_keeps (s : State) : KeepsControl (restartEvents (restartEnded s)) (endRestart s) :=
  ((KeepsControl.reselect 0 _).trans (.hifSync _)).trans (.settle _)

theorem restartTimeout_fails {s : State} (ha : s.ctl.restart.active = true)
    (ht : s.ctl.restart.startedAt + 2000000000 ≤ nowNs s) : exec .restartTimeout s = .next (failRestart s) :=
  if_pos ⟨ha, ht⟩

theorem restartTimeout_early {s : State}
    (h : s.ctl.restart.active = false ∨ nowNs s < s.ctl.restart.startedAt + 2000000000) :
    exec .restartTimeout s = .next s := by
  refine if_neg ?_
  rintro ⟨ha, ht⟩
  rcases h with h | h
  · exact Bool.false_ne_true (h.symm.trans ha)
  · omega

end Sys2Proof.Machine
end

section
open Sys2Proof Sys2Proof.Machine

/-- Settles O45: a trigger logs its cause and then begins the restart or resets into BOOT, so each clause reads off what
these two do; the end of a restart is the reports' own state, which nothing that follows takes back. -/
theorem controlRestartStartsAndEnds : Obligations.ControlRestartStartsAndEnds := by
  unfold Obligations.ControlRestartStartsAndEnds
  refine ⟨⟨?trigger, ?mismatch, ?quiet, ?kick⟩, ⟨?image, ?doneNoPath, ?doneIgnored, ?done, ?timeout⟩⟩
  case trigger =>
    intro i cause s hi hw hf
    refine ⟨fun hm hp => ?hitless, fun h => ?reset⟩
    case hitless =>
      obtain ⟨_, ⟨e, counts, next, ev, times, perm, hc, rfl⟩, hex⟩ := exec_trigger_begins hi hw hf hm hp
      obtain ⟨f, l, ht, hfl⟩ := beginRestart_eq cause _
      rw [ht] at hex
      refine ⟨_, hex, restartBegun_active _ _, restartBegun_cause _ _, restartBegun_recopy _ _,
        restartBegun_startedAt _ _, restartBegun_restarts _ _, elapsedNow_of_active (restartBegun_active _ _),
        rfl, rfl, rfl, rfl, rfl, rfl, ?_, ?_, releasedMbx_owner rfl _, releasedMbx_bells _ _, releasedMbx_inWork _ _,
        ⟨e, rfl, hc⟩, rfl, rfl, rfl, rfl, rfl, rfl, rfl, rfl, rfl, rfl, hfl⟩
      · simp [ctlBegun]
      · exact fun e he q hq m hm => coresAndDma_closed _ m hm e he q hq
    case reset =>
      obtain ⟨t, hex, hr⟩ := exec_trigger_resets hi hw hf h
      refine ⟨t, hex, hr.mode, ?_⟩
      rw [hr.restart]
      refine ⟨rfl, triggeredRestart_restarts _ _, fun hc hn => ?_, fun hn => ?_, rfl, hr.stopped, hr.chans, hr.dram⟩
      · simp [permRestart, keptRestart, triggeredRestart, hc, hn]
      · simp [permRestart, keptRestart, triggeredRestart_pending hn]
  case mismatch =>
    exact fun s hn => ⟨_, exec_lockstepMismatch s, mismatched_restarts hn, mismatched_resets hn⟩
  case quiet => exact fun s => ⟨watchdogExpiry_quiet, fwFatalException_quiet⟩
  case kick =>
    refine fun m v s => ⟨fun h => kick_other h v s, ?_⟩
    rintro rfl
    exact kick_cpuData v s
  case image =>
    intro digest s
    refine ⟨imageCheck_ignored, fun hd hi hm => ?_, imageCheck_recopies, fun hd hi hm hs => ?_, recopyDone_ignored,
      fun hi hr => ?_⟩
    · exact ⟨_, imageCheck_enters hd hi hm, ⟨rfl, rfl, rfl, rfl, rfl, rfl, rfl⟩, rfl⟩
    · obtain ⟨mode, chans, -, -, restart⟩ := failRestart_resets s
      exact ⟨_, imageCheck_fails hd hi hm hs, mode, chans, by rw [restart]; rfl, by rw [restart]; rfl⟩
    · exact ⟨_, recopyDone_enters hi hr, ⟨rfl, rfl, rfl, rfl, rfl, rfl, rfl⟩, rfl, rfl,
        fun hd hf i hlt => copyImage_reads hf hd _ hlt⟩
  case doneNoPath => exact fun m v s h => done_noPath h v
  case doneIgnored => exact fun m v s hp h => done_ignored hp h
  case done =>
    intro v s hv ha hs
    refine ⟨_, done_ends hv ha hs, ?_⟩
    have hk := endRestart_keeps s
    obtain ⟨ev, fl, pw, hev, hfl⟩ := restartEvents_frame (restartEnded s)
    rw [hk.ctl, hk.mbx, hk.flt, hk.flash, hev]
    refine ⟨rfl, rfl, rfl, rfl, elapsedNow_of_active ha, rfl, rfl, rfl, rfl, rfl, fun hn => ?_, fun hn => ?_, hfl,
      fun hs0 => ?_⟩
    · exact Bool.or_eq_true_iff.mpr (.inr (Option.isSome_iff_ne_none.mpr hn))
    · simp [restartEnded, permRestart, hn]
    · obtain ⟨hrestarted, hwrite, htest, hfault⟩ := restartEvents_reported (s := restartEnded s) hs0
      refine ⟨hrestarted.mono hk.events, fun k hw hb => ⟨?_, (hwrite k hw hb).mono hk.events⟩, fun ht => ?_,
        fun n hn hp => (hfault n hn hp).mono hk.events⟩
      · simp [reportedFlash, restartEnded, hw, hb]
      · obtain ⟨i, hi⟩ := htest ht
        obtain ⟨e, he, hc, hd⟩ := hi.mono hk.events
        exact ⟨e, he, hc, by rw [hd]; rfl⟩
  case timeout =>
    refine fun s => ⟨fun ha ht => ?_, restartTimeout_early⟩
    obtain ⟨mode, chans, -, -, restart⟩ := failRestart_resets s
    refine ⟨_, restartTimeout_fails ha ht, mode, chans, ?_⟩
    rw [restart]
    exact ⟨rfl, elapsedNow_of_active ha, rfl⟩
end

section
/-! Mailbox slots (R105 to R109, R119): what a claiming read, a write to slot memory and a doorbell do, one lemma for
each case, then the statement. -/

namespace Sys2Proof.Machine

/-! ### Claiming reads (R105 to R107) -/

/-- The state with a record of the claiming reads of a cycle. -/
def withReads (l : List ClaimRead) (s : State) : State := { s with mbx := { s.mbx with claimReads := l } }

/-- The state after the reads of a cycle. -/
def cycleReads (n : Nat) (rs : List Claim) (s : State) : State :=
  (claimOrder rs).foldl (noteClaim n) (withReads [] s)

theorem exec_ctlMbxSlotClaim (n : Fin 32) (c : Claim) (others : List Claim) (s : State) :
    exec (.ctlMbxSlotClaim n c others) s =
      let t := cycleReads n.val (c :: others) s
      .next (answered ((t.mbx.claimReads.find? fun r =>
        decide (r.master = c.master ∧ r.node = c.node.val)).bind ClaimRead.value) t) := rfl

/-- A read of a slot that finds it owned, or by a master that carries no path. -/
def ReadsOnly (n : Nat) (s : State) (m : Master) : Prop :=
  slotPath s m = true ∧ (masterPath m = none ∨ (slotOf s n).owner ≠ none)

theorem claimRead_claims {n : Nat} {m : Master} {p : Path} {s : State} (hm : slotPath s m = true)
    (hp : masterPath m = some p) (ho : (slotOf s n).owner = none) (node : Nat) :
    claimRead n m node s = (some (slotValue (claimSlot p node (slotOf s n)) 0),
      setSlot n (claimSlot p node (slotOf s n)) s) := by
  simp [claimRead, hm, hp, ho]

theorem claimRead_of_readsOnly {n : Nat} {m : Master} {s : State} (h : ReadsOnly n s m) (node : Nat) :
    claimRead n m node s = (some (slotValue (slotOf s n) (ownerCode (slotOf s n))), s) := by
  obtain ⟨hm, hp | ho⟩ := h
  · simp [claimRead, hm, hp]
  · cases hp : masterPath m <;> simp [claimRead, hm, hp, ho]

/-- The record of a claiming read. -/
def recordOf (r : Claim) (v : Nat) : ClaimRead := { master := r.master, node := r.node.val, value := some v }

theorem noteClaim_of_read {n v : Nat} {r : Claim} {s t : State}
    (h : claimRead n r.master r.node.val s = (some v, t)) :
    noteClaim n s r = withReads (t.mbx.claimReads ++ [recordOf r v]) t := by
  rw [noteClaim, h]
  rfl

/-- Reads that find the slot owned add to the record of the cycle's reads alone. -/
theorem noteClaims_readsOnly {n : Nat} {s : State} {rs : List Claim} (h : ∀ r ∈ rs, ReadsOnly n s r.master) :
    ∃ l, rs.foldl (noteClaim n) s = withReads (s.mbx.claimReads ++ l) s := by
  induction rs generalizing s with
  | nil => exact ⟨[], by rw [List.append_nil]; rfl⟩
  | cons r rs ih =>
    obtain ⟨hr, hrs⟩ := List.forall_mem_cons.mp h
    have hstep := noteClaim_of_read (claimRead_of_readsOnly hr r.node.val)
    obtain ⟨l, hl⟩ := ih (s := noteClaim n s r) (by rw [hstep]; exact hrs)
    rw [hstep] at hl
    rw [List.foldl_cons, hstep, hl]
    exact ⟨_, congrArg (withReads · s) (List.append_assoc _ _ _)⟩

theorem claimRank_mem (m : Master) : claimRank m ∈ [1, 2, 3, 4] := by
  cases m <;> decide

theorem mem_claimOrder {r : Claim} {rs : List Claim} (h : r ∈ claimOrder rs) : r ∈ rs := by
  obtain ⟨_, -, hr⟩ := List.mem_flatMap.mp h
  exact (List.mem_filter.mp hr).1

/-- A read whose path comes before those of all others is served first. -/
theorem claimOrder_first {c : Claim} {others : List Claim}
    (h : ∀ o ∈ others, claimRank c.master < claimRank o.master) :
    claimOrder (c :: others) = c :: claimOrder others := by
  have hnone : ∀ k, k ≤ claimRank c.master → others.filter (fun r => claimRank r.master = k) = [] := by
    intro k hk
    refine List.filter_eq_nil_iff.mpr fun o ho => ?_
    have := h o ho
    simp only [decide_eq_true_eq]
    omega
  have hc := claimRank_mem c.master
  simp only [List.mem_cons, List.not_mem_nil, or_false] at hc
  rcases hc with hk | hk | hk | hk <;> simp only [hk] at hnone <;> simp [claimOrder, hk, hnone]

/-- The read that is served first answers its master, and those after it add to the record of reads alone. -/
theorem ctlMbxSlotClaim_first {n : Fin 32} {m : Master} {node : Fin 512} {others : List Claim} {s t : State} {v : Nat}
    (hfirst : ∀ o ∈ others, claimRank m < claimRank o.master)
    (hread : claimRead n.val m node.val (withReads [] s) = (some v, withReads [] t))
    (hothers : ∀ o ∈ others, ReadsOnly n.val t o.master) :
    ∃ l, exec (.ctlMbxSlotClaim n ⟨m, node⟩ others) s = .next (returned v (withReads l t)) := by
  obtain ⟨l, hl⟩ := noteClaims_readsOnly (s := withReads [recordOf ⟨m, node⟩ v] t)
    fun o ho => hothers o (mem_claimOrder ho)
  have hall : cycleReads n.val (⟨m, node⟩ :: others) s = withReads (recordOf ⟨m, node⟩ v :: l) t := by
    rw [cycleReads, claimOrder_first hfirst, List.foldl_cons, noteClaim_of_read hread]
    exact hl
  have hmine : (recordOf ⟨m, node⟩ v :: l).find? (fun r => decide (r.master = m ∧ r.node = node.val)) =
      some (recordOf ⟨m, node⟩ v) := List.find?_cons_of_pos (by simp [recordOf])
  refine ⟨recordOf ⟨m, node⟩ v :: l, ?_⟩
  rw [exec_ctlMbxSlotClaim, hall]
  exact congrArg (fun r : Option ClaimRead => (.next (answered (r.bind ClaimRead.value) (withReads _ t)) : Out)) hmine

theorem claimSlot_owner (p : Path) (node : Nat) (x : Slot) : (claimSlot p node x).owner = some p := rfl

/-- A read of an unowned slot by a path claims it ahead of the later paths of the cycle. -/
theorem ctlMbxSlotClaim_claims {n : Fin 32} {m : Master} {node : Fin 512} {others : List Claim} {p : Path} {s : State}
    (hm : slotPath s m = true) (hp : masterPath m = some p) (ho : (slotOf s n.val).owner = none)
    (hothers : ∀ o ∈ others, slotPath s o.master = true ∧ claimRank m < claimRank o.master) :
    let x := claimSlot p node.val (slotOf s n.val)
    ∃ l, exec (.ctlMbxSlotClaim n ⟨m, node⟩ others) s =
      .next (returned (slotValue x 0) (withReads l (setSlot n.val x s))) := by
  have hread := claimRead_claims (s := withReads [] s) hm hp ho node.val
  refine ctlMbxSlotClaim_first (fun o h => (hothers o h).2) hread fun o h => ⟨(hothers o h).1, .inr ?_⟩
  rw [slotOf_setSlot_self, claimSlot_owner]
  exact Option.some_ne_none p

/-- Any other read of a slot changes nothing. -/
theorem ctlMbxSlotClaim_reads {n : Fin 32} {m : Master} {node : Fin 512} {s : State} (h : ReadsOnly n.val s m) :
    ∃ l, exec (.ctlMbxSlotClaim n ⟨m, node⟩ []) s =
      .next (returned (slotValue (slotOf s n.val) (ownerCode (slotOf s n.val))) (withReads l s)) :=
  ctlMbxSlotClaim_first (by simp) (claimRead_of_readsOnly (s := withReads [] s) h _) (by simp)

/-! ### Slot memory (R108) -/

theorem slotMemory_other {s : State} {m : Master} {node : Nat} (hm : m ≠ .cpuData)
    (ho : ∀ k, owns m node (slotOf s k) = false) (off len : Nat) :
    slotMemory s m node off len = List.replicate len 0 := by
  simp [slotMemory, hm, ho]

theorem slotMemory_cpuData (s : State) (node off len : Nat) :
    slotMemory s .cpuData node off len = memReads s.mbx.mem off len := by
  simp [slotMemory, memReads]

/-- Who may write to a slot's memory: its owner in CLAIMED or DONE, the control processor data port in BUSY. -/
def MayWriteSlot (m : Master) (node : Nat) (x : Slot) : Prop :=
  (owns m node x = true ∧ (x.state = 1 ∨ x.state = 3)) ∨ (m = .cpuData ∧ x.state = 2)

section
variable {m : Master} {node : Fin 512} {o : Fin 131072} {s : State} (hp : slotPath s m = true)
include hp

theorem mbxSlotMemoryWrite_taken (h : MayWriteSlot m node.val (slotOf s (o.val / 4096))) (d : List Byte) :
    exec (.mbxSlotMemoryWrite m node o d) s =
      .next { s with mbx := { s.mbx with mem := memWrites s.mbx.mem o.val d } } := by
  have hex : exec (.mbxSlotMemoryWrite m node o d) s = .next (slotWrite (o.val / 4096) (o.val % 4096) d s) :=
    (if_neg (by simp [hp])).trans (if_pos h)
  rw [hex, slotWrite, Nat.div_add_mod']

theorem mbxSlotMemoryWrite_dropped (h : ¬ MayWriteSlot m node.val (slotOf s (o.val / 4096))) (d : List Byte) :
    exec (.mbxSlotMemoryWrite m node o d) s =
      .next { s with mbx := { s.mbx with dropped := rcAdd 65535 1 s.mbx.dropped } } :=
  (if_neg (by simp [hp])).trans (if_neg h)

end

/-! ### Doorbells (R109, R119) -/

theorem queueBell_last {b : Nat × Path × Nat} {es : List (Nat × Path × Nat)} (h : ∀ e ∈ es, e.2.2 ≠ b.2.2) :
    queueBell b es = es ++ [b] := by
  induction es with
  | nil => rfl
  | cons e es ih =>
    obtain ⟨he, hes⟩ := List.forall_mem_cons.mp h
    rw [queueBell, if_neg fun hb => he hb.1, ih hes, List.cons_append]

/-- Of two doorbells of one cycle the one of the earlier path stands first. -/
theorem queueBell_path {b e : Nat × Path × Nat} (ht : e.2.2 = b.2.2) (hp : pathCode b.2.1 < pathCode e.2.1) :
    queueBell b [e] = [b, e] := if_pos ⟨ht, .inl hp⟩

theorem exec_doorbell (n : Fin 32) (m : Master) (node : Fin 512) (v : Word32) (s : State) :
    exec (.doorbell n m node v) s = .next (slotRegWrite n.val m node.val v s) := rfl

section
variable {n : Fin 32} {m : Master} {node : Fin 512} {v : Word32} {s : State} (hm : slotPath s m = true)
  (hv : v.getLsbD 30 = true)
include hm hv

theorem doorbell_rings {p : Path} (hp : masterPath m = some p) (hr : v.getLsbD 31 = false)
    (ho : owns m node.val (slotOf s n.val) = true)
    (hs : (slotOf s n.val).state = 1 ∨ (slotOf s n.val).state = 3) :
    exec (.doorbell n m node v) s = .next (ringBell n.val p s) := by
  simp only [exec_doorbell, slotRegWrite, hm, hv, hp, hr, ho, hs, Bool.not_true, Bool.false_eq_true, if_false,
    if_true, and_self]

theorem doorbell_ignored (h : v.getLsbD 31 = true ∨ owns m node.val (slotOf s n.val) = false ∨
      ((slotOf s n.val).state ≠ 1 ∧ (slotOf s n.val).state ≠ 3)) :
    exec (.doorbell n m node v) s = .next (bellIgnored s) := by
  rw [exec_doorbell]
  rcases h with h | h | ⟨h1, h3⟩
  · simp [slotRegWrite, hm, hv, h]
  · cases hp : masterPath m <;> simp [slotRegWrite, hm, hv, h, hp]
  · cases hp : masterPath m <;> simp [slotRegWrite, hm, hv, h1, h3, hp]

end

/-- The slot that rings is BUSY with its generation noted; the others stay. -/
theorem slotOf_ringBell_self (n : Nat) (p : Path) (s : State) : slotOf (ringBell n p s) n =
    { slotOf s n with state := 2, bellGen := (slotOf s n).gen } := slotOf_setSlot_self _ _ s

theorem slotOf_ringBell_ne {n k : Nat} (h : k ≠ n) (p : Path) (s : State) :
    slotOf (ringBell n p s) k = slotOf s k := slotOf_setSlot_ne _ s h

end Sys2Proof.Machine
end

section
open Sys2Proof Sys2Proof.Machine

/-- Settles O8: the first of a cycle's reads claims, so those after it find the slot owned; memory writes and doorbells
split on who may write and ring. -/
theorem mailboxSlotsFollowTheirOwner : Obligations.MailboxSlotsFollowTheirOwner := by
  unfold Obligations.MailboxSlotsFollowTheirOwner
  refine ⟨⟨?claims, ?ranks, ?owned, ?noPath⟩, ⟨?other, ?cpuData, ?write⟩, ?doorbell⟩
  case claims =>
    intro n m node others p s hm hp ho hothers
    obtain ⟨l, hex⟩ := ctlMbxSlotClaim_claims (node := node) hm hp ho hothers
    exact ⟨_, _, hex, slotOf_setSlot_self _ _ s, rfl, rfl, rfl, rfl, rfl, fun k hk => slotOf_setSlot_ne _ s hk, rfl⟩
  case ranks => decide
  case owned =>
    intro n m node p q s hm hp ho
    obtain ⟨l, hex⟩ := ctlMbxSlotClaim_reads (node := node) ⟨hm, .inr (ho ▸ Option.some_ne_none q)⟩
    refine ⟨_, hex, ?_, rfl⟩
    rw [ownerCode, ho]
    rfl
  case noPath =>
    intro n m node s hm hp
    obtain ⟨l, hex⟩ := ctlMbxSlotClaim_reads (n := n) (node := node) ⟨hm, .inl hp⟩
    exact ⟨_, hex, rfl, rfl⟩
  case other => exact fun s m node off len hm ho => slotMemory_other hm ho off len
  case cpuData => exact slotMemory_cpuData
  case write =>
    intro m node o d s hp _ hwf
    refine ⟨fun h => ?_, fun h => mbxSlotMemoryWrite_dropped hp h d⟩
    exact ⟨_, mbxSlotMemoryWrite_taken hp h d, fun k hk => memRead_memWrites_in hwf _ d k hk,
      fun a ha => memRead_memWrites_out _ d ha, rfl⟩
  case doorbell =>
    refine fun n m node v s hm hv => ⟨fun p hp hr ho hs => ?_, doorbell_ignored hm hv⟩
    refine ⟨_, doorbell_rings hm hv hp hr ho hs, slotOf_ringBell_self _ p s, rfl,
      fun h => queueBell_last (b := (n.val, p, s.tim.now)) h, ?_,
      fun k hk => slotOf_ringBell_ne hk p s, rfl⟩
    intro e he ht hlt
    rw [ringBell, setSlot, he]
    exact queueBell_path ht hlt
end

section
/-! DEV.MGMT and DEV.GPIO (R122, R123, R130, R135, R136): what their work answers, one lemma for each case, then the
statement. -/

namespace Sys2Proof.Machine

/-! ### Requests that are carried out -/

theorem serve_accepted_ok {c : CmdSpec} {r : Req} {w : Req → State → Verdict} {s t : State} {ts : List Tlv}
    (h : accepted c r s) (hw : w r s = .ok t ts false) : serve c r w s = okAnswer c r ts t := by
  obtain ⟨hf, hc, hr⟩ := h
  exact serve_ok hf hc hr hw

theorem serve_accepted_err {c : CmdSpec} {r : Req} {w : Req → State → Verdict} {s : State} {st d : Nat}
    (h : accepted c r s) (hw : w r s = .err st d (alwaysTlvs c r s)) :
    serve c r w s = refusal c r st d s := by
  obtain ⟨hf, hc, -⟩ := h
  exact serve_err hf hc hw

/-! ### DEV.MGMT (R122, R123, R130, R135) -/

theorem exec_devMgmt (r : Req) (s : State) : exec (.devMgmt r) s = .next (serve sDevMgmt r devMgmtWork s) := rfl

/-- The destination of events that a value of EVT_DEST names; zeros name none. -/
def evtDestOf (v : Nat) : Option (Word32 × Nat) :=
  if v = 0 then none else some (BitVec.ofNat 32 (fieldAt v 0 4), fieldAt v 4 2)

/-- The mailboxes as DEV.MGMT leaves them. -/
def mgmtSet (r : Req) (b : Mbx) : Mbx :=
  { b with
    ipv4 := match getTlv r 0x0140 with | some v => BitVec.ofNat 32 v | none => b.ipv4
    netmask := match getTlv r 0x0141 with | some v => BitVec.ofNat 32 v | none => b.netmask
    udpPort := (getTlv r 0x0142).getD b.udpPort
    key := match getTlv r 0x0143 with | some v => some (BitVec.ofNat 256 v) | none => b.key
    sources := if (getTlv r 0x0143).isSome then [] else b.sources
    evtDest := match getTlv r 0x0144 with | some v => evtDestOf v | none => b.evtDest }

theorem devMgmtWork_sets {r : Req} (h : fieldAt (tlvD r 0x0144 0) 6 2 = 0) (s : State) :
    devMgmtWork r s = .ok { s with mbx := mgmtSet r s.mbx } [] false := by
  simp only [devMgmtWork, paramsThen, firstBad, h, ne_eq, not_true_eq_false, decide_false]
  rfl

theorem devMgmtWork_refuses {r : Req} (h : fieldAt (tlvD r 0x0144 0) 6 2 ≠ 0) (s : State) :
    devMgmtWork r s = .err stBadParam 0x0144 [] := by
  simp [devMgmtWork, paramsThen, firstBad, h]

/-! ### DEV.GPIO (R136) -/

theorem exec_devGpio (r : Req) (s : State) : exec (.devGpio r) s = .next (serve sDevGpio r devGpioWork s) := rfl

/-- A register with the bits of a mask taken from a new value. -/
def maskedIn (mask new old : Word32) : Word32 := (new &&& mask) ||| (old &&& ~~~mask)

theorem maskedIn_getLsbD (mask new old : Word32) (k : Nat) :
    (maskedIn mask new old).getLsbD k = if mask.getLsbD k then new.getLsbD k else old.getLsbD k := by
  by_cases hk : k < 32
  · rw [maskedIn, BitVec.getLsbD_or, BitVec.getLsbD_and, BitVec.getLsbD_and, BitVec.getLsbD_not]
    cases mask.getLsbD k <;> simp [hk]
  · have hout (x : Word32) : x.getLsbD k = false := BitVec.getLsbD_of_ge x k (Nat.le_of_not_lt hk)
    simp [hout]

section
variable (r : Req) (s : State)

/-- MASK, DIR and OUT of a DEV.GPIO request. -/
def gpioMask : Word32 := BitVec.ofNat 32 (tlvD r 0x0162 0)
def gpioDir : Word32 := BitVec.ofNat 32 (tlvD r 0x0160 0)
def gpioOut : Word32 := BitVec.ofNat 32 (tlvD r 0x0161 0)

/-- The request makes an output of a ball that is named as an input. -/
def gpioClash : Prop :=
  ∃ k, k < 32 ∧ (gpioMask r).getLsbD k = true ∧ (gpioDir r).getLsbD k = true ∧ gpioNamed s k = true

/-- The GPIO registers as DEV.GPIO leaves them. -/
def gpioSet (g : Gpio) : Gpio :=
  { g with dir := maskedIn (gpioMask r) (gpioDir r) g.dir, out := maskedIn (gpioMask r) (gpioOut r) g.out }

variable {r s}

theorem gpioClash_iff : ((List.range 32).any fun k =>
    (gpioMask r).getLsbD k && (gpioDir r).getLsbD k && gpioNamed s k) = true ↔ gpioClash r s := by
  simp only [List.any_eq_true, List.mem_range, Bool.and_eq_true, gpioClash, and_assoc]

theorem devGpioWork_refuses (h : gpioClash r s) : devGpioWork r s = .err stBadParam 0x0160 [] :=
  if_pos (gpioClash_iff.mpr h)

theorem devGpioWork_sets (h : ¬ gpioClash r s) : devGpioWork r s =
    .ok { s with gpio := gpioSet r s.gpio } [tlv 0x0163 4 (gpioLevel s.gpio).toNat] false :=
  if_neg (mt gpioClash_iff.mp h)

end

end Sys2Proof.Machine
end

section
open Sys2Proof Sys2Proof.Machine

/-- Settles O13: the work of each command is one update of the registers that it may set, or a refusal. -/
theorem devMgmtAndGpioSetMaskedFields : Obligations.DevMgmtAndGpioSetMaskedFields := by
  unfold Obligations.DevMgmtAndGpioSetMaskedFields
  refine ⟨?mgmt, ?mgmtRefused, ?gpio⟩
  case mgmt =>
    intro r s ha hd
    have hex : exec (.devMgmt r) s = .next (okAnswer sDevMgmt r [] { s with mbx := mgmtSet r s.mbx }) := by
      rw [exec_devMgmt, serve_accepted_ok ha (devMgmtWork_sets hd s)]
    refine ⟨_, hex, rfl, rfl, rfl, rfl, rfl, fun h => ?_, fun h => ?_, fun v h hv => ?_, rfl⟩
    · simp [mgmtSet, h]
    · simp [mgmtSet, h, evtDestOf]
    · simp [mgmtSet, h, evtDestOf, hv]
  case mgmtRefused =>
    intro r s ha hd
    rw [exec_devMgmt, serve_accepted_err ha (devMgmtWork_refuses hd s)]
  case gpio =>
    intro r s ha m d o
    refine ⟨fun hfree => ?_, fun k hk hm hd hn => ?_⟩
    · have hno : ¬ gpioClash r s := by
        rintro ⟨k, hk, hm, hd, hn⟩
        exact Bool.false_ne_true ((hfree k hk hm hd).symm.trans hn)
      refine ⟨{ s with gpio := gpioSet r s.gpio }, ?_, maskedIn_getLsbD m d s.gpio.dir,
        maskedIn_getLsbD m o s.gpio.out, rfl⟩
      rw [exec_devGpio, serve_accepted_ok ha (devGpioWork_sets hno)]
    · rw [exec_devGpio, serve_accepted_err ha (devGpioWork_refuses ⟨k, hk, hm, hd, hn⟩)]
end
